-- ==== Sys2Proof/Word.lean ====
section
/-! DEFINITION. The plain types of the relay's data: addresses, counters, port numbers, and a record of four like things.
Bit vectors are used for what the manual treats as bits (character values, checks, counters that stop at their width);
counts, lengths and times are natural numbers. -/

namespace Sys2Proof

/-- A character's value or a station address (R1, R9). -/
abbrev Byte := BitVec 8

/-- A check or a backoff register (R7, R69). -/
abbrev Word := BitVec 16

/-- A counter: "Every counter is 32 bits wide" (00_scope.md, Counters). -/
abbrev Count := BitVec 32

/-- A line port, 0 to 3. -/
abbrev Port := Fin 4

/-- A slot of the Frame Store, 0 to 47 (R20). -/
abbrev SlotId := Fin 48

/-- A bit rate code, 0 to 7 (Table 8-2). -/
abbrev RateCode := Fin 8

/-- A timeout class, 0 to 3 (R112). -/
abbrev TimeoutClass := Fin 4

/-- A tag, 0 to 15 (R13). -/
abbrev Tag := BitVec 4

/-- A hop count, 0 to 3 (R14). -/
abbrev HopCount := BitVec 2

/-- Four like things numbered 0 to 3: the ports, or the timeout classes. -/
structure Four (α : Type) where
  zero : α
  one : α
  two : α
  three : α
  deriving DecidableEq, Repr

namespace Four

variable {α β : Type}

/-- The element with number `i`. -/
def get (v : Four α) (i : Fin 4) : α :=
  match i with
  | 0 => v.zero
  | 1 => v.one
  | 2 => v.two
  | 3 => v.three

/-- `v` with element `i` replaced. -/
def set (v : Four α) (i : Fin 4) (x : α) : Four α :=
  match i with
  | 0 => { v with zero := x }
  | 1 => { v with one := x }
  | 2 => { v with two := x }
  | 3 => { v with three := x }

/-- The same thing four times. -/
def fill (x : α) : Four α := ⟨x, x, x, x⟩

/-- Each element replaced by its image. -/
def map (f : α → β) (v : Four α) : Four β := ⟨f v.zero, f v.one, f v.two, f v.three⟩

/-- Two fours combined element by element. -/
def zipWith {γ : Type} (f : α → β → γ) (v : Four α) (w : Four β) : Four γ :=
  ⟨f v.zero w.zero, f v.one w.one, f v.two w.two, f v.three w.three⟩

@[simp] theorem get_set_same (v : Four α) (i : Fin 4) (x : α) : (v.set i x).get i = x := by
  match i with
  | 0 | 1 | 2 | 3 => rfl

@[simp] theorem get_set_other (v : Four α) {i j : Fin 4} (x : α) (h : j ≠ i) : (v.set i x).get j = v.get j := by
  match i, j with
  | 0, 0 | 1, 1 | 2, 2 | 3, 3 => exact absurd rfl h
  | 0, 1 | 0, 2 | 0, 3 | 1, 0 | 1, 2 | 1, 3 | 2, 0 | 2, 1 | 2, 3 | 3, 0 | 3, 1 | 3, 2 => rfl

@[simp] theorem get_fill (x : α) (i : Fin 4) : (fill x).get i = x := by
  match i with
  | 0 | 1 | 2 | 3 => rfl

@[simp] theorem get_map (f : α → β) (v : Four α) (i : Fin 4) : (v.map f).get i = f (v.get i) := by
  match i with
  | 0 | 1 | 2 | 3 => rfl

@[simp] theorem get_zipWith {γ : Type} (f : α → β → γ) (v : Four α) (w : Four β) (i : Fin 4) :
    (zipWith f v w).get i = f (v.get i) (w.get i) := by
  match i with
  | 0 | 1 | 2 | 3 => rfl

end Four

/-- The ports in ascending order. -/
def allPorts : List Port := [0, 1, 2, 3]

/-- The timeout classes in ascending order. -/
def allClasses : List TimeoutClass := [0, 1, 2, 3]

/-- One more, stopping at the largest value of the width (00_scope.md, Counters: "It stops at its largest value rather
than wrapping"). -/
def stoppingSucc {w : Nat} (c : BitVec w) : BitVec w :=
  if c = BitVec.allOnes w then c else c + 1

end Sys2Proof
end

