-- ==== Sys2Proof/Syntax.lean ====
section
/-! DEFINITION. The commands of the relay: one constructor of `Instr` per row of spec/opcode_table.json, in the table's
order. The table gives no operands; those here say which port, slot, address or record the event concerns and what the
outside brings with it (log entry 15). -/

namespace Sys2Proof

/-- The kinds of notice (Table 1-10). -/
inductive NoticeKind where
  | portIsolated
  | portRestored
  | stationMoved
  | stationSilent
  | sourceConflict
  | mapFull
  | rateReverted
  | imageResult
  deriving DecidableEq, Repr

/-- What a block gives the Notice Unit when it raises a notice (R141). -/
structure RaisedNotice where
  kind : NoticeKind
  subject : Byte
  detail : Byte
  deriving DecidableEq, Repr

/-- The key of an exchange (R110): requester address, responder address, tag. -/
structure ExchangeKey where
  requester : Byte
  responder : Byte
  tag : Tag
  deriving DecidableEq, Repr

/-- What the serial memory answers while the loader reads it (R167): the levels of SDI at the clocks of SCLK, eight for
each byte from offset 0 on, and the level an installation's pull-up (true) or pull-down (false) gives SDI behind them, where
the memory does not answer. -/
structure SerialMemory where
  bits : List Bool
  pullUp : Bool
  deriving DecidableEq, Repr

/-- The commands (95_what_each_step_holds.md: each whole and indivisible). -/
inductive Instr where
  | powerOn
  | pinReset
  | coldStart (cfgen : Bool)
  | pass1End (memory : SerialMemory)
  | imageRecord (memory : SerialMemory)
  | pass2End (memory : SerialMemory)
  | flushEnd
  | characterDelivered (port : Port) (coming : List Bool)
  | missingEcho (port : Port)
  | abortGap (port : Port)
  | endOfResync (port : Port)
  | lineStuck (port : Port)
  | stuckLineEvent (port : Port)
  | beginSending (port : Port)
  | jamEnd (port : Port)
  | backoffEnd (port : Port)
  | relayDecision
  | exchangeCompleted (slot : SlotId)
  | exchangeDiscarded (slot : SlotId)
  | exchangeDisplaced (slot : SlotId)
  | portDownWord (port : Port)
  | firstExpiry (key : ExchangeKey)
  | secondExpiry (key : ExchangeKey)
  | timeoutWord (responder : Byte)
  | pathReport
  | agingExpiry
  | recoveryExpiry (port : Port)
  | rateReplyDeparted (port : Port)
  | windowExpiry (port : Port)
  | noticeRaise (notice : RaisedNotice)
  | noticeSend
  | noticeCopyDeparture
  | noticeIntervalExpiry
  | watchedReplyDeparture (slot : SlotId)
  | restartTimerExpiry
  | unknownCommand
  | readStatus
  | readCounters
  | readStation
  | writeStation
  | removeStation
  | listStations
  | flushLearned
  | readRule
  | insertRule
  | deleteRule
  | replaceRule
  | setRuleDefaults
  | readPort
  | setPortState
  | setRate
  | confirmRate
  | setPortOptions
  | readExchanges
  | setTimeouts
  | setAging
  | setManagers
  | setAddress
  | setNoticeTarget
  | ackNotice
  | restart
  | judgedLineLevelChange (port : Port) (coming : List Bool)
  | characterSent (port : Port)
  deriving DecidableEq, Repr

end Sys2Proof
end

