-- ==== Sys2Proof/Decode.lean ====
section
/-! DEFINITION. The rows of spec/opcode_table.json give no bits: no word spells a command (log entry 15). -/

namespace Sys2Proof

/-- The command that a word spells by the table's bits. No row of the table has bits, so every word spells none. -/
def decodeTableWord (_nbits _w : Nat) : Option Instr := none

end Sys2Proof
end

