-- ==== Sys2Proof/Config.lean ====
section
/-! DEFINITION. The sizes the manual fixes for the CM-44. The spec leaves no result undefined, so there is no free
value here; what it leaves to the installation or to chance comes as an operand or as the order of the commands. -/

namespace Sys2Proof.Config

/-- Slots of the Frame Store (R20). -/
abbrev slotCount : Nat := 48

/-- "A Port Receiver's claim is granted while more than 4 slots are FREE" (R24). -/
abbrev generationReserve : Nat := 4

/-- Entries of a transmit queue (R30). -/
abbrev queueCapacity : Nat := 16

/-- Entries of the Station Map (R78). -/
abbrev mapCapacity : Nat := 96

/-- Records of the exchange table (R111). -/
abbrev exchangeCapacity : Nat := 16

/-- Rules of the rule list (R101). -/
abbrev ruleCapacity : Nat := 32

/-- Requests of the Management Unit's input queue (R148). -/
abbrev requestCapacity : Nat := 4

/-- Notices of the notice list (R140). -/
abbrev noticeCapacity : Nat := 8

/-- Samples of a bit: "Each port samples its receive input at sixteen times its current bit rate" (R2). -/
abbrev samplesPerBit : Nat := 16

/-- The first of the three sample clocks of a bit "nearest that centre" (R2), counted from the bit's beginning: the centre
is at sample clock 8, and the three are 7, 8 and 9. -/
abbrev firstCentreSample : Nat := 7

/-- The sample clock, counted from the start edge, of the third sample at the centre of bit `n`, the start bit being 0. -/
abbrev lastSampleOf (n : Nat) : Nat := samplesPerBit * n + firstCentreSample + 2

/-- The largest payload length (R5). -/
abbrev maxPayload : Nat := 60

/-- The smallest and the largest total length of an image (R19). -/
abbrev minImage : Nat := 8
abbrev maxImage : Nat := 4096

end Sys2Proof.Config
end

