-- ==== Sys2Proof/Machine/State.lean ====
section
/-! DEFINITION. The state of the relay, as plain data, with every piece of state the spec names (INVENTORY.md lists them
with their rules), the reasons a step can stop, and the state after reset. Intervals and timers are counted in REFCLK
cycles (R171, log entry 10). -/

namespace Sys2Proof.Machine

/-- The relay has no fault: the spec describes none that stops it (INVENTORY.md, Faults). -/
inductive Fault
  deriving DecidableEq, Repr

/-- Why a command has no answer. -/
inductive Refusal where
  /-- Raised by an arm of `exec` for a command that has no meaning yet; no arm does. Safe: the model stops where the
  relay goes on. -/
  | notModelled (mnemonic : String)
  deriving DecidableEq, Repr

/-- A step's answer. -/
abbrev Answer (σ : Type) := Host.Outcome σ Fault Refusal

/-! ## Line level and framer (R1 to R4) -/

/-- Mark level is the idle level of the line, space level the opposite (00_scope.md, Terms). -/
inductive LineLevel where
  | mark
  | space
  deriving DecidableEq, Repr

/-- The three most recent samples of a receive input, the oldest first (R2). A sample is true at mark level, the high level
of the pin (Table 11-3). -/
structure LevelSamples where
  first : Bool
  second : Bool
  third : Bool
  deriving DecidableEq, Repr

/-- The three samples of each of a character's eleven bits (R2). Bit 0 of each vector is the start bit, bits 1 to 9 the
nine data bits in the order sent, bit 10 the stop bit; a bit is 1 at mark level. A bit not yet sampled is 0. -/
structure CharacterSamples where
  first : BitVec 11
  second : BitVec 11
  third : BitVec 11
  deriving DecidableEq, Repr

/-- No bit sampled yet. -/
def CharacterSamples.blank : CharacterSamples := ⟨0, 0, 0⟩

/-- A port's character framer: the judged line level, the three most recent samples, whether a character is being
assembled, and, while one is, the sample clocks since its start edge and the samples taken at its bits' centres (R2, R3). A
framer that is not assembling waits for a start edge, a change of the judged level from mark to space. After a framing
error, and after a rate application, it accepts none before the line has been judged at mark (R3, R4): until then
`waitsForMark` holds. -/
structure Framer where
  level : LineLevel
  recent : LevelSamples
  assembling : Bool
  clock : Nat
  samples : CharacterSamples
  waitsForMark : Bool
  deriving DecidableEq, Repr

/-! ## Frame Store and transmit queues (R20 to R37) -/

/-- A character of a frame: its value and its mark bit (R1). -/
structure Character where
  value : Byte
  mark : Bool
  deriving DecidableEq, Repr

/-- The state of a slot (R20). -/
inductive SlotState where
  | free
  | filling
  | inUse
  deriving DecidableEq, Repr

/-- A slot (R20). Its length is the number of characters written. -/
structure Slot where
  chars : List Character
  refs : Nat
  state : SlotState
  deriving DecidableEq, Repr

/-- A FREE slot holds no frame and has length 0 and reference count 0 (R20). -/
def Slot.empty : Slot := ⟨[], 0, .free⟩

/-- The band of a queue entry (R30). -/
inductive Band where
  | priority
  | ordinary
  deriving DecidableEq, Repr

/-- The origin of a queue entry (R30). -/
inductive Origin where
  | relayed
  | generated
  deriving DecidableEq, Repr

/-- An entry of a transmit queue (R30). -/
structure QueueEntry where
  band : Band
  collisions : Nat
  origin : Origin
  slot : SlotId
  deriving DecidableEq, Repr

/-- The manners of departure (Table 2-2). -/
inductive Manner where
  | completed
  | discarded
  | displaced
  | withdrawn
  | flushed
  deriving DecidableEq, Repr

/-- A departure announcement: "announced with the port, the slot and the manner" (R34). -/
structure Departure where
  port : Port
  slot : SlotId
  manner : Manner
  deriving DecidableEq, Repr

/-- An announcement that waits for the Exchange Tracker, with the time since the event that made it, in REFCLK cycles:
the deadline timer "counts from the event at which the copy's last echo was judged good" (R115, log entry 26). -/
structure AgedDeparture extends Departure where
  age : Nat
  deriving DecidableEq, Repr

/-! ## Port Receiver (R38) -/

/-- The receiver states (Table 3-1). -/
inductive ReceiverState where
  | off
  | hunt
  | header
  | body
  | check
  | resync
  | echo
  deriving DecidableEq, Repr

/-- The receive context (R38). -/
structure Receiver where
  checkRegister : Word
  currentSlot : Option SlotId
  gap : Nat
  length : Option Nat
  markInterval : Nat
  noiseSeen : Bool
  position : Nat
  shedding : Bool
  spaceInterval : Nat
  state : ReceiverState
  stuckRaised : Bool
  deriving DecidableEq, Repr

/-! ## Port Transmitter (R59) -/

/-- The transmitter states (Table 4-1). -/
inductive TransmitterState where
  | off
  | idle
  | waitGap
  | sending
  | jam
  | backoff
  deriving DecidableEq, Repr

/-- A backoff wait: the character times drawn and the time waited so far (R59). -/
structure Backoff where
  interval : Nat
  waited : Nat
  deriving DecidableEq, Repr

/-- A character of the echo list (R59): its echo deadline is set when its stop bit has ended (R63), as the time
remaining. -/
structure SentCharacter where
  char : Character
  deadline : Option Nat
  deriving DecidableEq, Repr

/-- The transmit context (R59) with the port's transmit queue. `charTime`, `jamTime` and `discardAtJamEnd` are state the
rules imply (R63, R68, R67; log entry 8). -/
structure Transmitter where
  backoff : Option Backoff
  backoffRegister : Word
  charTime : Nat
  discardAtJamEnd : Bool
  driverEnable : Bool
  echoList : List SentCharacter
  jamTime : Nat
  nextPosition : Nat
  queue : List QueueEntry
  quietInterval : Nat
  state : TransmitterState
  deriving DecidableEq, Repr

/-! ## Port Control (R126) -/

/-- The administrative states (Table 8-1). -/
inductive AdminState where
  | enabled
  | held
  | disabled
  | isolated
  deriving DecidableEq, Repr

/-- The rate phase with what R126 keeps in it: the pending rate and the window length (in seconds) in AWAITING_REPLY,
the window length and the window timer (time remaining) in WINDOW. -/
inductive RatePhase where
  | steady
  | awaitingReply (pendingRate : RateCode) (window : Nat)
  | window (length : Nat) (timer : Nat)
  deriving DecidableEq, Repr

/-- The port record (R126). The recovery timer holds the time for which the level has been at mark. -/
structure PortRecord where
  admin : AdminState
  autoRecover : Bool
  confirmedRate : RateCode
  currentRate : RateCode
  floodUnknown : Bool
  learn : Bool
  ratePhase : RatePhase
  recovery : Option Nat
  deriving DecidableEq, Repr

/-- The 16 counters of a port, in the order of Table 10-3. -/
structure PortCounters where
  goodFrames : Count
  checkErrors : Count
  abortLength : Count
  abortGap : Count
  abortMark : Count
  abortFraming : Count
  abortRate : Count
  shed : Count
  stray : Count
  noisyAccepted : Count
  stuckEvents : Count
  framesSent : Count
  collisions : Count
  discards : Count
  queueFull : Count
  displacements : Count
  deriving DecidableEq, Repr

/-- Everything one line port holds. -/
structure LinePort where
  framer : Framer
  receiver : Receiver
  transmitter : Transmitter
  record : PortRecord
  counters : PortCounters
  deriving DecidableEq, Repr

/-! ## Relay Unit (R95, R100 to R103) -/

/-- A frame held by its slot with its ingress port: an entry of the Relay Unit's input list (R95) or a request in the
Management Unit's input queue (R148). -/
structure HeldFrame where
  slot : SlotId
  ingress : Port
  deriving DecidableEq, Repr

/-- The action of a rule (R101). -/
inductive RuleAction where
  | pass
  | drop
  | redirect
  deriving DecidableEq, Repr

/-- PASS or DROP: the default action (R102) and the orphan policy (R100). -/
inductive PassDrop where
  | pass
  | drop
  deriving DecidableEq, Repr

/-- The eight fields of a rule, in the order R155 gives them. -/
structure RuleFields where
  sourceLow : Byte
  sourceHigh : Byte
  destinationLow : Byte
  destinationHigh : Byte
  kinds : BitVec 4
  ingressPorts : BitVec 4
  action : RuleAction
  redirectPort : Port
  deriving DecidableEq, Repr

/-- A rule (R101). -/
structure Rule where
  fields : RuleFields
  hits : Count
  deriving DecidableEq, Repr

/-- The Relay Unit's state. -/
structure RelayUnit where
  input : List HeldFrame
  rules : List Rule
  defaultAction : PassDrop
  orphanPolicy : PassDrop
  deriving DecidableEq, Repr

/-! ## Station Map (R77, R78, R85) -/

/-- STATIC, or LEARNED with an age: "A STATIC entry has no age" (R77). -/
inductive StationOrigin where
  | static
  | learned (age : Fin 4)
  deriving DecidableEq, Repr

/-- An entry of the Station Map (R77). -/
structure StationEntry where
  address : Byte
  origin : StationOrigin
  port : Port
  retry : Bool
  silence : Fin 4
  timeoutClass : TimeoutClass
  deriving DecidableEq, Repr

/-- The Station Map: entries in ascending address order (R78), the aging period in seconds, and the aging timer as the
time remaining while it runs (R85). -/
structure StationMap where
  entries : List StationEntry
  period : Nat
  timer : Option Nat
  deriving DecidableEq, Repr

/-! ## Exchange Tracker and Report Generator (R110, R112, R124) -/

/-- The exchange states (Table 7-1). -/
inductive ExchangeState where
  | sendPending
  | awaitReply
  | retryPending
  | retryAwait
  deriving DecidableEq, Repr

/-- The responder port of an exchange: a port or FLOODED (R110). -/
inductive ResponderPort where
  | port (p : Port)
  | flooded
  deriving DecidableEq, Repr

/-- An exchange record (R110). -/
structure Exchange where
  attempt : Nat
  deadline : Option Nat
  key : ExchangeKey
  requesterPort : Port
  responderPort : ResponderPort
  retryAllowed : Bool
  slot : SlotId
  state : ExchangeState
  timeoutClass : TimeoutClass
  deriving DecidableEq, Repr

/-- The reasons of a NO_ANSWER report (Table 1-8). -/
inductive NoAnswerReason where
  | timeout
  | lineFault
  | portDown
  deriving DecidableEq, Repr

/-- The reasons of a BUSY report (Table 1-8). -/
inductive BusyReason where
  | exchangesFull
  | queueFull
  deriving DecidableEq, Repr

/-- The code and reason of a path report (Table 1-8). -/
inductive ReportReason where
  | noAnswer (r : NoAnswerReason)
  | busy (r : BusyReason)
  deriving DecidableEq, Repr

/-- A request for a path report (R114): code and reason, requester address and port, responder address, tag. -/
structure ReportRequest where
  reason : ReportReason
  key : ExchangeKey
  port : Port
  deriving DecidableEq, Repr

/-! ## Management Unit (R148) -/

/-- The reset cause record (R163). -/
structure ResetCauses where
  power : Bool
  pin : Bool
  cold : Bool
  flush : Bool
  deriving DecidableEq, Repr

/-- The command that waits on a watched reply (R151). -/
inductive WatchedCommand where
  | setRate (port : Port)
  | restart
  deriving DecidableEq, Repr

/-- An entry of the departure watch (R151). -/
structure WatchedReply where
  slot : SlotId
  command : WatchedCommand
  deriving DecidableEq, Repr

/-- The kinds of restart a request can ask for (R161). -/
inductive RestartKind where
  | flush
  | cold
  deriving DecidableEq, Repr

/-- The pending restart with its 500 ms timer, as the time remaining (R161). -/
structure PendingRestart where
  kind : RestartKind
  timer : Nat
  deriving DecidableEq, Repr

/-- The Management Unit's state (R148). Its overflow counter stands with the relay-wide counters. -/
structure ManagementUnit where
  queue : List HeldFrame
  ownAddress : Byte
  managers : List Byte
  causes : ResetCauses
  watch : List WatchedReply
  pendingRestart : Option PendingRestart
  deriving DecidableEq, Repr

/-! ## Notice Unit (R140) -/

/-- A notice of the list (R140). -/
structure Notice where
  sequence : Byte
  kind : NoticeKind
  subject : Byte
  detail : Byte
  deriving DecidableEq, Repr

/-- The in-flight record: slot, sequence number, copies not yet departed (R140), and whether the notice carried has been
acknowledged meanwhile, which R143 asks at the end of the send (log entry 29). -/
structure InFlight where
  slot : SlotId
  sequence : Byte
  copies : Nat
  acknowledged : Bool
  deriving DecidableEq, Repr

/-- The Notice Unit's state (R140): the interval in seconds, its timer as the time remaining while it runs. -/
structure NoticeUnit where
  inFlight : Option InFlight
  interval : Nat
  timer : Option Nat
  lost : Byte
  next : Byte
  list : List Notice
  slotWait : Bool
  target : Option Byte
  deriving DecidableEq, Repr

/-! ## Image Loader (R166) -/

/-- The image status (Table 11-1). -/
inductive ImageStatus where
  | notRun
  | applied
  | appliedWithErrors
  | changed
  | noImage
  | rejectedFormat
  | rejectedCheck
  deriving DecidableEq, Repr

/-- The load state (R166). -/
inductive LoadState where
  | idle
  | pass1
  | pass2
  | done
  deriving DecidableEq, Repr

/-- The Image Loader's state (R166). -/
structure ImageLoader where
  errors : Byte
  status : ImageStatus
  state : LoadState
  pass1Check : Word
  position : Nat
  recordCount : Nat
  recordsRead : Nat
  runningCheck : Word
  totalLength : Nat
  deriving DecidableEq, Repr

/-! ## Relay-wide -/

/-- The 22 relay-wide counters, in the order of Table 10-3. -/
structure RelayCounters where
  badSource : Count
  ownSource : Count
  badAddress : Count
  notARequest : Count
  orphanDrops : Count
  ruleDrops : Count
  hopLimit : Count
  unknown : Count
  localDrops : Count
  duplicate : Count
  exchangesFull : Count
  learnRefusals : Count
  moves : Count
  staticConflicts : Count
  repliesMatched : Count
  retries : Count
  timeouts : Count
  lineFaults : Count
  portDownClosures : Count
  queueFullClosures : Count
  reportsLost : Count
  managementOverflow : Count
  deriving DecidableEq, Repr

/-- Words that one block has made to another and that the other has not yet taken, oldest first (R165 names the kinds;
requests for path reports are `State.reports`). -/
structure Words where
  /-- Departure announcements for the Exchange Tracker (R115, R120, R121). -/
  tracker : List AgedDeparture
  /-- Departure announcements for the notice in flight (R143). -/
  noticeCopies : List Departure
  /-- Departure announcements for watched reply slots (R151). -/
  watchedReplies : List Departure
  /-- Stuck-line events for Port Control (R56). -/
  stuckLine : List Port
  /-- Port-down words for the Exchange Tracker (R122). -/
  portDown : List Port
  /-- Words of a SET_RATE reply's departure for Port Control (R136). -/
  rateReplies : List Port
  /-- Words of a timeout for the Station Map, by responder address (R87). -/
  timeouts : List Byte
  /-- Notices raised (R141). -/
  raised : List RaisedNotice
  deriving DecidableEq, Repr

/-- Signals of Table 11-3 that are not held with a port: the level of RESET, the CFGEN value sampled, the levels that chip
select SCS has had since the relay was put in reset (true is high), oldest first, the last being its level now, whether
SCLK runs (it is low otherwise, R172), and the bits sent on SDO in the current pass, in the order sent (R167); and the
receive inputs RXD0 to RXD3, as the levels they will have at each port's sample clocks to come, true for mark, the
high level. With none left the line is at mark: "The line rests at mark level when nobody drives it" (01, opening). What
comes on the lines is the outside's, and the two line commands bring it (log entry 5). -/
structure Pins where
  resetHigh : Bool
  cfgen : Bool
  scs : List Bool
  sclkRuns : Bool
  sdo : List Bool
  rxd : Four (List Bool)
  deriving DecidableEq, Repr

/-- The Time Base (R171): REFCLK cycles into the current millisecond tick, the place of that tick in the cycle of five,
and each port's sample clock divider. -/
structure TimeBase where
  cycle : Nat
  tick : Nat
  samplePhase : Four Nat
  deriving DecidableEq, Repr

/-- Where the relay stands between a reset and service: in reset until the source is released (R162, R164), loading an
image (R164), in service, or in a flush restart that ends at the next 1 ms tick (R165). -/
inductive Phase where
  | inReset
  | loading
  | inService
  | flushing (ticked : Bool)
  deriving DecidableEq, Repr

/-- The state of the relay, and the queue of commands that wait. -/
structure State where
  phase : Phase
  pins : Pins
  timeBase : TimeBase
  slots : Vector Slot 48
  ports : Four LinePort
  relay : RelayUnit
  map : StationMap
  exchanges : List Exchange
  timeoutTable : Four Nat
  reports : List ReportRequest
  management : ManagementUnit
  notices : NoticeUnit
  loader : ImageLoader
  counters : RelayCounters
  words : Words
  pending : List Instr
  deriving DecidableEq, Repr

/-! ## The values after reset -/

/-- A framer after reset. DESIGN CHOICE (log entry 6): the line is taken to be at mark and no character begun. -/
def Framer.reset : Framer :=
  { level := .mark, recent := ⟨true, true, true⟩, assembling := false, clock := 0, samples := .blank,
    waitsForMark := false }

/-- A receiver after a cold start (R38): "every receiver is OFF with no current slot. Shedding and stuck raised are no,
and the space interval and mark interval are 0." The rest is a DESIGN CHOICE (log entry 11). -/
def Receiver.reset : Receiver :=
  { checkRegister := 0xFFFF, currentSlot := none, gap := 0, length := none, markInterval := 0, noiseSeen := false,
    position := 0, shedding := false, spaceInterval := 0, state := .off, stuckRaised := false }

/-- The backoff register seeds (Table 4-4). -/
def backoffSeeds : Four Word := ⟨0xACE1, 0x5A3C, 0x3C5A, 0xE1AC⟩

/-- A transmitter after a cold start (R59, R75), with its port's seed. -/
def Transmitter.reset (seed : Word) : Transmitter :=
  { backoff := none, backoffRegister := seed, charTime := 0, discardAtJamEnd := false, driverEnable := false,
    echoList := [], jamTime := 0, nextPosition := 0, queue := [], quietInterval := 0, state := .off }

/-- A port record after a cold start (R126). -/
def PortRecord.reset : PortRecord :=
  { admin := .enabled, autoRecover := true, confirmedRate := 1, currentRate := 1, floodUnknown := true, learn := true,
    ratePhase := .steady, recovery := none }

/-- All counters of a port at 0 (R37, R57, R76). -/
def PortCounters.zero : PortCounters := ⟨0, 0, 0, 0, 0, 0, 0, 0, 0, 0, 0, 0, 0, 0, 0, 0⟩

/-- A line port after a cold start. -/
def LinePort.reset (seed : Word) : LinePort :=
  { framer := .reset, receiver := .reset, transmitter := .reset seed, record := .reset, counters := .zero }

/-- All relay-wide counters at 0 (R93, R109, R125, R148). -/
def RelayCounters.zero : RelayCounters := ⟨0, 0, 0, 0, 0, 0, 0, 0, 0, 0, 0, 0, 0, 0, 0, 0, 0, 0, 0, 0, 0, 0⟩

/-- No word outstanding (R162). -/
def Words.none : Words := ⟨[], [], [], [], [], [], [], []⟩

/-- The Notice Unit after a cold start (R140). -/
def NoticeUnit.reset : NoticeUnit :=
  { inFlight := none, interval := 5, timer := none, lost := 0, next := 0, list := [], slotWait := false, target := none }

/-- The Image Loader at a cold start (R166). Values the rule does not give are a DESIGN CHOICE (log entry 11). -/
def ImageLoader.reset : ImageLoader :=
  { errors := 0, status := .notRun, state := .idle, pass1Check := 0, position := 0, recordCount := 0, recordsRead := 0,
    runningCheck := 0xFFFF, totalLength := 0 }

/-- The relay right after reset: the power-on detector holds it in reset, every block has its cold-start values and
POWER alone is set (R162, R163). COLD_START releases it. -/
def State.reset : State :=
  { phase := .inReset
    pins := { resetHigh := true, cfgen := false, scs := [true], sclkRuns := false, sdo := [], rxd := .fill [] }
    timeBase := { cycle := 0, tick := 0, samplePhase := .fill 0 }
    slots := Vector.replicate 48 Slot.empty
    ports := backoffSeeds.map LinePort.reset
    relay := { input := [], rules := [], defaultAction := .pass, orphanPolicy := .drop }
    map := { entries := [], period := 60, timer := none }
    exchanges := []
    timeoutTable := ⟨50, 100, 250, 1000⟩
    reports := []
    management :=
      { queue := [], ownAddress := 0xFE, managers := [], causes := ⟨true, false, false, false⟩, watch := [],
        pendingRestart := none }
    notices := .reset
    loader := .reset
    counters := .zero
    words := .none
    pending := [] }

end Sys2Proof.Machine
end

