-- ==== Sys2Proof/Machine/Operands.lean ====
section
/-! DEFINITION. What is read from and written into characters: the samples of a character, the fields of a frame, the
check, generated frames, the arguments of a request, the bytes of an image, and the lengths of the time units. -/

namespace Sys2Proof.Machine

/-! ## Samples (R2, R3) -/

/-- The majority of three samples (R2). -/
def majority (a b c : Bool) : Bool := (a && b) || (a && c) || (b && c)

/-- The line level that three most recent samples give (R2). -/
def judgedLevel (x : LevelSamples) : LineLevel :=
  if majority x.first x.second x.third then .mark else .space

/-- The value of each of the eleven bits: the majority of its three samples (R2). -/
def sampledBits (x : CharacterSamples) : BitVec 11 :=
  (x.first &&& x.second) ||| (x.first &&& x.third) ||| (x.second &&& x.third)

/-- "If the three samples of any one of the eleven bits do not all agree, the character is noisy" (R2). -/
def sampledNoisy (x : CharacterSamples) : Bool := x.first != x.second || x.second != x.third

/-- A character as the framer delivers it (R3). -/
structure Delivered where
  value : Byte
  mark : Bool
  noise : Bool
  framingError : Bool
  deriving DecidableEq, Repr

/-- The break mark: a framing error with all nine data bits at space (R3). -/
def Delivered.isBreak (c : Delivered) : Bool := c.framingError && c.value == 0 && !c.mark

/-- The character that samples give, none for a false start: "If the majority of the three is mark, the edge was a false
start" (R2). Data bits are sent least significant first and the ninth is the mark bit (R1). -/
def judgedCharacter (x : CharacterSamples) : Option Delivered :=
  if (sampledBits x).getLsbD 0 then none
  else some
    { value := (sampledBits x).extractLsb' 1 8
      mark := (sampledBits x).getLsbD 9
      noise := sampledNoisy x
      framingError := !(sampledBits x).getLsbD 10 }

/-- The character without the framer's marks, as it is written into a slot (R44). -/
def Delivered.character (c : Delivered) : Character := ⟨c.value, c.mark⟩

/-- The eleven bits of a character on the line: start bit at space, nine data bits least significant first, stop bit at
mark (R1). -/
def Character.lineBits (c : Character) : BitVec 11 :=
  (1#1 ++ BitVec.ofBool c.mark ++ c.value ++ 0#1 : BitVec 11)

/-! ## The check (R7) -/

/-- One advance of the check register (R7). -/
def checkAdvance (r : Word) : Word := if r.msb then (r <<< 1) ^^^ 0x1021 else r <<< 1

/-- The check register after one character: the high eight bits are combined with its value, then eight advances (R7). -/
def checkTake (r : Word) (b : Byte) : Word :=
  let r := r ^^^ (b ++ (0 : Byte) : BitVec 16)
  checkAdvance (checkAdvance (checkAdvance (checkAdvance (checkAdvance (checkAdvance (checkAdvance (checkAdvance r)))))))

/-- The check register run on through values. -/
def checkRun (r : Word) (bs : List Byte) : Word := bs.foldl checkTake r

/-- The check of values: the register starts at FFFFh (R7). -/
def checkOf (bs : List Byte) : Word := checkRun 0xFFFF bs

/-- The high and the low byte of a check or of another number of two characters, most significant first (R15). -/
def highByte (w : Word) : Byte := w.extractLsb' 8 8
def lowByte (w : Word) : Byte := w.extractLsb' 0 8

/-- A number of four characters, most significant first (R15). -/
def countBytes (c : Count) : List Byte :=
  [c.extractLsb' 24 8, c.extractLsb' 16 8, c.extractLsb' 8 8, c.extractLsb' 0 8]

/-- A number of two characters (R15). -/
def numberOf (high low : Byte) : Nat := high.toNat * 256 + low.toNat

/-- A number carried in one character. -/
def byteOf (n : Nat) : Byte := BitVec.ofNat 8 n

/-! ## Frames (R5, R6) -/

/-- The kinds of frame (R6). -/
inductive Kind where
  | datagram
  | request
  | reply
  | report
  deriving DecidableEq, Repr

/-- The kind's code (Table 1-4). -/
def Kind.code : Kind → BitVec 2
  | .datagram => 0
  | .request => 1
  | .reply => 2
  | .report => 3

/-- The kind with a code (Table 1-4). -/
def Kind.ofCode (c : BitVec 2) : Kind :=
  if c = 0 then .datagram else if c = 1 then .request else if c = 2 then .reply else .report

/-- The three fields of a control character (R6, Table 1-4). -/
def controlKind (c : Byte) : Kind := Kind.ofCode (c.extractLsb' 6 2)
def controlHop (c : Byte) : HopCount := c.extractLsb' 4 2
def controlTag (c : Byte) : Tag := c.extractLsb' 0 4

/-- A control character from its fields (R6). -/
def controlOf (k : Kind) (hop : HopCount) (tag : Tag) : Byte := (k.code ++ hop ++ tag : BitVec 8)

/-- The value at a position of the frame in a slot. A position that holds no character reads 0; a complete frame has
6 + L characters, so no rule reads one (log entry 21). -/
def Slot.valueAt (f : Slot) (n : Nat) : Byte := (f.chars.getD n ⟨0, false⟩).value

/-- The values of the frame in a slot. -/
def Slot.values (f : Slot) : List Byte := f.chars.map (·.value)

/-- The fields of a frame (Table 1-3). -/
def Slot.destination (f : Slot) : Byte := f.valueAt 0
def Slot.source (f : Slot) : Byte := f.valueAt 1
def Slot.control (f : Slot) : Byte := f.valueAt 2
def Slot.payloadLength (f : Slot) : Nat := (f.valueAt 3).toNat
def Slot.kind (f : Slot) : Kind := controlKind f.control
def Slot.hop (f : Slot) : HopCount := controlHop f.control
def Slot.tag (f : Slot) : Tag := controlTag f.control
def Slot.payload (f : Slot) : List Byte := (f.values.drop 4).take f.payloadLength

/-- The length of the slot (R20): the number of characters written. -/
def Slot.length (f : Slot) : Nat := f.chars.length

/-- The check computed over positions 0 to 3 + L of the frame in a slot (R7). -/
def Slot.computedCheck (f : Slot) : Word := checkOf (f.values.take (4 + f.payloadLength))

/-- The check carried at positions 4 + L and 5 + L (R5). -/
def Slot.carriedCheck (f : Slot) : Word :=
  (f.valueAt (4 + f.payloadLength) ++ f.valueAt (5 + f.payloadLength) : BitVec 16)

/-- `f` with a value put at a position, its mark bit kept. -/
def Slot.withValue (f : Slot) (n : Nat) (b : Byte) : Slot :=
  { f with chars := f.chars.modify n fun c => { c with value := b } }

/-- The check rewritten over the frame as it stands (R107). -/
def Slot.withCheck (f : Slot) : Slot :=
  let c := f.computedCheck
  (f.withValue (4 + f.payloadLength) (highByte c)).withValue (5 + f.payloadLength) (lowByte c)

/-- The hop count raised by one, kind and tag as they were, and the check rewritten (R107). -/
def Slot.raiseHop (f : Slot) : Slot :=
  (f.withValue 2 (controlOf f.kind (f.hop + 1) f.tag)).withCheck

/-- The characters of a frame: the first has its mark bit 1, every other 0, the check stands last, high byte first
(R5). -/
def frameCharacters (destination source control : Byte) (payload : List Byte) : List Character :=
  let body := destination :: source :: control :: byteOf payload.length :: payload
  let c := checkOf body
  match body ++ [highByte c, lowByte c] with
  | [] => []
  | d :: rest => ⟨d, true⟩ :: rest.map fun b => ⟨b, false⟩

/-! ## Arguments of a request (R150) -/

/-- A port argument, 0 to 3. -/
def portArgument (b : Byte) : Option Port := if h : b.toNat < 4 then some ⟨b.toNat, h⟩ else none

/-- A timeout class, 0 to 3. -/
def classArgument (b : Byte) : Option TimeoutClass := if h : b.toNat < 4 then some ⟨b.toNat, h⟩ else none

/-- A rate code, 0 to 7. -/
def rateArgument (b : Byte) : Option RateCode := if h : b.toNat < 8 then some ⟨b.toNat, h⟩ else none

/-- A flag: "A flag argument allows 0 and 1" (R150). -/
def flagArgument (b : Byte) : Option Bool := if b = 0 then some false else if b = 1 then some true else none

/-- A port set or a kind set: "allows bits 0 to 3 alone" (R150). -/
def setArgument (b : Byte) : Option (BitVec 4) := if b.toNat < 16 then some (b.extractLsb' 0 4) else none

/-- PASS or DROP, coded 0 and 1 (R155). -/
def passDropArgument (b : Byte) : Option PassDrop := if b = 0 then some .pass else if b = 1 then some .drop else none

/-- A rule's action: 0 PASS, 1 DROP, 2 REDIRECT (R155). -/
def actionArgument (b : Byte) : Option RuleAction :=
  if b = 0 then some .pass else if b = 1 then some .drop else if b = 2 then some .redirect else none

/-- The eight field characters of a rule (R155), none where one lies outside its values. -/
def ruleArgument (sl sh dl dh kinds ports action redirect : Byte) : Option RuleFields :=
  match setArgument kinds, setArgument ports, actionArgument action, portArgument redirect with
  | some k, some p, some a, some r => some ⟨sl, sh, dl, dh, k, p, a, r⟩
  | _, _, _, _ => none

/-- A port selection: a port, or 0Fh for the whole (R153, R154). -/
inductive Selection where
  | port (p : Port)
  | whole
  deriving DecidableEq, Repr

/-- A port argument where 0Fh is allowed as well (R150). -/
def selectionArgument (b : Byte) : Option Selection :=
  if b = 0x0F then some .whole else (portArgument b).map .port

/-! ## The image (R19, R167) -/

/-- The bits of a byte as the serial memory's lines carry it: "Bytes are sent and taken most significant bit first" (R167). -/
def byteBits (b : Byte) : List Bool := (List.range 8).map fun k => b.getMsbD k

/-- The byte read at an offset: its eight bits are those of SDI at eight clocks, "most significant bit first", at the pull of
SDI where the memory does not answer (R167). -/
def memoryByte (m : SerialMemory) (n : Nat) : Byte :=
  let sdi := m.bits.drop (8 * n)
  byteOf ((List.range 8).foldl (fun value k => 2 * value + (sdi.getD k m.pullUp).toNat) 0)

/-- The bytes read at offsets `start` to `start + count - 1`. -/
def memoryBytes (m : SerialMemory) (start count : Nat) : List Byte :=
  (List.range' start count).map (memoryByte m)

/-- The bits of the command and the address the loader sends at the start of a pass: read command 03h, address 000000h, each
byte most significant bit first (R167). -/
def passCommand : List Bool := ([0x03, 0x00, 0x00, 0x00] : List Byte).flatMap byteBits

/-- The level of chip select SCS now (R172). -/
def Pins.scsHigh (x : Pins) : Bool := x.scs.getLastD true

/-- The six bytes of a header that pass 1 has accepted, from what the loader keeps of it (R19). -/
def ImageLoader.header (l : ImageLoader) : List Byte :=
  [0xC7, 0x1A, 1, byteOf l.recordCount, highByte (BitVec.ofNat 16 l.totalLength), lowByte (BitVec.ofNat 16 l.totalLength)]

/-! ## Time units, in REFCLK cycles (R171) -/

/-- The divisor of a port's sample clock: "REFCLK divided by 921600 over the bit rate" (R171, Table 8-2). -/
def sampleDivisor (r : RateCode) : Nat :=
  match r with
  | 0 => 96
  | 1 => 48
  | 2 => 24
  | 3 => 16
  | 4 => 8
  | 5 => 4
  | 6 => 2
  | 7 => 1

/-- A bit time: sixteen samples (R2). -/
def bitCycles (r : RateCode) : Nat := 16 * sampleDivisor r

/-- A character time: eleven bit times (R1). -/
def charCycles (r : RateCode) : Nat := 11 * bitCycles r

/-- The least number of REFCLK cycles that is no shorter than an interval in milliseconds: 14745.6 cycles each (R171,
log entry 10). -/
def msCycles (n : Nat) : Nat := (n * 73728 + 4) / 5

/-- An interval in seconds: 14745600 cycles each. -/
def secondCycles (n : Nat) : Nat := n * 14745600

/-- Whole seconds in a time, rounded up (R126). -/
def secondsRoundedUp (cycles : Nat) : Nat := (cycles + 14745599) / 14745600

/-- The lengths of the five millisecond ticks (R171). -/
def tickCycles (i : Nat) : Nat := if i % 5 = 1 ∨ i % 5 = 3 then 14745 else 14746

end Sys2Proof.Machine
end

