-- ==== Sys2Proof/Machine/Flags.lean ====
section
/-! DEFINITION. The codes and set characters by which replies and notices report state: result codes, state codes, flag
and set characters, and the order of the counters. -/

namespace Sys2Proof.Machine

/-- A set character of four members: bit p set when member p is in the set, bits 4 to 7 at 0 (R15). -/
def setCharacter (b0 b1 b2 b3 : Bool) : Byte :=
  (0#4 ++ BitVec.ofBool b3 ++ BitVec.ofBool b2 ++ BitVec.ofBool b1 ++ BitVec.ofBool b0 : BitVec 8)

/-- A flag character: 0 for off and 1 for on (R15). -/
def flagCharacter (b : Bool) : Byte := if b then 1 else 0

/-- A port number in one character. -/
def portCharacter (p : Port) : Byte := byteOf p.val

/-- The reset cause flags: "POWER as member 0, PIN 1, COLD 2, FLUSH 3" (Table 10-2). -/
def ResetCauses.character (c : ResetCauses) : Byte := setCharacter c.power c.pin c.cold c.flush

/-- All four flags clear (R152). -/
def ResetCauses.clear : ResetCauses := ⟨false, false, false, false⟩

/-- The port options character: learn in bit 0, flood-unknown in bit 1, auto-recover in bit 2 (R15). -/
def PortRecord.optionsCharacter (r : PortRecord) : Byte := setCharacter r.learn r.floodUnknown r.autoRecover false

/-- The codes of the administrative states (Table 8-1). -/
def AdminState.code : AdminState → Byte
  | .enabled => 0
  | .held => 1
  | .disabled => 2
  | .isolated => 3

/-- The receiver state codes, "in the order of Table 3-1 from OFF as 0 to ECHO as 6" (R156). -/
def ReceiverState.code : ReceiverState → Byte
  | .off => 0
  | .hunt => 1
  | .header => 2
  | .body => 3
  | .check => 4
  | .resync => 5
  | .echo => 6

/-- The transmitter state codes, "in the order of Table 4-1 from OFF as 0 to BACKOFF as 5" (R156). -/
def TransmitterState.code : TransmitterState → Byte
  | .off => 0
  | .idle => 1
  | .waitGap => 2
  | .sending => 3
  | .jam => 4
  | .backoff => 5

/-- The exchange state codes (R157). -/
def ExchangeState.code : ExchangeState → Byte
  | .sendPending => 0
  | .awaitReply => 1
  | .retryPending => 2
  | .retryAwait => 3

/-- The responder port in a READ_EXCHANGES reply: "0 to 3, or 0Fh for FLOODED" (R157). -/
def ResponderPort.character : ResponderPort → Byte
  | .port p => portCharacter p
  | .flooded => 0x0F

/-- The codes of a rule's action (R155). -/
def RuleAction.code : RuleAction → Byte
  | .pass => 0
  | .drop => 1
  | .redirect => 2

/-- The image status codes (Table 11-1). -/
def ImageStatus.code : ImageStatus → Byte
  | .notRun => 0
  | .applied => 1
  | .appliedWithErrors => 2
  | .changed => 3
  | .noImage => 4
  | .rejectedFormat => 5
  | .rejectedCheck => 6

/-- The notice kind codes (Table 1-10). -/
def noticeCode : NoticeKind → Byte
  | .portIsolated => 1
  | .portRestored => 2
  | .stationMoved => 3
  | .stationSilent => 4
  | .sourceConflict => 5
  | .mapFull => 6
  | .rateReverted => 7
  | .imageResult => 8

/-- The report code and the reason of a path report (Table 1-8). -/
def ReportReason.characters : ReportReason → List Byte
  | .noAnswer .timeout => [1, 1]
  | .noAnswer .lineFault => [1, 2]
  | .noAnswer .portDown => [1, 3]
  | .busy .exchangesFull => [2, 1]
  | .busy .queueFull => [2, 2]

/-- The results of a request (Table 1-7). -/
inductive Result where
  | ok
  | denied
  | unknownCommand
  | badArgument
  | full
  | notFound
  | pending
  | stale
  | badLength
  deriving DecidableEq, Repr

/-- The result codes (Table 1-7). -/
def Result.code : Result → Byte
  | .ok => 0
  | .denied => 1
  | .unknownCommand => 2
  | .badArgument => 3
  | .full => 4
  | .notFound => 5
  | .pending => 6
  | .stale => 7
  | .badLength => 8

/-- A port's counters in the order of Table 10-3. -/
def PortCounters.toList (c : PortCounters) : List Count :=
  [c.goodFrames, c.checkErrors, c.abortLength, c.abortGap, c.abortMark, c.abortFraming, c.abortRate, c.shed, c.stray,
   c.noisyAccepted, c.stuckEvents, c.framesSent, c.collisions, c.discards, c.queueFull, c.displacements]

/-- The relay-wide counters in the order of Table 10-3. -/
def RelayCounters.toList (c : RelayCounters) : List Count :=
  [c.badSource, c.ownSource, c.badAddress, c.notARequest, c.orphanDrops, c.ruleDrops, c.hopLimit, c.unknown,
   c.localDrops, c.duplicate, c.exchangesFull, c.learnRefusals, c.moves, c.staticConflicts, c.repliesMatched, c.retries,
   c.timeouts, c.lineFaults, c.portDownClosures, c.queueFullClosures, c.reportsLost, c.managementOverflow]

/-- A counter with index `i`, set to 0 when it is among the `n` counters from `start` (R153). -/
def clearedIn (start n i : Nat) (c : Count) : Count := if start ≤ i ∧ i < start + n then 0 else c

/-- A port's counters with those of indexes `start` to `start + n - 1` at 0 (R153). -/
def PortCounters.cleared (start n : Nat) (c : PortCounters) : PortCounters :=
  { goodFrames := clearedIn start n 0 c.goodFrames
    checkErrors := clearedIn start n 1 c.checkErrors
    abortLength := clearedIn start n 2 c.abortLength
    abortGap := clearedIn start n 3 c.abortGap
    abortMark := clearedIn start n 4 c.abortMark
    abortFraming := clearedIn start n 5 c.abortFraming
    abortRate := clearedIn start n 6 c.abortRate
    shed := clearedIn start n 7 c.shed
    stray := clearedIn start n 8 c.stray
    noisyAccepted := clearedIn start n 9 c.noisyAccepted
    stuckEvents := clearedIn start n 10 c.stuckEvents
    framesSent := clearedIn start n 11 c.framesSent
    collisions := clearedIn start n 12 c.collisions
    discards := clearedIn start n 13 c.discards
    queueFull := clearedIn start n 14 c.queueFull
    displacements := clearedIn start n 15 c.displacements }

/-- The relay-wide counters with those of indexes `start` to `start + n - 1` at 0 (R153). -/
def RelayCounters.cleared (start n : Nat) (c : RelayCounters) : RelayCounters :=
  { badSource := clearedIn start n 0 c.badSource
    ownSource := clearedIn start n 1 c.ownSource
    badAddress := clearedIn start n 2 c.badAddress
    notARequest := clearedIn start n 3 c.notARequest
    orphanDrops := clearedIn start n 4 c.orphanDrops
    ruleDrops := clearedIn start n 5 c.ruleDrops
    hopLimit := clearedIn start n 6 c.hopLimit
    unknown := clearedIn start n 7 c.unknown
    localDrops := clearedIn start n 8 c.localDrops
    duplicate := clearedIn start n 9 c.duplicate
    exchangesFull := clearedIn start n 10 c.exchangesFull
    learnRefusals := clearedIn start n 11 c.learnRefusals
    moves := clearedIn start n 12 c.moves
    staticConflicts := clearedIn start n 13 c.staticConflicts
    repliesMatched := clearedIn start n 14 c.repliesMatched
    retries := clearedIn start n 15 c.retries
    timeouts := clearedIn start n 16 c.timeouts
    lineFaults := clearedIn start n 17 c.lineFaults
    portDownClosures := clearedIn start n 18 c.portDownClosures
    queueFullClosures := clearedIn start n 19 c.queueFullClosures
    reportsLost := clearedIn start n 20 c.reportsLost
    managementOverflow := clearedIn start n 21 c.managementOverflow }

end Sys2Proof.Machine
end

