-- ==== Sys2Proof/Machine/Ops.lean ====
section
/-! DEFINITION. The named operations over state that the meanings share: accessors and updates, words between blocks,
the Frame Store, the transmit queues, and the departures from them. -/

namespace Sys2Proof.Machine

/-! ## Accessors and updates -/

/-- Line port `p`. -/
def State.port (s : State) (p : Port) : LinePort := s.ports.get p

/-- `s` with line port `p` changed. -/
def State.modifyPort (s : State) (p : Port) (f : LinePort → LinePort) : State :=
  { s with ports := s.ports.set p (f (s.ports.get p)) }

/-- `s` with every line port changed. -/
def State.modifyPorts (s : State) (f : LinePort → LinePort) : State := { s with ports := s.ports.map f }

/-- `s` with the framer, the receive context, the transmit context, the port record or the counters of port `p`
changed. -/
def State.modifyFramer (s : State) (p : Port) (f : Framer → Framer) : State :=
  s.modifyPort p fun x => { x with framer := f x.framer }
def State.modifyReceiver (s : State) (p : Port) (f : Receiver → Receiver) : State :=
  s.modifyPort p fun x => { x with receiver := f x.receiver }
def State.modifyTransmitter (s : State) (p : Port) (f : Transmitter → Transmitter) : State :=
  s.modifyPort p fun x => { x with transmitter := f x.transmitter }
def State.modifyRecord (s : State) (p : Port) (f : PortRecord → PortRecord) : State :=
  s.modifyPort p fun x => { x with record := f x.record }
def State.countPort (s : State) (p : Port) (f : PortCounters → PortCounters) : State :=
  s.modifyPort p fun x => { x with counters := f x.counters }

/-- `s` with the relay-wide counters, the words outstanding or the Notice Unit's state changed. -/
def State.count (s : State) (f : RelayCounters → RelayCounters) : State := { s with counters := f s.counters }
def State.modifyWords (s : State) (f : Words → Words) : State := { s with words := f s.words }
def State.modifyNotices (s : State) (f : NoticeUnit → NoticeUnit) : State := { s with notices := f s.notices }

/-- The current rate of port `p`, by which its framer and every interval in character times run (R126). -/
def State.rate (s : State) (p : Port) : RateCode := (s.port p).record.currentRate

/-- A character time of port `p` in REFCLK cycles (R1). -/
def State.charTime (s : State) (p : Port) : Nat := charCycles (s.rate p)

/-- The administrative state of port `p`. -/
def State.admin (s : State) (p : Port) : AdminState := (s.port p).record.admin

/-- A port is down when it is DISABLED or ISOLATED (chapter 8.2). -/
def AdminState.isDown : AdminState → Bool
  | .disabled | .isolated => true
  | .enabled | .held => false

/-- An event that the relay's own units take only in service: outside it nothing happens (log entry 19). -/
def State.whenInService (s : State) (f : State → State) : Answer State :=
  .next (if s.phase = .inService then f s else s)

/-! ## Words between blocks (R165) -/

/-- A block raises a notice: the Notice Unit will take it as its own event (R141). -/
def State.raise (s : State) (kind : NoticeKind) (subject detail : Byte) : State :=
  s.modifyWords fun w => { w with raised := w.raised ++ [⟨kind, subject, detail⟩] }

/-- A path report is asked for: the request joins the Report Generator's pending list (R124). -/
def State.askReport (s : State) (reason : ReportReason) (key : ExchangeKey) (port : Port) : State :=
  { s with reports := s.reports ++ [⟨reason, key, port⟩] }

/-! ## The Frame Store (R20 to R24) -/

/-- Slot `i`. -/
def State.slot (s : State) (i : SlotId) : Slot := s.slots[i]

/-- `s` with slot `i` changed. -/
def State.modifySlot (s : State) (i : SlotId) (f : Slot → Slot) : State :=
  { s with slots := s.slots.set i (f s.slots[i]) }

/-- A Port Receiver holds slot `i` as its current slot (R25). -/
def State.receiverHolds (s : State) (i : SlotId) : Bool :=
  allPorts.any fun p => (s.port p).receiver.currentSlot == some i

/-- A holder outside the reference count holds slot `i`: a receiver filling it, the Relay Unit's input list or the
Management Unit's input queue (R20). A decision and a generator's building are each one event, so they hold nothing
between events. -/
def State.heldOutside (s : State) (i : SlotId) : Bool :=
  s.receiverHolds i || s.relay.input.any (·.slot == i) || s.management.queue.any (·.slot == i)

/-- The free count: the number of FREE slots (R23). -/
def State.freeCount (s : State) : Nat := s.slots.toList.countP fun f => f.state == .free

/-- The lowest-numbered FREE slot (R23). -/
def State.lowestFree (s : State) : Option SlotId := (List.finRange 48).find? fun i => (s.slot i).state == .free

/-- A Port Receiver's claim: granted "while more than 4 slots are FREE"; the slot becomes FILLING (R23, R24). -/
def State.claimForReceiver (s : State) : Option (SlotId × State) :=
  if Config.generationReserve < s.freeCount then
    s.lowestFree.map fun i => (i, s.modifySlot i fun _ => ⟨[], 0, .filling⟩)
  else none

/-- A generator's claim: granted "while at least one slot is FREE"; the slot becomes IN_USE with length 0 and reference
count 0 (R23, R24). -/
def State.claimForGenerator (s : State) : Option (SlotId × State) :=
  s.lowestFree.map fun i => (i, s.modifySlot i fun _ => ⟨[], 0, .inUse⟩)

/-- A holder outside the count lets slot `i` go: "while its reference count is 0, the slot likewise becomes FREE", else
it stays (R22). Called when the holder no longer names the slot. -/
def State.letGo (s : State) (i : SlotId) : State :=
  if (s.slot i).refs = 0 ∧ ¬ s.heldOutside i then s.modifySlot i fun _ => Slot.empty else s

/-- One reference on slot `i` is released: at 0, with no holder outside the count, the slot becomes FREE (R21, R22). -/
def State.releaseRef (s : State) (i : SlotId) : State :=
  (s.modifySlot i fun f => { f with refs := f.refs - 1 }).letGo i

/-- One reference on slot `i` is added (R21). -/
def State.addRef (s : State) (i : SlotId) : State := s.modifySlot i fun f => { f with refs := f.refs + 1 }

/-! ## Departures from a queue (R34) -/

/-- A manner at which the Exchange Tracker does more than see a release: FLUSHED and WITHDRAWN close nothing (R114,
R122). -/
def Manner.concernsTracker : Manner → Bool
  | .completed | .discarded | .displaced => true
  | .withdrawn | .flushed => false

/-- A manner that the Notice Unit and the Management Unit count as the frame's departure (R36, R143, R151). -/
def Manner.endsGenerated : Manner → Bool
  | .completed | .discarded | .flushed => true
  | .displaced | .withdrawn => false

/-- An open exchange record names slot `i`. -/
def State.exchangeNames (s : State) (i : SlotId) : Bool := s.exchanges.any (·.slot == i)

/-- A copy of the notice in flight may still depart from slot `i`: the in-flight record names the slot and fewer
departures have been announced than copies stand in it. With as many, all copies are gone and an entry that names the
slot belongs to another frame (log entry 7). -/
def State.noticeCopyIn (s : State) (i : SlotId) : Bool :=
  match s.notices.inFlight with
  | some r => r.slot == i && decide (s.words.noticeCopies.length < r.copies)
  | none => false

/-- A watched reply may still depart from slot `i`: the watch names the slot more often than departures from it have
been announced and not yet taken (log entry 7). -/
def State.watchedReplyIn (s : State) (i : SlotId) : Bool :=
  decide (s.words.watchedReplies.countP (·.slot == i) < s.management.watch.countP (·.slot == i))

/-- The announcement of a departure reaches the block that waits on the frame, according to the entry's origin: "A block
that holds no record of the slot takes no action on the announcement" (R34). -/
def State.announce (s : State) (p : Port) (e : QueueEntry) (m : Manner) : State :=
  match e.origin with
  | .relayed =>
    if m.concernsTracker && s.exchangeNames e.slot then
      s.modifyWords fun w => { w with tracker := w.tracker ++ [⟨⟨p, e.slot, m⟩, 0⟩] }
    else s
  | .generated =>
    if m.endsGenerated && s.noticeCopyIn e.slot then
      s.modifyWords fun w => { w with noticeCopies := w.noticeCopies ++ [⟨p, e.slot, m⟩] }
    else if m.endsGenerated && s.watchedReplyIn e.slot then
      s.modifyWords fun w => { w with watchedReplies := w.watchedReplies ++ [⟨p, e.slot, m⟩] }
    else s

/-- An entry has left the queue of port `p`: one reference on its slot is released and the departure is announced
(R34). -/
def State.depart (s : State) (p : Port) (m : Manner) (e : QueueEntry) : State :=
  (s.releaseRef e.slot).announce p e m

/-! ## Transmit queues (R30 to R36) -/

/-- The head entry is in transmission "from the moment the transmitter begins SENDING its frame until" it completes, is
discarded, or the transmitter leaves JAM (R31). -/
def Transmitter.headInTransmission (t : Transmitter) : Bool :=
  match t.state with
  | .sending | .jam => true
  | .off | .idle | .waitGap | .backoff => false

/-- The entries in transmission: the head alone, or none. -/
def Transmitter.inTransmission (t : Transmitter) : List QueueEntry := if t.headInTransmission then t.queue.take 1 else []

/-- The entries not in transmission. -/
def Transmitter.waiting (t : Transmitter) : List QueueEntry := if t.headInTransmission then t.queue.drop 1 else t.queue

/-- `e` behind the PRIORITY entries at the front and ahead of the ORDINARY ones. -/
def behindPriority (e : QueueEntry) (q : List QueueEntry) : List QueueEntry :=
  q.takeWhile (·.band == .priority) ++ e :: q.dropWhile (·.band == .priority)

/-- The queue with a new entry in its place: an ORDINARY entry at the tail, a PRIORITY entry behind every PRIORITY entry
and behind a head in transmission (R32). -/
def Transmitter.joined (t : Transmitter) (e : QueueEntry) : List QueueEntry :=
  match e.band with
  | .ordinary => t.queue ++ [e]
  | .priority => t.inTransmission ++ behindPriority e t.waiting

/-- The youngest ORDINARY entry of a list, with the list less it: within a band entries stand in admission order (R31),
so it is the last. -/
def takeYoungestOrdinary : List QueueEntry → Option (QueueEntry × List QueueEntry)
  | [] => none
  | e :: rest =>
    match takeYoungestOrdinary rest with
    | some (d, rest') => some (d, e :: rest')
    | none => if e.band = .ordinary then some (e, rest) else none

/-- A transmitter whose queue may have become non-empty: IDLE on an ENABLED port goes to WAIT_GAP (R61). -/
def wakeTransmitter (a : AdminState) (t : Transmitter) : Transmitter :=
  if a = .enabled ∧ t.state = .idle ∧ t.queue ≠ [] then { t with state := .waitGap } else t

/-- A transmitter whose queue may have become empty: WAIT_GAP goes to IDLE (R62). -/
def restTransmitter (t : Transmitter) : Transmitter :=
  if t.state = .waitGap ∧ t.queue = [] then { t with state := .idle } else t

/-- The entry joins the queue of port `p` and its slot's reference count rises by one (R32). -/
def State.joinQueue (s : State) (p : Port) (e : QueueEntry) : State :=
  (s.modifyPort p fun x =>
    { x with transmitter := wakeTransmitter x.record.admin { x.transmitter with queue := x.transmitter.joined e } }).addRef
    e.slot

/-- The admission is refused at a full queue: the port's queue-full counter rises by one (R33). -/
def State.refuseAtFull (s : State) (p : Port) : State :=
  s.countPort p fun c => { c with queueFull := stoppingSucc c.queueFull }

/-- The youngest ORDINARY entry not in transmission is displaced, `rest` being the waiting entries less it: it leaves
with the manner DISPLACED and the port's displacement counter rises by one (R33). -/
def State.displace (s : State) (p : Port) (d : QueueEntry) (rest : List QueueEntry) : State :=
  ((s.modifyTransmitter p fun t => { t with queue := t.inTransmission ++ rest }).countPort p fun c =>
    { c with displacements := stoppingSucc c.displacements }).depart p .displaced d

/-- An admission to the queue of port `p`, with whether it was accepted (R32, R33). -/
def State.offer (s : State) (p : Port) (e : QueueEntry) : State × Bool :=
  if (s.admin p).isDown then (s, false)
  else if (s.port p).transmitter.queue.length < Config.queueCapacity then (s.joinQueue p e, true)
  else
    match e.band with
    | .ordinary => (s.refuseAtFull p, false)
    | .priority =>
      match takeYoungestOrdinary (s.port p).transmitter.waiting with
      | some (d, rest) => ((s.displace p d rest).joinQueue p e, true)
      | none => (s.refuseAtFull p, false)

/-- Admissions of one slot to several ports in the order given, with the number accepted. -/
def State.offerAll (s : State) (e : QueueEntry) : List Port → State × Nat
  | [] => (s, 0)
  | p :: ps =>
    let (s1, accepted) := s.offer p e
    let (s2, n) := s1.offerAll e ps
    (s2, if accepted then n + 1 else n)

/-- The withdrawal of slot `i` at one port: its waiting entries that name the slot leave as WITHDRAWN, an entry in
transmission stays (R35); an emptied queue sends WAIT_GAP to IDLE (R62). -/
def State.withdrawAt (s : State) (i : SlotId) (p : Port) : State :=
  let gone := (s.port p).transmitter.waiting.filter (·.slot == i)
  gone.foldl (fun s e => s.depart p .withdrawn e)
    (s.modifyTransmitter p fun t =>
      restTransmitter { t with queue := t.inTransmission ++ t.waiting.filter (·.slot != i) })

/-- The withdrawal of slot `i` from every queue (R35). -/
def State.withdraw (s : State) (i : SlotId) : State := allPorts.foldl (fun s p => s.withdrawAt i p) s

/-- The flush of the queue of port `p`: every entry leaves as FLUSHED, from head to tail (R36). -/
def State.flushQueue (s : State) (p : Port) : State :=
  let gone := (s.port p).transmitter.queue
  gone.foldl (fun s e => s.depart p .flushed e) (s.modifyTransmitter p fun t => { t with queue := [] })

/-- The number of entries that name slot `i` in the queue of port `p`. -/
def State.entriesAt (s : State) (i : SlotId) (p : Port) : Nat :=
  (s.port p).transmitter.queue.countP (·.slot == i)

/-- An entry naming slot `i` stands in some queue, queued or in transmission (R120, R121, R122). -/
def State.entryNames (s : State) (i : SlotId) : Bool := allPorts.any fun p => decide (0 < s.entriesAt i p)

/-- A frame built by a generator is offered to the queue of each chosen port, PRIORITY and GENERATED, and the generator
lets the slot go (R28). The number of copies admitted comes with it. -/
def State.sendGenerated (s : State) (i : SlotId) (frame : List Character) (ports : List Port) : State × Nat :=
  let built := s.modifySlot i fun f => { f with chars := frame }
  let (sent, n) := built.offerAll { band := .priority, collisions := 0, origin := .generated, slot := i } ports
  (sent.letGo i, n)

end Sys2Proof.Machine
end

