-- ==== Sys2Proof/Machine/Exchange.lean ====
section
/-! DEFINITION. The Exchange Tracker (R110 to R123), the word of a timeout to the Station Map (R87), and the Report
Generator (R124). -/

namespace Sys2Proof.Machine

/-! ## The Station Map's lookup, read by the tracker, the Relay Unit and the Notice Unit -/

/-- The entry for an address, if the map holds one (R78). -/
def State.lookup (s : State) (a : Byte) : Option StationEntry := s.map.entries.find? (·.address == a)

/-- `s` with the entry for an address changed. -/
def State.modifyStation (s : State) (a : Byte) (f : StationEntry → StationEntry) : State :=
  { s with map := { s.map with entries := s.map.entries.map fun e => if e.address = a then f e else e } }

/-! ## Closing (R114) -/

/-- The outcomes with which an exchange closes (R114). -/
inductive Closure where
  | byReply
  | noAnswer (r : NoAnswerReason)
  | busy
  | silent
  deriving DecidableEq, Repr

/-- The path report a closure asks for, if any (R114). -/
def Closure.report : Closure → Option ReportReason
  | .byReply | .silent => none
  | .noAnswer r => some (.noAnswer r)
  | .busy => some (.busy .queueFull)

/-- The counter a closure raises (R125). -/
def Closure.count (c : Closure) (k : RelayCounters) : RelayCounters :=
  match c with
  | .byReply => { k with repliesMatched := stoppingSucc k.repliesMatched }
  | .noAnswer .timeout => { k with timeouts := stoppingSucc k.timeouts }
  | .noAnswer .lineFault => { k with lineFaults := stoppingSucc k.lineFaults }
  | .noAnswer .portDown => { k with portDownClosures := stoppingSucc k.portDownClosures }
  | .busy => { k with queueFullClosures := stoppingSucc k.queueFullClosures }
  | .silent => k

/-- The words a closure sends and drops: for NO_ANSWER/TIMEOUT the Station Map's word (R114); announcements for the
record that the tracker has not taken find no record any more and change nothing (R114, log entry 7). -/
def Closure.words (c : Closure) (x : Exchange) (w : Words) : Words :=
  { w with
    tracker := w.tracker.filter (·.slot != x.slot)
    timeouts := if c = .noAnswer .timeout then w.timeouts ++ [x.key.responder] else w.timeouts }

/-- The record leaves the table and the records behind it move up (R111, R114). -/
def State.dropRecord (s : State) (x : Exchange) : State :=
  { s with exchanges := s.exchanges.eraseP (·.key == x.key) }

/-- An exchange closes (R114): the record leaves the table, its slot is withdrawn from the queues and its own reference
released, the report and the word of its outcome are asked for, and its counter rises. -/
def State.closeExchange (s : State) (x : Exchange) (c : Closure) : State :=
  let released := ((((s.dropRecord x).modifyWords (c.words x)).withdraw x.slot).releaseRef x.slot).count c.count
  match c.report with
  | some r => released.askReport r x.key x.requesterPort
  | none => released

/-- `s` with the open record of a key changed. -/
def State.modifyExchange (s : State) (k : ExchangeKey) (f : Exchange → Exchange) : State :=
  { s with exchanges := s.exchanges.map fun x => if x.key = k then f x else x }

/-- The open exchange with a key (R110). -/
def State.findExchange (s : State) (k : ExchangeKey) : Option Exchange := s.exchanges.find? (·.key == k)

/-- The open exchange whose record names a slot (R21: a slot is named by at most one). -/
def State.exchangeOn (s : State) (i : SlotId) : Option Exchange := s.exchanges.find? (·.slot == i)

/-- The value a deadline timer starts with: that of the record's class as it then stands (R112). -/
def State.deadlineOf (s : State) (x : Exchange) : Nat := msCycles (s.timeoutTable.get x.timeoutClass)

/-! ## Announcements taken (R115, R120, R121) -/

/-- The tracker takes the oldest announcement for slot `i` that it has not taken, if its manner is `m`: the exchange
named, the age of the announcement, and the state with the word taken. Announcements for one slot are taken in the order
made (log entry 4). -/
def State.takeTrackerWord (s : State) (i : SlotId) (m : Manner) : Option (Exchange × Nat × State) :=
  match s.words.tracker.find? (·.slot == i) with
  | some d =>
    if d.manner = m then
      (s.exchangeOn i).map fun x => (x, d.age, s.modifyWords fun w => { w with tracker := w.tracker.erase d })
    else none
  | none => none

/-- The deadline timer of `x` where the copy's last echo was judged good `age` cycles ago: "The timer counts from the
event at which the copy's last echo was judged good" (R115, log entry 26). -/
def State.startedDeadline (s : State) (x : Exchange) (age : Nat) : Option Nat := some (s.deadlineOf x - age)

/-- A copy of the request has completed (R115). -/
def takeCompleted (i : SlotId) (s : State) : State :=
  match s.takeTrackerWord i .completed with
  | some (x, age, s) =>
    match x.state with
    | .sendPending =>
      s.modifyExchange x.key fun x => { x with deadline := s.startedDeadline x age, state := .awaitReply }
    | .retryPending =>
      s.modifyExchange x.key fun x => { x with deadline := s.startedDeadline x age, state := .retryAwait }
    | .awaitReply | .retryAwait => s
  | none => s

/-- EXCHANGE_COMPLETED (R115). -/
def execExchangeCompleted (i : SlotId) (s : State) : Answer State := s.whenInService (takeCompleted i)

/-- A copy of the request has left its queue without completing: the exchange closes when no copy has completed and no
entry naming the slot remains (R120, R121). -/
def State.loseCopy (s : State) (x : Exchange) (c : Closure) : State :=
  match x.state with
  | .sendPending => if s.entryNames x.slot then s else s.closeExchange x c
  | .retryPending => s.closeExchange x c
  | .awaitReply | .retryAwait => s

/-- A copy of the request was discarded (R120). -/
def takeDiscarded (i : SlotId) (s : State) : State :=
  match s.takeTrackerWord i .discarded with
  | some (x, _, s) => s.loseCopy x (.noAnswer .lineFault)
  | none => s

/-- EXCHANGE_DISCARDED (R120). -/
def execExchangeDiscarded (i : SlotId) (s : State) : Answer State := s.whenInService (takeDiscarded i)

/-- A copy of the request was displaced (R121). -/
def takeDisplaced (i : SlotId) (s : State) : State :=
  match s.takeTrackerWord i .displaced with
  | some (x, _, s) => s.loseCopy x .busy
  | none => s

/-- EXCHANGE_DISPLACED (R121). -/
def execExchangeDisplaced (i : SlotId) (s : State) : Answer State := s.whenInService (takeDisplaced i)

/-! ## Expiries (R116, R117) -/

/-- The deadline timer of a record has expired in a state. -/
def Exchange.expiredIn (x : Exchange) (st : ExchangeState) : Bool := x.state == st && x.deadline == some 0

/-- The retry port: "the port that the Station Map names for the responder at the expiry", or the record's responder
port when the map has no entry (R116). -/
def State.retryPort (s : State) (x : Exchange) (recorded : Port) : Port :=
  match s.lookup x.key.responder with
  | some e => e.port
  | none => recorded

/-- The retry is queued on port `p` if its queue admits it; otherwise the exchange closes with NO_ANSWER/TIMEOUT
(R116). -/
def State.retryExchange (s : State) (x : Exchange) (p : Port) : State :=
  match s.offer p { band := .ordinary, collisions := 0, origin := .relayed, slot := x.slot } with
  | (s, true) =>
    (s.modifyExchange x.key fun x =>
      { x with attempt := 2, deadline := none, responderPort := .port p, state := .retryPending }).count fun k =>
        { k with retries := stoppingSucc k.retries }
  | (s, false) => s.closeExchange x (.noAnswer .timeout)

/-- The first expiry of the deadline timer (R116). -/
def expireFirst (k : ExchangeKey) (s : State) : State :=
  match s.findExchange k with
  | some x =>
    if x.expiredIn .awaitReply then
      match x.responderPort, x.retryAllowed with
      | .port p, true => s.retryExchange x (s.retryPort x p)
      | _, _ => s.closeExchange x (.noAnswer .timeout)
    else s
  | none => s

/-- FIRST_EXPIRY (R116). -/
def execFirstExpiry (k : ExchangeKey) (s : State) : Answer State := s.whenInService (expireFirst k)

/-- The second expiry (R117). -/
def expireSecond (k : ExchangeKey) (s : State) : State :=
  match s.findExchange k with
  | some x => if x.expiredIn .retryAwait then s.closeExchange x (.noAnswer .timeout) else s
  | none => s

/-- SECOND_EXPIRY (R117). -/
def execSecondExpiry (k : ExchangeKey) (s : State) : Answer State := s.whenInService (expireSecond k)

/-! ## A port has gone down (R122) -/

/-- How the port-down word for `p` judges a record, by "the first of these that applies" (R122); none leaves it
unchanged. -/
def State.portDownClosure (s : State) (p : Port) (x : Exchange) : Option Closure :=
  if x.requesterPort = p then some .silent
  else
    match x.responderPort with
    | .port q => if q = p then some (.noAnswer .portDown) else none
    | .flooded =>
      if x.state = .sendPending ∧ s.entryNames x.slot = false then some (.noAnswer .portDown) else none

/-- One record judged at the word (R122). -/
def State.judgePortDown (p : Port) (s : State) (x : Exchange) : State :=
  match s.portDownClosure p x with
  | some c => s.closeExchange x c
  | none => s

/-- The tracker takes the word that port `p` has gone down: it judges every open record, in opening order (R122). -/
def takePortDown (p : Port) (s : State) : State :=
  if p ∈ s.words.portDown then
    s.exchanges.foldl (State.judgePortDown p) (s.modifyWords fun w => { w with portDown := w.portDown.erase p })
  else s

/-- PORT_DOWN_WORD (R122). -/
def execPortDownWord (p : Port) (s : State) : Answer State := s.whenInService (takePortDown p)

/-! ## The word of a timeout (R87) -/

/-- The Station Map takes the word of a timeout: the responder's silence count rises, and STATION_SILENT is raised when
it comes to 3 (R87). -/
def takeTimeoutWord (a : Byte) (s : State) : State :=
  if a ∈ s.words.timeouts then
    let taken := s.modifyWords fun w => { w with timeouts := w.timeouts.erase a }
    match taken.lookup a with
    | some e =>
      if e.silence = 3 then taken
      else
        let risen := taken.modifyStation a fun e => { e with silence := e.silence + 1 }
        if e.silence = 2 then risen.raise .stationSilent a (portCharacter e.port) else risen
    | none => taken
  else s

/-- TIMEOUT_WORD (R87). -/
def execTimeoutWord (a : Byte) (s : State) : Answer State := s.whenInService (takeTimeoutWord a)

/-! ## The Report Generator (R124) -/

/-- The frame of a path report (R17, R124). -/
def reportFrame (own : Byte) (r : ReportRequest) : List Character :=
  frameCharacters r.key.requester own (controlOf .report 0 r.key.tag) (r.reason.characters ++ [r.key.responder])

/-- A report is lost (R124). -/
def State.loseReport (s : State) : State := s.count fun k => { k with reportsLost := stoppingSucc k.reportsLost }

/-- The Report Generator takes the request at the head of its pending list (R124). -/
def takeReport (s : State) : State :=
  match s.reports with
  | [] => s
  | r :: rest =>
    let taken := { s with reports := rest }
    match taken.claimForGenerator with
    | none => taken.loseReport
    | some (i, claimed) =>
      match claimed.sendGenerated i (reportFrame s.management.ownAddress r) [r.port] with
      | (sent, 0) => sent.loseReport
      | (sent, _ + 1) => sent

/-- PATH_REPORT (R124). -/
def execPathReport (s : State) : Answer State := s.whenInService takeReport

end Sys2Proof.Machine
end

