-- ==== Sys2Proof/Machine/StationMap.lean ====
section
/-! DEFINITION. The Station Map (R77 to R94): learning from traffic, aging, STATIC writes and removals. -/

namespace Sys2Proof.Machine

/-- `e` put in its place in ascending address order (R78). -/
def insertStation (e : StationEntry) : List StationEntry → List StationEntry
  | [] => [e]
  | x :: rest => if e.address.toNat < x.address.toNat then e :: x :: rest else x :: insertStation e rest

/-- `s` with an entry added. -/
def State.addStation (s : State) (e : StationEntry) : State :=
  { s with map := { s.map with entries := insertStation e s.map.entries } }

/-- `s` with the entries that satisfy `gone` removed. -/
def State.removeStations (s : State) (gone : StationEntry → Bool) : State :=
  { s with map := { s.map with entries := s.map.entries.filter fun e => !gone e } }

/-- An entry is LEARNED. -/
def StationEntry.isLearned (e : StationEntry) : Bool :=
  match e.origin with
  | .learned _ => true
  | .static => false

/-- The age a reply reports: 0 for a STATIC entry (R77). -/
def StationEntry.age (e : StationEntry) : Nat :=
  match e.origin with
  | .learned a => a.val
  | .static => 0

/-- The map has room for a further entry (R78). -/
def State.mapHasRoom (s : State) : Bool := decide (s.map.entries.length < Config.mapCapacity)

/-! ## Learning (R80 to R84) -/

/-- The verdict of the map update (R80). -/
inductive Verdict where
  | goOn
  | drop
  deriving DecidableEq, Repr

/-- Static conflict (R84): counted, SOURCE_CONFLICT raised, the frame dropped; the entry stays. -/
def State.staticConflict (s : State) (source : Byte) (ingress : Port) : State :=
  (s.count fun k => { k with staticConflicts := stoppingSucc k.staticConflicts }).raise .sourceConflict source
    (portCharacter ingress)

/-- A source with no entry (R81): created as LEARNED, or refused with MAP_FULL when the map is full, or left alone with
the learn option off. -/
def State.learnNew (s : State) (source : Byte) (ingress : Port) : State :=
  if (s.port ingress).record.learn then
    if s.mapHasRoom then
      s.addStation { address := source, origin := .learned 0, port := ingress, retry := true, silence := 0, timeoutClass := 0 }
    else
      (s.count fun k => { k with learnRefusals := stoppingSucc k.learnRefusals }).raise .mapFull (portCharacter ingress)
        source
  else s

/-- A source with a LEARNED entry on another port (R83): it moves with the learn option on; with it off only its silence
count returns to 0. -/
def State.moveStation (s : State) (e : StationEntry) (ingress : Port) : State :=
  if (s.port ingress).record.learn then
    ((s.modifyStation e.address fun e => { e with origin := .learned 0, port := ingress, silence := 0 }).count fun k =>
      { k with moves := stoppingSucc k.moves }).raise .stationMoved e.address (portCharacter e.port)
  else s.modifyStation e.address fun e => { e with silence := 0 }

/-- A source heard on its entry's own port (R82): age and silence count return to 0. -/
def StationEntry.refreshed (e : StationEntry) : StationEntry :=
  match e.origin with
  | .learned _ => { e with origin := .learned 0, silence := 0 }
  | .static => { e with silence := 0 }

/-- The map update for a frame (Table 5-1). With the ingress port down the map changes no entry but still judges a
static conflict (R80; what that means for case N2 is log entry 16). -/
def State.updateMap (s : State) (source : Byte) (ingress : Port) : State × Verdict :=
  match s.lookup source with
  | none => if (s.admin ingress).isDown then (s, .goOn) else (s.learnNew source ingress, .goOn)
  | some e =>
    if e.port ≠ ingress ∧ e.origin = .static then (s.staticConflict source ingress, .drop)
    else if (s.admin ingress).isDown then (s, .goOn)
    else if e.port = ingress then (s.modifyStation source StationEntry.refreshed, .goOn)
    else (s.moveStation e ingress, .goOn)

/-! ## Aging (R85, R86) -/

/-- What an aging expiry makes of an entry: a LEARNED entry of age 3 is removed, another LEARNED entry ages by one, a
STATIC entry stays (R85). -/
def StationEntry.aged (e : StationEntry) : Option StationEntry :=
  match e.origin with
  | .learned a => if a = 3 then none else some { e with origin := .learned (a + 1) }
  | .static => some e

/-- The aging timer starts for a full period (R85). -/
def State.startAging (s : State) : State := { s with map := { s.map with timer := some (secondCycles s.map.period) } }

/-- The aging timer expires (R85). -/
def expireAging (s : State) : State :=
  if s.map.timer = some 0 then
    ({ s with map := { s.map with entries := s.map.entries.filterMap StationEntry.aged } }).startAging
  else s

/-- AGING_EXPIRY (R85). -/
def execAgingExpiry (s : State) : Answer State := s.whenInService expireAging

/-! ## STATIC writes and removals (R88 to R92) -/

/-- `e` is evicted before `x`: it is older, or as old with a lower address (R89). -/
def StationEntry.evictedBefore (e x : StationEntry) : Bool :=
  decide (x.age < e.age) || (decide (e.age = x.age) && decide (e.address.toNat < x.address.toNat))

/-- The LEARNED entry that a STATIC write into a full map evicts: the greatest age, and among equals the lowest address
(R89). -/
def evictionChoice : List StationEntry → Option StationEntry
  | [] => none
  | e :: rest =>
    match evictionChoice rest with
    | none => if e.isLearned then some e else none
    | some x => if e.isLearned && e.evictedBefore x then some e else some x

/-- A STATIC write (R88, R89): none when it is refused with FULL. -/
def State.writeStatic (s : State) (e : StationEntry) : Option State :=
  match s.lookup e.address with
  | some _ => some (s.modifyStation e.address fun _ => e)
  | none =>
    if s.mapHasRoom then some (s.addStation e)
    else (evictionChoice s.map.entries).map fun x => (s.removeStations (·.address == x.address)).addStation e

end Sys2Proof.Machine
end

