-- ==== Sys2Proof/Machine/Relay.lean ====
section
/-! DEFINITION. The Relay Unit: the eleven steps of a decision (R95 to R108). Each step is one definition that hands on to
the next; the frame is read from its slot as it arrived. -/

namespace Sys2Proof.Machine

/-! ## Steps 9 to 11: exchange opening, hop increment, admission (R106 to R108) -/

/-- The key under which a request opens its exchange (R106). -/
def Slot.requestKey (f : Slot) : ExchangeKey := ⟨f.source, f.destination, f.tag⟩

/-- The key of the exchange a reply answers: its destination as requester, its source as responder (R99). -/
def Slot.replyKey (f : Slot) : ExchangeKey := ⟨f.destination, f.source, f.tag⟩

/-- The band of a relayed frame (R30, R108). -/
def Kind.band : Kind → Band
  | .request | .datagram => .ordinary
  | .reply | .report => .priority

/-- The responder port of an exchange: "the single port of the output set, or FLOODED" (R106). -/
def responderPortOf : List Port → ResponderPort
  | [p] => .port p
  | _ => .flooded

/-- The record a request opens (R113). -/
def State.newExchange (s : State) (h : HeldFrame) (f : Slot) (output : List Port) : Exchange :=
  let entry := s.lookup f.destination
  { attempt := 1
    deadline := none
    key := f.requestKey
    requesterPort := h.ingress
    responderPort := responderPortOf output
    retryAllowed := responderPortOf output != .flooded && (entry.map (·.retry)).getD true
    slot := h.slot
    state := .sendPending
    timeoutClass := (entry.map (·.timeoutClass)).getD 0 }

/-- The record joins the tail of the opening order and its slot's reference count rises by one (R113). -/
def State.openExchange (s : State) (x : Exchange) : State :=
  ({ s with exchanges := s.exchanges ++ [x] }).addRef x.slot

/-- Steps 10 and 11: the hop count rises and the check is rewritten (R107), then the frame is offered to each port of
the output set in ascending order (R108). The number of copies admitted comes with it. -/
def State.carry (s : State) (h : HeldFrame) (f : Slot) (output : List Port) : State × Nat :=
  (s.modifySlot h.slot Slot.raiseHop).offerAll
    { band := f.kind.band, collisions := 0, origin := .relayed, slot := h.slot } output

/-- A request under its newly opened exchange: carried, and closed with BUSY/QUEUE_FULL if no queue admitted it (R108,
R121). -/
def State.carryRequest (s : State) (h : HeldFrame) (f : Slot) (output : List Port) : State :=
  let x := s.newExchange h f output
  match (s.openExchange x).carry h f output with
  | (carried, 0) => carried.closeExchange x .busy
  | (carried, _ + 1) => carried

/-- Step 9 (R106): a duplicate is dropped, a request refused for want of a record is dropped and reported, another opens
its exchange; frames that open none pass. -/
def State.openAndCarry (s : State) (h : HeldFrame) (f : Slot) (output : List Port) : State :=
  if f.kind = .request ∧ f.destination ≠ 0xFF then
    if (s.findExchange f.requestKey).isSome then s.count fun k => { k with duplicate := stoppingSucc k.duplicate }
    else if s.exchanges.length < Config.exchangeCapacity then s.carryRequest h f output
    else
      (s.count fun k => { k with exchangesFull := stoppingSucc k.exchangesFull }).askReport (.busy .exchangesFull)
        f.requestKey h.ingress
  else (s.carry h f output).1

/-! ## Steps 7 and 8: hop limit and output set (R104, R105) -/

/-- What the rule list says of a frame that goes on: nothing, or a redirect port (R102). -/
inductive Route where
  | normal
  | redirect (p : Port)
  deriving DecidableEq, Repr

/-- The starting set of the output set; none where the destination is unknown and the ingress port's flood option is off
(R105). -/
def State.startingSet (s : State) (h : HeldFrame) (f : Slot) (route : Route) : Option (List Port) :=
  match route with
  | .redirect p => some [p]
  | .normal =>
    if f.destination = 0xFF then some allPorts
    else
      match s.lookup f.destination with
      | some e => some [e.port]
      | none => if (s.port h.ingress).record.floodUnknown then some allPorts else none

/-- The output set: the starting set less the ingress port and every port that is down (R105). -/
def State.outputSet (s : State) (h : HeldFrame) (start : List Port) : List Port :=
  start.filter fun p => p != h.ingress && !(s.admin p).isDown

/-- Steps 7 and 8, then the rest (R104, R105). -/
def State.routeFrame (s : State) (h : HeldFrame) (f : Slot) (route : Route) : State :=
  if f.hop = 3 then s.count fun k => { k with hopLimit := stoppingSucc k.hopLimit }
  else
    match s.startingSet h f route with
    | none => s.count fun k => { k with unknown := stoppingSucc k.unknown }
    | some start =>
      if s.outputSet h start = [] then s.count fun k => { k with localDrops := stoppingSucc k.localDrops }
      else s.openAndCarry h f (s.outputSet h start)

/-! ## Step 6: the rule list (R101, R102) -/

/-- A set of kinds holds a kind: bit k is set when kind k is a member (R15). -/
def kindIn (k : Kind) (set : BitVec 4) : Bool := set.getLsbD k.code.toNat

/-- A rule matches a frame when source, destination, kind and ingress port all lie within its fields (R102). -/
def RuleFields.matchesFrame (r : RuleFields) (h : HeldFrame) (f : Slot) : Bool :=
  decide (r.sourceLow.toNat ≤ f.source.toNat ∧ f.source.toNat ≤ r.sourceHigh.toNat) &&
    decide (r.destinationLow.toNat ≤ f.destination.toNat ∧ f.destination.toNat ≤ r.destinationHigh.toNat) &&
    kindIn f.kind r.kinds && r.ingressPorts.getLsbD h.ingress.val

/-- The first rule that matches, with the list in which its hit count has risen by one (R102). -/
def firstMatch (h : HeldFrame) (f : Slot) : List Rule → Option (RuleFields × List Rule)
  | [] => none
  | r :: rest =>
    if r.fields.matchesFrame h f then some (r.fields, { r with hits := stoppingSucc r.hits } :: rest)
    else (firstMatch h f rest).map fun x => (x.1, r :: x.2)

/-- The frame is dropped by a rule or by the default action (R102). -/
def State.dropByRule (s : State) : State := s.count fun k => { k with ruleDrops := stoppingSucc k.ruleDrops }

/-- Step 6, then the rest: the first matching rule's action, or the default action (R102). -/
def State.applyRules (s : State) (h : HeldFrame) (f : Slot) : State :=
  match firstMatch h f s.relay.rules with
  | some (r, rules) =>
    let hit := { s with relay := { s.relay with rules := rules } }
    match r.action with
    | .pass => hit.routeFrame h f .normal
    | .drop => hit.dropByRule
    | .redirect => hit.routeFrame h f (.redirect r.redirectPort)
  | none =>
    match s.relay.defaultAction with
    | .pass => s.routeFrame h f .normal
    | .drop => s.dropByRule

/-! ## Steps 3 to 5: destination and reply matching (R98 to R100) -/

/-- Step 5, then the rest: a reply closes its exchange or is an orphan (R99, R100). -/
def State.matchReply (s : State) (h : HeldFrame) (f : Slot) : State :=
  if f.kind = .reply then
    match s.findExchange f.replyKey with
    | some x => (s.closeExchange x .byReply).applyRules h f
    | none =>
      match s.relay.orphanPolicy with
      | .drop => s.count fun k => { k with orphanDrops := stoppingSucc k.orphanDrops }
      | .pass => s.applyRules h f
  else s.applyRules h f

/-- A frame for the relay: a REQUEST joins the Management Unit's input queue or overflows it, another kind is dropped
(R98, R148). -/
def State.handOver (s : State) (h : HeldFrame) (f : Slot) : State :=
  if f.kind = .request then
    if s.management.queue.length < Config.requestCapacity then
      { s with management := { s.management with queue := s.management.queue ++ [h] } }
    else s.count fun k => { k with managementOverflow := stoppingSucc k.managementOverflow }
  else s.count fun k => { k with notARequest := stoppingSucc k.notARequest }

/-- Steps 3 and 4, then the rest (R98). -/
def State.judgeDestination (s : State) (h : HeldFrame) (f : Slot) : State :=
  if f.destination = 0x00 then s.count fun k => { k with badAddress := stoppingSucc k.badAddress }
  else if f.destination = s.management.ownAddress then s.handOver h f
  else s.matchReply h f

/-! ## Steps 1 and 2: source and map (R96, R97) -/

/-- The steps of a decision on the frame `f` that `h` holds (Table 6-1). -/
def State.judgeFrame (s : State) (h : HeldFrame) (f : Slot) : State :=
  if f.source = 0x00 ∨ f.source = 0xFF then s.count fun k => { k with badSource := stoppingSucc k.badSource }
  else if f.source = s.management.ownAddress then
    (s.count fun k => { k with ownSource := stoppingSucc k.ownSource }).raise .sourceConflict f.source
      (portCharacter h.ingress)
  else
    match s.updateMap f.source h.ingress with
    | (updated, .goOn) => updated.judgeDestination h f
    | (updated, .drop) => updated

/-- The Relay Unit takes the frame at the head of its input list, decides on it, and lets its slot go (R95, R26). -/
def takeDecision (s : State) : State :=
  match s.relay.input with
  | [] => s
  | h :: rest =>
    let taken := { s with relay := { s.relay with input := rest } }
    (taken.judgeFrame h (s.slot h.slot)).letGo h.slot

/-- RELAY_DECISION (R95). -/
def execRelayDecision (s : State) : Answer State := s.whenInService takeDecision

end Sys2Proof.Machine
end

