-- ==== Sys2Proof/Machine/Notice.lean ====
section
/-! DEFINITION. The Notice Unit (R140 to R147). -/

namespace Sys2Proof.Machine

/-! ## The notice list (R141) -/

/-- The list holds a notice of this kind and subject. -/
def NoticeUnit.has (u : NoticeUnit) (n : RaisedNotice) : Bool :=
  u.list.any fun x => x.kind == n.kind && x.subject == n.subject

/-- A raise is answered: coalesced, discarded at a full list, or joined at the tail with the next sequence number
(R141). -/
def NoticeUnit.take (u : NoticeUnit) (n : RaisedNotice) : NoticeUnit :=
  if u.has n then u
  else if u.list.length < Config.noticeCapacity then
    { u with list := u.list ++ [⟨u.next, n.kind, n.subject, n.detail⟩], next := u.next + 1 }
  else { u with lost := stoppingSucc u.lost }

/-- The unit may take the raise `n` now. The IMAGE_RESULT of a start-up "joins the list that the cold start emptied, and
it takes sequence number 0" (R170), so while it waits to be taken no other raise is taken (log entry 28). -/
def State.mayTakeRaise (s : State) (n : RaisedNotice) : Bool :=
  n ∈ s.words.raised && (n.kind == .imageResult || s.words.raised.all (·.kind != .imageResult))

/-- The Notice Unit takes a raise (R141). The operand says which of those outstanding it is: two of one kind and subject may
be taken in either order, and the one taken first gives the notice its detail. For two MAP_FULL raises of one port, where R81
has the detail be the first address refused, that is DEDUCED from R141 (log entry 31). -/
def takeRaised (n : RaisedNotice) (s : State) : State :=
  if s.mayTakeRaise n then
    (s.modifyWords fun w => { w with raised := w.raised.erase n }).modifyNotices fun u => u.take n
  else s

/-- NOTICE_RAISE (R141). -/
def execNoticeRaise (n : RaisedNotice) (s : State) : Answer State := s.whenInService (takeRaised n)

/-! ## Sending the head (R142) -/

/-- The head of the list and the target, when there is a target other than the own address (R142). -/
def State.noticeDue (s : State) : Option (Notice × Byte) :=
  match s.notices.list, s.notices.target with
  | n :: _, some t => if t = s.management.ownAddress then none else some (n, t)
  | _, _ => none

/-- Slot wait ends "when the list becomes empty, when the target becomes none or becomes the own address" (R142). -/
def State.retestSlotWait (s : State) : State :=
  if s.noticeDue = none then s.modifyNotices fun u => { u with slotWait := false } else s

/-- The frame of a notice (R18). -/
def noticeFrame (target own lost : Byte) (n : Notice) : List Character :=
  frameCharacters target own (controlOf .report 0 0) [3, n.sequence, noticeCode n.kind, n.subject, n.detail, lost]

/-- The ports a notice is offered to: the map entry's port alone, else every port in service (R142). -/
def State.noticePorts (s : State) (target : Byte) : List Port :=
  match s.lookup target with
  | some e => [e.port]
  | none => allPorts.filter fun p => !(s.admin p).isDown

/-- A send ends: the in-flight record is removed, and the interval timer starts if the notice carried is still at the
head (R143): the head has its number, and it has not been acknowledged meanwhile. The number alone would not tell it from a
notice 256 numbers younger (R141). -/
def NoticeUnit.endSend (u : NoticeUnit) (sequence : Byte) (acknowledged : Bool) : NoticeUnit :=
  { u with
    inFlight := none
    timer :=
      if u.list.head?.map (·.sequence) = some sequence ∧ acknowledged = false then some (secondCycles u.interval)
      else none }

/-- The notice `n` is built in the claimed slot `i` and offered; with no copy admitted the send ends at once (R142). -/
def State.offerNotice (s : State) (i : SlotId) (n : Notice) (target : Byte) : State :=
  let frame := noticeFrame target s.management.ownAddress s.notices.lost n
  match (s.modifyNotices fun u => { u with slotWait := false }).sendGenerated i frame (s.noticePorts target) with
  | (sent, 0) => sent.modifyNotices fun u => u.endSend n.sequence false
  | (sent, copies + 1) => sent.modifyNotices fun u => { u with inFlight := some ⟨i, n.sequence, copies + 1, false⟩ }

/-- The Notice Unit begins a send if its conditions hold (R142); a refused claim makes slot wait yes. -/
def sendNotice (s : State) : State :=
  match s.noticeDue, s.notices.inFlight, s.notices.timer with
  | some (n, target), none, none =>
    match s.claimForGenerator with
    | some (i, claimed) => claimed.offerNotice i n target
    | none => s.modifyNotices fun u => { u with slotWait := true }
  | _, _, _ => s

/-- NOTICE_SEND (R142). -/
def execNoticeSend (s : State) : Answer State := s.whenInService sendNotice

/-- The Notice Unit takes a departure of a copy in flight (R143). -/
def takeNoticeCopy (s : State) : State :=
  match s.words.noticeCopies, s.notices.inFlight with
  | _ :: rest, some f =>
    (s.modifyWords fun w => { w with noticeCopies := rest }).modifyNotices fun u =>
      if f.copies ≤ 1 then u.endSend f.sequence f.acknowledged
      else { u with inFlight := some { f with copies := f.copies - 1 } }
  | _, _ => s

/-- NOTICE_COPY_DEPARTURE (R143). -/
def execNoticeCopyDeparture (s : State) : Answer State := s.whenInService takeNoticeCopy

/-- The interval timer expires and is stopped (R144). -/
def expireNoticeInterval (s : State) : State :=
  if s.notices.timer = some 0 then s.modifyNotices fun u => { u with timer := none } else s

/-- NOTICE_INTERVAL_EXPIRY (R144). -/
def execNoticeIntervalExpiry (s : State) : Answer State := s.whenInService expireNoticeInterval

/-! ## Acknowledgment and target (R145, R146) -/

/-- The in-flight record after an acknowledgment of the head with this number: of the notice carried, if it has its number
(R143, R145). -/
def InFlight.afterAck (f : InFlight) (sequence : Byte) : InFlight :=
  { f with acknowledged := f.acknowledged || f.sequence == sequence }

/-- An acknowledgment that names the head removes it and returns the lost count to 0; none when it is STALE. The copies of
a notice in flight are not withdrawn (R145). -/
def State.acknowledge (s : State) (sequence : Byte) : Option State :=
  match s.notices.list with
  | n :: rest =>
    if n.sequence = sequence then
      some (s.modifyNotices fun u => { u with
        inFlight := u.inFlight.map (·.afterAck sequence), list := rest, lost := 0, timer := none }).retestSlotWait
    else none
  | [] => none

/-- SET_NOTICE_TARGET sets target and interval together; the interval timer stops (R146). -/
def State.setNoticeTarget (s : State) (target : Option Byte) (interval : Nat) : State :=
  (s.modifyNotices fun u => { u with interval := interval, target := target, timer := none }).retestSlotWait

end Sys2Proof.Machine
end

