-- ==== Sys2Proof/Machine/Line.lean ====
section
/-! DEFINITION. The line events of a port: what the framer delivers and reports (R1 to R4), the Port Receiver (R38 to
R58), and the Port Transmitter (R59 to R76). -/

namespace Sys2Proof.Machine

/-! ## The framer and the judged line level (R2 to R4) -/

/-- An event of a framer, which "runs at all times while the relay is out of reset" (R1). -/
def State.whenFramersRun (s : State) (f : State → State) : Answer State :=
  .next (if s.phase = .inReset then s else f s)

/-- A sample at mark (`high`) or space level taken at sample clock `k` after the start edge has its place among a character's
samples if it is one of the three nearest a bit's centre (R2). -/
def CharacterSamples.take (x : CharacterSamples) (k : Nat) (high : Bool) : CharacterSamples :=
  let bit : BitVec 11 := if high then BitVec.twoPow 11 (k / Config.samplesPerBit) else 0
  if k % Config.samplesPerBit = Config.firstCentreSample then { x with first := x.first ||| bit }
  else if k % Config.samplesPerBit = Config.firstCentreSample + 1 then { x with second := x.second ||| bit }
  else if k % Config.samplesPerBit = Config.firstCentreSample + 2 then { x with third := x.third ||| bit }
  else x

/-- Whether the framer must see the line judged at mark before it accepts a start edge, when it has to from now on (`due`) or
had to already: not once the line is judged at mark, as it may be at this very sample (R3, R4). -/
def Framer.markAwaited (f : Framer) (due : Bool) : Bool :=
  (f.waitsForMark || due) && judgedLevel f.recent == .space

/-- The framer takes a sample (R2). It becomes the most recent one. While a character is assembled it is timed from the start
edge up to the centre of the stop bit; a start bit whose three samples have their majority at mark was a false start, and
the framer waits for the next start edge. A stop bit judged at space is a framing error: "it looks for a start edge only
after the line has been judged at mark level again" (R3). -/
def Framer.sample (f : Framer) (high : Bool) : Framer :=
  let f := { f with recent := ⟨f.recent.second, f.recent.third, high⟩ }
  let f := { f with waitsForMark := f.markAwaited (f.assembling && f.clock + 1 == Config.lastSampleOf 10) }
  if f.assembling ∧ f.clock < Config.lastSampleOf 10 then
    let taken := f.samples.take (f.clock + 1) high
    { f with
      clock := f.clock + 1, samples := taken
      assembling := !(f.clock + 1 == Config.lastSampleOf 0 && (sampledBits taken).getLsbD 0) }
  else f

/-- A start edge: a framer that waits begins a character, with no bit sampled (R2), unless the line has still to be judged at
mark (R3, R4). -/
def Framer.startEdge (f : Framer) : Framer :=
  if f.assembling ∨ f.waitsForMark then f else { f with assembling := true, clock := 0, samples := .blank }

/-- The character that the framer has in hand to deliver: all its bits are sampled, up to the stop bit (R3, log entry 5). -/
def Framer.complete (f : Framer) : Option Delivered :=
  if f.assembling ∧ Config.lastSampleOf 10 ≤ f.clock then judgedCharacter f.samples else none

/-- What a line command brings with it from outside: the levels that the receive input of port `p` will have at its sample
clocks to come, behind those already known (log entry 5). -/
def State.lineBrings (s : State) (p : Port) (coming : List Bool) : State :=
  { s with pins := { s.pins with rxd := s.pins.rxd.set p (s.pins.rxd.get p ++ coming) } }

/-- What a change of the judged level does at a port. To mark: stuck raised and the space interval end (R38, R55). To
space: a framer that waits takes it as a start edge (R2), which stops the gap interval; the mark interval (R49), the
quiet interval (R60) and the recovery timer (R130) restart. -/
def LinePort.levelChanged (x : LinePort) (l : LineLevel) : LinePort :=
  match l with
  | .mark =>
    { x with
      framer := { x.framer with level := .mark }
      receiver := { x.receiver with spaceInterval := 0, stuckRaised := false } }
  | .space =>
    { x with
      framer := { x.framer with level := .space }.startEdge
      receiver := { x.receiver with markInterval := 0 }
      transmitter := { x.transmitter with quietInterval := 0 }
      record := { x.record with recovery := x.record.recovery.map fun _ => 0 } }

/-- The judged level of port `p` is the majority of the three most recent samples (R2); where that differs from the level it
had, the level changes. -/
def judgeLevel (p : Port) (s : State) : State :=
  s.modifyPort p fun x =>
    if judgedLevel x.framer.recent = x.framer.level then x else x.levelChanged (judgedLevel x.framer.recent)

/-- JUDGED_LINE_LEVEL_CHANGE (R4). -/
def execJudgedLineLevelChange (p : Port) (coming : List Bool) (s : State) : Answer State :=
  (s.lineBrings p coming).whenFramersRun (judgeLevel p)

/-! ## The receiver: frames begun, taken and ended (R41 to R51) -/

/-- The receive context when no frame is in progress, in state `st`: no current slot, shedding no, mark interval at 0
(R49, R50, R51). Position 0, length absent, gap interval 0 and noise seen no outside a frame, and mark interval 0 outside
RESYNC, are a DESIGN CHOICE (log entry 23): R38 gives those fields no value there. -/
def Receiver.withoutFrame (r : Receiver) (st : ReceiverState) : Receiver :=
  { r with
    currentSlot := none, gap := 0, length := none, markInterval := 0, noiseSeen := false, position := 0,
    shedding := false, state := st }

/-- A frame is in progress in HEADER, BODY and CHECK (R38). -/
def ReceiverState.frameInProgress : ReceiverState → Bool
  | .header | .body | .check => true
  | .off | .hunt | .resync | .echo => false

/-- The receiver of port `p` gives up whatever it has in progress, its current slot included, and goes to `st` (R25). -/
def State.abandonFrame (s : State) (p : Port) (st : ReceiverState) : State :=
  let left := s.modifyReceiver p fun r => r.withoutFrame st
  match (s.port p).receiver.currentSlot with
  | some i => left.letGo i
  | none => left

/-- The receiver of port `p` aborts the frame in progress and goes to `st`. The abort is counted for a stored frame
only: "no abort counter rises for a shed frame" (R43). -/
def State.abortFrame (s : State) (p : Port) (st : ReceiverState) (counter : PortCounters → PortCounters) : State :=
  if (s.port p).receiver.currentSlot.isSome then (s.countPort p counter).abandonFrame p st else s.abandonFrame p st

/-- A stored frame begins in slot `i` with the mark character `c` (R42, R47). -/
def State.beginStored (s : State) (p : Port) (i : SlotId) (c : Delivered) : State :=
  (s.modifySlot i fun f => { f with chars := [c.character] }).modifyReceiver p fun r =>
    { r with
      checkRegister := checkTake 0xFFFF c.value, currentSlot := some i, gap := 0, length := none, noiseSeen := c.noise,
      position := 1, shedding := false, state := .header }

/-- A shed frame begins (R43): check register, length and noise seen take the values of a frame that begins (R38). It
"computes no check" (R43), so no character of it runs through the register. -/
def State.beginShed (s : State) (p : Port) : State :=
  (s.countPort p fun k => { k with shed := stoppingSucc k.shed }).modifyReceiver p fun r =>
    { r with
      checkRegister := 0xFFFF, currentSlot := none, gap := 0, length := none, noiseSeen := false, position := 1,
      shedding := true, state := .header }

/-- A mark character makes the receiver claim a slot: the frame is stored when the claim is granted and shed when it is
refused (R42, R43). -/
def State.beginFrame (s : State) (p : Port) (c : Delivered) : State :=
  match s.claimForReceiver with
  | some (i, s1) => s1.beginStored p i c
  | none => s.beginShed p

/-- A character in HUNT (R41). -/
def State.huntCharacter (s : State) (p : Port) (c : Delivered) : State :=
  if c.framingError || !c.mark then s.countPort p fun k => { k with stray := stoppingSucc k.stray }
  else s.beginFrame p c

/-- A stored frame has ended in slot `i` with a good check: it joins the tail of the Relay Unit's input list with its
ingress port (R51). -/
def State.completeFrame (s : State) (p : Port) (i : SlotId) : State :=
  let counted := s.countPort p fun k =>
    { k with
      goodFrames := stoppingSucc k.goodFrames
      noisyAccepted := if (s.port p).receiver.noiseSeen then stoppingSucc k.noisyAccepted else k.noisyAccepted }
  let handed := (counted.modifySlot i fun f => { f with state := .inUse }).modifyReceiver p fun r => r.withoutFrame .hunt
  { handed with relay := { handed.relay with input := handed.relay.input ++ [⟨i, p⟩] } }

/-- The second check character has been taken: a stored frame is judged (R50), a shed one ends without a judgement
(R43). -/
def State.endFrame (s : State) (p : Port) : State :=
  match (s.port p).receiver.currentSlot with
  | some i =>
    if (s.slot i).carriedCheck = (s.port p).receiver.checkRegister then s.completeFrame p i
    else (s.countPort p fun k => { k with checkErrors := stoppingSucc k.checkErrors }).abandonFrame p .hunt
  | none => s.abandonFrame p .hunt

/-- A character is taken at the current position: a stored frame's is written with its mark bit, the check register
takes it up to position 3 + L, the position advances and the gap interval restarts (R44). -/
def State.storeCharacter (s : State) (p : Port) (c : Delivered) : State :=
  let written := match (s.port p).receiver.currentSlot with
    | some i => s.modifySlot i fun f => { f with chars := f.chars ++ [c.character] }
    | none => s
  written.modifyReceiver p fun r =>
    { r with
      checkRegister :=
        if r.currentSlot.isSome && r.state != .check then checkTake r.checkRegister c.value else r.checkRegister
      gap := 0
      noiseSeen := r.noiseSeen || (r.currentSlot.isSome && c.noise)
      position := r.position + 1 }

/-- The state moves with the position: what follows a character taken at position `at_` in HEADER, BODY or CHECK (R44,
R45, R50). -/
def State.afterCharacter (s : State) (p : Port) (at_ : Nat) (c : Delivered) : State :=
  let r := (s.port p).receiver
  let bodyEnd := 3 + r.length.getD 0
  match r.state with
  | .header =>
    if at_ < 3 then s
    else if Config.maxPayload < c.value.toNat then
      s.abortFrame p .resync fun k => { k with abortLength := stoppingSucc k.abortLength }
    else
      s.modifyReceiver p fun r =>
        { r with length := some c.value.toNat, state := if c.value.toNat = 0 then .check else .body }
  | .body => if at_ < bodyEnd then s else s.modifyReceiver p fun r => { r with state := .check }
  | .check => if at_ < bodyEnd + 2 then s else s.endFrame p
  | .off | .hunt | .resync | .echo => s

/-- The gap interval of port `p` has reached 2 character times (R46). -/
def State.gapReached (s : State) (p : Port) : Prop := 2 * s.charTime p ≤ (s.port p).receiver.gap
  deriving Decidable

/-- The frame in progress at port `p` is aborted by gap (R46). -/
def State.abortAtGap (s : State) (p : Port) : State :=
  s.abortFrame p .hunt fun k => { k with abortGap := stoppingSucc k.abortGap }

/-- A character in HEADER, BODY or CHECK is "taken only after the tests of R46 to R48 have passed it" (R44): a gap that
has reached its limit aborts the frame, and the character is then one in HUNT (R46, log entry 27); the framing test comes
next (R48), then the mark test (R47), then it is taken. -/
def State.frameCharacter (s : State) (p : Port) (c : Delivered) : State :=
  if s.gapReached p then (s.abortAtGap p).huntCharacter p c
  else if c.framingError then s.abortFrame p .resync fun k => { k with abortFraming := stoppingSucc k.abortFraming }
  else if c.mark then
    match (s.port p).receiver.currentSlot with
    | some i => (s.countPort p fun k => { k with abortMark := stoppingSucc k.abortMark }).beginStored p i c
    | none => s.beginFrame p c
  else (s.storeCharacter p c).afterCharacter p (s.port p).receiver.position c

/-! ## The transmitter: collision and completion (R64 to R67) -/

/-- The head entry with its third collision still to come has its count raised; at a count of 2 this collision is the
third (R67). -/
def Transmitter.collided (t : Transmitter) : Transmitter :=
  let jamming := { t with
    charTime := 0, driverEnable := true, echoList := [], jamTime := 0, nextPosition := 0, state := .jam }
  match t.queue with
  | e :: rest =>
    if e.collisions < 2 then { jamming with queue := { e with collisions := e.collisions + 1 } :: rest }
    else { jamming with discardAtJamEnd := true }
  | [] => jamming

/-- A collision (R67): the collisions counter rises, the transmitter drives space and goes to JAM. -/
def State.collide (s : State) (p : Port) : State :=
  (s.countPort p fun k => { k with collisions := stoppingSucc k.collisions }).modifyTransmitter p Transmitter.collided

/-- The transmitter's state when it ends a frame or a backoff: WAIT_GAP "if the port is ENABLED and the queue still
holds an entry", else IDLE (R65, R70). -/
def restingState (a : AdminState) (queue : List QueueEntry) : TransmitterState :=
  if a = .enabled ∧ queue ≠ [] then .waitGap else .idle

/-- The head frame `e` is completed (R65): frames sent rises, the entry leaves as COMPLETED, the receiver goes from ECHO
to HUNT. The driver enable is off in every state the transmitter can go to (Table 4-1, log entry 9). -/
def State.completeSending (s : State) (p : Port) (e : QueueEntry) (rest : List QueueEntry) : State :=
  ((s.countPort p fun k => { k with framesSent := stoppingSucc k.framesSent }).modifyPort p fun x =>
    { x with
      receiver := x.receiver.withoutFrame .hunt
      transmitter := { x.transmitter with
        charTime := 0, driverEnable := false, echoList := [], nextPosition := 0, queue := rest,
        state := restingState x.record.admin rest } }).depart p .completed e

/-- A good echo removes the oldest character from the echo list; if it was the last of the frame, the frame is completed
(R64). -/
def State.goodEcho (s : State) (p : Port) (unjudged : List SentCharacter) : State :=
  let t := (s.port p).transmitter
  match t.queue with
  | e :: rest =>
    if unjudged = [] ∧ (s.slot e.slot).length ≤ t.nextPosition then s.completeSending p e rest
    else s.modifyTransmitter p fun t => { t with echoList := unjudged }
  | [] => s.modifyTransmitter p fun t => { t with echoList := unjudged }

/-- "The echo is good when" its value and mark bit equal those sent and its framing-error mark is clear (R64). -/
def echoIsGood (sent : Character) (c : Delivered) : Bool := c.character == sent && !c.framingError

/-- A character of the echo list is missing: its echo deadline has passed before its echo was delivered (R64). -/
def Transmitter.echoMissing (t : Transmitter) : Bool := t.echoList.any fun e => e.deadline == some 0

/-- An echo in ECHO (R52): judged in SENDING against the oldest character in the echo list (R64), unless an echo deadline has
passed: "The first of these to arise is the one taken" (R64), and the collision is that of the missing echo (log entry 27).
The echoes of the jam are not judged (R68). -/
def State.echoCharacter (s : State) (p : Port) (c : Delivered) : State :=
  let t := (s.port p).transmitter
  if t.state = .sending then
    if t.echoMissing then s.collide p
    else match t.echoList with
    | e :: unjudged => if echoIsGood e.char c then s.goodEcho p unjudged else s.collide p
    | [] => s.collide p
  else s

/-! ## Characters delivered (R3) -/

/-- What the Port Receiver does with a character, by its state (Table 3-1, Table 3-2). -/
def State.receive (s : State) (p : Port) (c : Delivered) : State :=
  match (s.port p).receiver.state with
  | .off | .resync => s
  | .hunt => s.huntCharacter p c
  | .header | .body | .check => s.frameCharacter p c
  | .echo => s.echoCharacter p c

/-- The framer delivers the character it has completed at the centre of its stop bit, and looks for the next start edge, after
a framing error once the line has been judged at mark (R3). -/
def deliverCharacter (p : Port) (s : State) : State :=
  match (s.port p).framer.complete with
  | some c => (s.modifyFramer p fun f => { f with assembling := false }).receive p c
  | none => s

/-- CHARACTER_DELIVERED (R3). -/
def execCharacterDelivered (p : Port) (coming : List Bool) (s : State) : Answer State :=
  (s.lineBrings p coming).whenFramersRun (deliverCharacter p)

/-! ## Timed events of the receiver (R46, R49, R55) -/

/-- The gap interval of a frame in progress has reached 2 character times (R46). -/
def abortByGap (p : Port) (s : State) : State :=
  if (s.port p).receiver.state.frameInProgress ∧ s.gapReached p then s.abortAtGap p else s

/-- ABORT_GAP (R46). -/
def execAbortGap (p : Port) (s : State) : Answer State := s.whenInService (abortByGap p)

/-- The line has rested at mark for 1 character time in RESYNC (R49). -/
def leaveResync (p : Port) (s : State) : State :=
  let r := (s.port p).receiver
  if r.state = .resync ∧ s.charTime p ≤ r.markInterval then s.modifyReceiver p fun r => r.withoutFrame .hunt else s

/-- END_OF_RESYNC (R49). -/
def execEndOfResync (p : Port) (s : State) : Answer State := s.whenInService (leaveResync p)

/-- The space interval has reached 64 character times while stuck raised is no: a stuck-line event is raised to Port
Control, stuck events rises, stuck raised becomes yes; the receiver's state stays (R55). -/
def raiseStuck (p : Port) (s : State) : State :=
  let r := (s.port p).receiver
  if r.state ≠ .off ∧ 64 * s.charTime p ≤ r.spaceInterval ∧ r.stuckRaised = false then
    ((s.countPort p fun k => { k with stuckEvents := stoppingSucc k.stuckEvents }).modifyReceiver p fun r =>
      { r with stuckRaised := true }).modifyWords fun w => { w with stuckLine := w.stuckLine ++ [p] }
  else s

/-- LINE_STUCK (R55). -/
def execLineStuck (p : Port) (s : State) : Answer State := s.whenInService (raiseStuck p)

/-! ## Gaining the line and sending (R62, R63) -/

/-- The transmitter starts the next character of the frame `f`: it joins the tail of the echo list and the next position
advances; with none left the driver enable turns off (R63). -/
def Transmitter.sendNext (t : Transmitter) (f : Slot) : Transmitter :=
  match f.chars[t.nextPosition]? with
  | some c =>
    { t with charTime := 0, driverEnable := true, echoList := t.echoList ++ [⟨c, none⟩], nextPosition := t.nextPosition + 1 }
  | none => { t with charTime := 0, driverEnable := false }

/-- The conditions of R62: WAIT_GAP, the port ENABLED, a head, the receiver in HUNT, a quiet interval of 3 character
times. -/
def State.maySend (s : State) (p : Port) : Bool :=
  let x := s.port p
  x.transmitter.state == .waitGap && x.record.admin == .enabled && x.transmitter.queue != [] &&
    x.receiver.state == .hunt && decide (3 * s.charTime p ≤ x.transmitter.quietInterval)

/-- The transmitter begins SENDING the head frame and the receiver goes from HUNT to ECHO (R52, R63). -/
def startSending (p : Port) (s : State) : State :=
  if s.maySend p then
    match (s.port p).transmitter.queue with
    | e :: _ =>
      s.modifyPort p fun x =>
        { x with
          receiver := x.receiver.withoutFrame .echo
          transmitter :=
            ({ x.transmitter with echoList := [], nextPosition := 0, state := .sending }).sendNext (s.slot e.slot) }
    | [] => s
  else s

/-- BEGIN_SENDING (R63). -/
def execBeginSending (p : Port) (s : State) : Answer State := s.whenInService (startSending p)

/-- The character just sent has its echo deadline set, at 1 character time after the end of its stop bit, if its echo
has not been judged yet: it is then the last of the echo list, with no deadline (R63). -/
def setLastDeadline (d : Nat) (l : List SentCharacter) : List SentCharacter :=
  l.map fun e => if e.deadline = none then { e with deadline := some d } else e

/-- The stop bit of the character being sent has ended: the next one follows, unless an echo deadline has passed. The
transmitter goes on "until all characters of the frame have been sent or a collision stops it" (R63), and the missing echo
is one (R64): it is taken here when MISSING_ECHO has not been (log entry 27). So the echo list "holds at most two
characters" (R59). -/
def finishCharacter (p : Port) (s : State) : State :=
  let t := (s.port p).transmitter
  if t.state = .sending ∧ t.driverEnable = true ∧ s.charTime p ≤ t.charTime then
    if t.echoMissing then s.collide p
    else match t.queue with
    | e :: _ =>
      s.modifyTransmitter p fun t =>
        ({ t with echoList := setLastDeadline (s.charTime p) t.echoList }).sendNext (s.slot e.slot)
    | [] => s
  else s

/-- CHARACTER_SENT (R63). -/
def execCharacterSent (p : Port) (s : State) : Answer State := s.whenInService (finishCharacter p)

/-- An echo deadline has passed with no echo delivered: a collision (R64). -/
def missEcho (p : Port) (s : State) : State :=
  let t := (s.port p).transmitter
  if t.state = .sending ∧ t.echoMissing then s.collide p else s

/-- MISSING_ECHO (R64). -/
def execMissingEcho (p : Port) (s : State) : Answer State := s.whenInService (missEcho p)

/-! ## Jam and backoff (R68 to R70) -/

/-- The backoff register advanced once (R69): the exclusive-or of bits 15, 13, 12 and 10 becomes the new bit 0. -/
def backoffAdvance (r : Word) : Word :=
  let noted := Bool.xor (Bool.xor (r.getLsbD 15) (r.getLsbD 13)) (Bool.xor (r.getLsbD 12) (r.getLsbD 10))
  (r <<< 1) ||| (if noted then 1 else 0)

/-- The interval of an advanced register: its low three bits plus 1 (R69). -/
def backoffInterval (r : Word) : Nat := (r.extractLsb' 0 3).toNat + 1

/-- The transmitter after a jam: BACKOFF with a drawn interval if the port is ENABLED (R70), IDLE with none drawn if it
is not (R71). -/
def Transmitter.afterJam (t : Transmitter) (a : AdminState) : Transmitter :=
  if a = .enabled then
    { t with
      backoff := some ⟨backoffInterval (backoffAdvance t.backoffRegister), 0⟩
      backoffRegister := backoffAdvance t.backoffRegister
      state := .backoff }
  else { t with state := .idle }

/-- A head that leaves transmission without leaving the queue takes its place in its band again (R31). -/
def replacedHead : List QueueEntry → List QueueEntry
  | [] => []
  | e :: rest => if e.band = .ordinary then behindPriority e rest else e :: rest

/-- The port after 2 character times of jam with `queue` left: DE off, the receiver in RESYNC (R53, R68). -/
def LinePort.jamEnded (x : LinePort) (queue : List QueueEntry) : LinePort :=
  { x with
    receiver := x.receiver.withoutFrame .resync
    transmitter :=
      ({ x.transmitter with discardAtJamEnd := false, driverEnable := false, jamTime := 0, queue := queue }).afterJam
        x.record.admin }

/-- The jam has lasted 2 character times (R68): below the third collision the entry is kept, at the third it leaves as
DISCARDED. -/
def endJam (p : Port) (s : State) : State :=
  let t := (s.port p).transmitter
  if t.state = .jam ∧ 2 * s.charTime p ≤ t.jamTime then
    match t.discardAtJamEnd, t.queue with
    | true, e :: rest =>
      ((s.countPort p fun k => { k with discards := stoppingSucc k.discards }).modifyPort p fun x =>
        x.jamEnded rest).depart p .discarded e
    | _, queue => s.modifyPort p fun x => x.jamEnded (replacedHead queue)
  else s

/-- JAM_END (R68). -/
def execJamEnd (p : Port) (s : State) : Answer State := s.whenInService (endJam p)

/-- The time waited has reached the backoff interval (R70). -/
def endBackoff (p : Port) (s : State) : State :=
  match (s.port p).transmitter.state, (s.port p).transmitter.backoff with
  | .backoff, some b =>
    if b.interval * s.charTime p ≤ b.waited then
      s.modifyPort p fun x =>
        { x with
          transmitter := { x.transmitter with
            backoff := none, quietInterval := 0, state := restingState x.record.admin x.transmitter.queue } }
    else s
  | _, _ => s

/-- BACKOFF_END (R70). -/
def execBackoffEnd (p : Port) (s : State) : Answer State := s.whenInService (endBackoff p)

/-! ## The transmit output (R172) -/

/-- The level of TXD of port `p`: space in a jam, the bit of the character being sent while one is sent, mark otherwise
(R68, R1, R172). -/
def State.txd (s : State) (p : Port) : LineLevel :=
  let t := (s.port p).transmitter
  match t.state, t.queue with
  | .jam, _ => .space
  | .sending, e :: _ =>
    if t.driverEnable then
      let c := (s.slot e.slot).chars.getD (t.nextPosition - 1) ⟨0, false⟩
      if c.lineBits.getLsbD (min 10 (t.charTime / bitCycles (s.rate p))) then .mark else .space
    else .mark
  | _, _ => .mark

end Sys2Proof.Machine
end

