-- ==== Sys2Proof/Machine/PortControl.lean ====
section
/-! DEFINITION. Port Control (R126 to R139): going down and coming up, isolation and recovery, options, and bit rates. -/

namespace Sys2Proof.Machine

/-! ## Going down and coming up (R128, R129) -/

/-- The receiver leaves OFF for RESYNC: mark and space intervals at 0, stuck raised no (R40). -/
def Receiver.started (r : Receiver) : Receiver :=
  { r.withoutFrame .resync with spaceInterval := 0, stuckRaised := false }

/-- The transmitter leaves OFF for IDLE with its quiet interval at 0 (R72). -/
def Transmitter.started (t : Transmitter) : Transmitter := { t with quietInterval := 0, state := .idle }

/-- Both halves of a port leave OFF (R129). -/
def LinePort.started (x : LinePort) : LinePort :=
  { x with receiver := x.receiver.started, transmitter := x.transmitter.started }

/-- The transmitter stops driving at once, its echo list empty and its backoff abandoned, and goes to OFF (R73).
The quiet interval, kept only outside OFF (R60), holds 0 there, a DESIGN CHOICE (log entry 24). -/
def Transmitter.stopped (t : Transmitter) : Transmitter :=
  { t with
    backoff := none, charTime := 0, discardAtJamEnd := false, driverEnable := false, echoList := [], jamTime := 0,
    nextPosition := 0, quietInterval := 0, state := .off }

/-- The receiver in OFF: no frame, and the space interval no longer kept (R39); that it holds 0 there is a DESIGN CHOICE
(log entry 23). -/
def Receiver.stopped (r : Receiver) : Receiver := { r.withoutFrame .off with spaceInterval := 0 }

/-- The receiver of port `p` gives up its current slot and goes to OFF (R39). -/
def State.stopReceiver (s : State) (p : Port) : State :=
  (s.abandonFrame p .off).modifyReceiver p Receiver.stopped

/-- Port `p` goes down to `a` (R128): the administrative state first, then transmitter, receiver, queue, the Station
Map's LEARNED entries on the port (R91), and the word to the Exchange Tracker. -/
def State.goDown (s : State) (p : Port) (a : AdminState) : State :=
  let stopped := s.modifyPort p fun x =>
    { x with record := { x.record with admin := a }, transmitter := x.transmitter.stopped }
  (((stopped.stopReceiver p).flushQueue p).removeStations fun e => e.isLearned && e.port == p).modifyWords fun w =>
    { w with portDown := w.portDown ++ [p] }

/-- Port `p` comes up to `a` (R129). -/
def State.comeUp (s : State) (p : Port) (a : AdminState) : State :=
  s.modifyPort p fun x => { x.started with record := { x.record with admin := a, recovery := none } }

/-! ## Administrative state by command (R127, Table 8-3) -/

/-- The transmitter of a port that goes from ENABLED to HELD (R71). In WAIT_GAP "The quiet interval is kept" (R71); it
"restarts at 0 ... when the transmitter leaves BACKOFF" (R60). -/
def Transmitter.held (t : Transmitter) : Transmitter :=
  match t.state with
  | .waitGap => { t with state := .idle }
  | .backoff => { t with backoff := none, quietInterval := 0, state := .idle }
  | .off | .idle | .sending | .jam => t

/-- The transitions of Table 8-3 by SET_PORT_STATE. ISOLATED cannot be named (R127). -/
def State.setPortState (s : State) (p : Port) (a : AdminState) : State :=
  match s.admin p, a with
  | .enabled, .held =>
    s.modifyPort p fun x => { x with record := { x.record with admin := .held }, transmitter := x.transmitter.held }
  | .held, .enabled =>
    s.modifyPort p fun x =>
      { x with
        record := { x.record with admin := .enabled }, transmitter := wakeTransmitter .enabled x.transmitter }
  | .enabled, .disabled | .held, .disabled => s.goDown p .disabled
  | .disabled, .enabled | .isolated, .enabled => s.comeUp p .enabled
  | .disabled, .held | .isolated, .held => s.comeUp p .held
  | .isolated, .disabled => s.modifyRecord p fun r => { r with admin := .disabled, recovery := none }
  | .enabled, .enabled | .held, .held | .disabled, .disabled | _, .isolated => s

/-! ## Isolation and recovery (R130 to R132) -/

/-- Port `p` goes down to ISOLATED: PORT_ISOLATED carries the state it left, and the recovery timer starts at 0 if
auto-recover is on (R131). -/
def State.isolate (s : State) (p : Port) : State :=
  ((s.goDown p .isolated).modifyRecord p fun r => { r with recovery := if r.autoRecover then some 0 else none }).raise
    .portIsolated (portCharacter p) (s.admin p).code

/-- Port Control takes a stuck-line event (R131). -/
def takeStuckLine (p : Port) (s : State) : State :=
  if p ∈ s.words.stuckLine then
    let taken := s.modifyWords fun w => { w with stuckLine := w.stuckLine.erase p }
    if (s.admin p).isDown then taken else taken.isolate p
  else s

/-- STUCK_LINE_EVENT (R131). -/
def execStuckLineEvent (p : Port) (s : State) : Answer State := s.whenInService (takeStuckLine p)

/-- The recovery timer of an ISOLATED port has reached 1000 ms (R132). -/
def recoverPort (p : Port) (s : State) : State :=
  match s.admin p, (s.port p).record.recovery with
  | .isolated, some t =>
    if msCycles 1000 ≤ t then
      (s.comeUp p .enabled).raise .portRestored (portCharacter p) (byteOf (s.rate p).val)
    else s
  | _, _ => s

/-- RECOVERY_EXPIRY (R132). -/
def execRecoveryExpiry (p : Port) (s : State) : Answer State := s.whenInService (recoverPort p)

/-- The recovery watch of a port when its auto-recover option becomes `on`: off removes it, on starts it at 0, and a
watch that runs goes on (R130). -/
def PortRecord.recoveryWith (r : PortRecord) (on : Bool) : Option Nat :=
  if r.admin = .isolated then
    if on then some (r.recovery.getD 0) else none
  else r.recovery

/-- SET_PORT_OPTIONS sets the three options together (R133, R15). -/
def State.setPortOptions (s : State) (p : Port) (learn floodUnknown autoRecover : Bool) : State :=
  s.modifyRecord p fun r =>
    { r with
      autoRecover := autoRecover, floodUnknown := floodUnknown, learn := learn, recovery := r.recoveryWith autoRecover }

/-! ## Bit rates (R134 to R138) -/

/-- What the receiver of port `p` answers to a rate application (R54). -/
def State.rateAtReceiver (s : State) (p : Port) : State :=
  match (s.port p).receiver.state with
  | .off => s
  | .echo => s.modifyReceiver p fun r => { r with spaceInterval := 0 }
  | .hunt | .resync => s.modifyReceiver p fun r => { r.withoutFrame .resync with spaceInterval := 0 }
  | .header | .body | .check =>
    (s.abortFrame p .resync fun k => { k with abortRate := stoppingSucc k.abortRate }).modifyReceiver p fun r =>
      { r with spaceInterval := 0 }

/-- What the transmitter of port `p` answers to a rate application (R74). -/
def State.rateAtTransmitter (s : State) (p : Port) : State :=
  match (s.port p).transmitter.state with
  | .off => s
  | .idle | .waitGap => s.modifyTransmitter p fun t => { t with quietInterval := 0 }
  | .sending => (s.collide p).modifyTransmitter p fun t => { t with quietInterval := 0 }
  | .jam => s.modifyTransmitter p fun t => { t with jamTime := 0, quietInterval := 0 }
  | .backoff =>
    s.modifyTransmitter p fun t =>
      { t with backoff := t.backoff.map fun b => { b with waited := 0 }, quietInterval := 0 }

/-- The framer at a rate application: it abandons the character it is assembling and "then waits for the line to be judged at
mark level before it accepts a start edge" (R4). -/
def Framer.atRate (f : Framer) : Framer := { f with assembling := false, waitsForMark := f.markAwaited true }

/-- A rate application (R134): current rate, sample clock, framer, receiver and transmitter. The sample clock moves to
sixteen times the new rate (R134, R171); that its divider starts anew at 0 is a DESIGN CHOICE (log entry 25). -/
def State.applyRate (s : State) (p : Port) (c : RateCode) : State :=
  let clocked := s.modifyPort p fun x =>
    { x with framer := x.framer.atRate, record := { x.record with currentRate := c } }
  (({ clocked with timeBase := { s.timeBase with samplePhase := s.timeBase.samplePhase.set p 0 } }).rateAtReceiver
    p).rateAtTransmitter p

/-- The rate `c` is applied to port `p` and its window of `seconds` starts (R135, R136). -/
def State.openWindow (s : State) (p : Port) (c : RateCode) (seconds : Nat) : State :=
  (s.applyRate p c).modifyRecord p fun r => { r with ratePhase := .window seconds (secondCycles seconds) }

/-- Port Control takes the word of a SET_RATE reply's departure: AWAITING_REPLY becomes WINDOW; on a port that no longer
waits it changes nothing (R136). -/
def takeRateReply (p : Port) (s : State) : State :=
  if p ∈ s.words.rateReplies then
    let taken := s.modifyWords fun w => { w with rateReplies := w.rateReplies.erase p }
    match (s.port p).record.ratePhase with
    | .awaitingReply c seconds => taken.openWindow p c seconds
    | .steady | .window _ _ => taken
  else s

/-- RATE_REPLY_DEPARTED (R136). -/
def execRateReplyDeparted (p : Port) (s : State) : Answer State := s.whenInService (takeRateReply p)

/-- The window timer of port `p` has expired (R138): the confirmed rate is applied and RATE_REVERTED carries the
abandoned one. -/
def expireWindow (p : Port) (s : State) : State :=
  match (s.port p).record.ratePhase with
  | .window _ 0 =>
    ((s.applyRate p (s.port p).record.confirmedRate).modifyRecord p fun r => { r with ratePhase := .steady }).raise
      .rateReverted (portCharacter p) (byteOf (s.rate p).val)
  | .window _ (_ + 1) | .steady | .awaitingReply _ _ => s

/-- WINDOW_EXPIRY (R138). -/
def execWindowExpiry (p : Port) (s : State) : Answer State := s.whenInService (expireWindow p)

/-- The window remaining in whole seconds, rounded up (R126). -/
def PortRecord.windowRemaining (r : PortRecord) : Nat :=
  match r.ratePhase with
  | .steady => 0
  | .awaitingReply _ seconds => seconds
  | .window _ timer => secondsRoundedUp timer

end Sys2Proof.Machine
end

