-- ==== Sys2Proof/Machine/Restart.lean ====
section
/-! DEFINITION. Restarts (R162 to R165): power-on, the pin, the COLD and the FLUSH restart, and the return to service. -/

namespace Sys2Proof.Machine

/-! ## Cold-start values (R162, R163) -/

/-- Every block takes its cold-start values and the relay waits for its reset source to be released; the reset cause
record is the one thing kept, and it gathers the cause (R162, R163). The RESET input stands at the level given, and what
the outside gives the receive inputs goes on. -/
def State.coldStarted (s : State) (causes : ResetCauses) (resetHigh : Bool) : State :=
  { State.reset with
    management := { State.reset.management with causes := causes }
    pins := { State.reset.pins with resetHigh := resetHigh, rxd := s.pins.rxd }
    pending := s.pending }

/-- Power-on sets POWER and clears PIN, COLD and FLUSH (R163). -/
def powerOn (s : State) : State := s.coldStarted { power := true, pin := false, cold := false, flush := false } s.pins.resetHigh

/-- POWER_ON (R162). -/
def execPowerOn (s : State) : Answer State := .next (powerOn s)

/-- A fall of RESET takes effect at once and sets PIN (R162, R163). That the row is a fall of RESET also where State holds
RESET low already, and sets PIN there too, is a DESIGN CHOICE (log entry 32). -/
def pinReset (s : State) : State := s.coldStarted { s.management.causes with pin := true } false

/-- PIN_RESET (R162). -/
def execPinReset (s : State) : Answer State := .next (pinReset s)

/-- A COLD restart "acts as a pin reset that is released at once, except that it sets the COLD flag" (R162). The cold
start proper is the COLD_START that follows (log entry 13). -/
def coldRestart (s : State) : State := s.coldStarted { s.management.causes with cold := true } true

/-! ## Entering service (R164, R165, R129) -/

/-- A port leaves OFF when its record says ENABLED or HELD (R164). -/
def LinePort.enterService (x : LinePort) : LinePort := if x.record.admin.isDown then x else x.started

/-- Every port that is ENABLED or HELD comes up, and the aging timer starts for a full period (R164, R165). -/
def State.enterService (s : State) : State :=
  { (s.modifyPorts LinePort.enterService).startAging with phase := .inService }

/-! ## The flush restart (R165) -/

/-- The port record after a flush (R139): a provisional change ends at the confirmed rate, ISOLATED becomes ENABLED and
its recovery timer stops. -/
def PortRecord.flushed (r : PortRecord) : PortRecord :=
  { r with
    admin := if r.admin = .isolated then .enabled else r.admin
    currentRate := if r.ratePhase = .steady then r.currentRate else r.confirmedRate
    ratePhase := .steady
    recovery := none }

/-- The flush applies the confirmed rate: a change runs whose current rate differs (R139). -/
def PortRecord.flushApplies (r : PortRecord) : Bool :=
  r.ratePhase != .steady && r.currentRate != r.confirmedRate

/-- A line port at a flush: receiver and transmitter OFF with no jam, the queue empty, the backoff register seeded, the
counters kept (R39, R75, R139). -/
def LinePort.flushed (seed : Word) (x : LinePort) : LinePort :=
  { x with
    framer := if x.record.flushApplies then x.framer.atRate else x.framer
    receiver := x.receiver.stopped
    transmitter := { x.transmitter.stopped with backoffRegister := seed, queue := [] }
    record := x.record.flushed }

/-- The sample clock divider of a port at a flush: it starts anew where the flush applies a rate (R139), a DESIGN CHOICE as
at every rate application (log entry 25), and runs on elsewhere. -/
def flushedPhase (x : LinePort) (phase : Nat) : Nat := if x.record.flushApplies then 0 else phase

/-- The Notice Unit at a flush (R147). -/
def NoticeUnit.flushed (u : NoticeUnit) : NoticeUnit :=
  { u with inFlight := none, timer := none, lost := 0, list := [], slotWait := false }

/-- A flush restart begins (R165). It ends at the next 1 ms tick. -/
def beginFlush (s : State) : State :=
  { s with
    phase := .flushing false
    timeBase := { s.timeBase with samplePhase := Four.zipWith flushedPhase s.ports s.timeBase.samplePhase }
    slots := Vector.replicate 48 Slot.empty
    ports := Four.zipWith LinePort.flushed backoffSeeds s.ports
    relay := { s.relay with input := [] }
    map := { s.map with entries := s.map.entries.filter fun e => !e.isLearned, timer := none }
    exchanges := []
    reports := []
    management :=
      { s.management with
        queue := [], causes := { s.management.causes with flush := true }, watch := [], pendingRestart := none }
    notices := s.notices.flushed
    words := .none }

/-- The flush ends at the tick that has come (R165). -/
def endFlush (s : State) : State := if s.phase = .flushing true then s.enterService else s

/-- FLUSH_END (R165). -/
def execFlushEnd (s : State) : Answer State := .next (endFlush s)

/-! ## A pending restart takes effect (R161) -/

/-- "Whichever of these is taken first, the pending restart is removed and the restart takes effect"; with nothing
pending nothing changes (R161). -/
def State.takeRestart (s : State) : State :=
  match s.management.pendingRestart with
  | some r =>
    match r.kind with
    | .flush => beginFlush s
    | .cold => coldRestart s
  | none => s

/-- The 500 ms timer of the pending restart has expired (R161). -/
def expireRestart (s : State) : State :=
  match s.management.pendingRestart with
  | some r => if r.timer = 0 then s.takeRestart else s
  | none => s

/-- RESTART_TIMER_EXPIRY (R161). -/
def execRestartTimerExpiry (s : State) : Answer State := s.whenInService expireRestart

end Sys2Proof.Machine
end

