-- ==== Sys2Proof/Machine/Management.lean ====
section
/-! DEFINITION. The Management Unit: what every request has in common (R148 to R151): the reply slot, the checks, the
reply, and the effects that wait on it. The commands themselves are in Commands.lean. -/

namespace Sys2Proof.Machine

/-! ## Results -/

/-- An effect that waits on the reply's admission or departure (R149, R151, R159). -/
inductive Waiting where
  | nothing
  | rate (port : Port)
  | restart
  | address (a : Byte)
  deriving DecidableEq, Repr

/-- What a command has come to: the state with its effect, the result, the result data, and what waits on the reply. -/
structure Executed where
  state : State
  result : Result
  data : List Byte
  waits : Waiting
  deriving DecidableEq, Repr

/-- A command that fails takes no effect and its reply carries no result data (R150). -/
def State.fails (s : State) (r : Result) : Executed := ⟨s, r, [], .nothing⟩

/-- OK with result data. -/
def State.answers (s : State) (data : List Byte) : Executed := ⟨s, .ok, data, .nothing⟩

/-- OK with no result data. -/
def State.done (s : State) : Executed := s.answers []

/-- A command: from the ingress port, the argument characters behind the code, and the state, its outcome. -/
abbrev Command := Port → List Byte → State → Executed

/-! ## The manager check and the reply (R150, R151) -/

/-- The manager check (R150): an empty set accepts every source. -/
def State.accepts (s : State) (source : Byte) : Bool := s.management.managers == [] || s.management.managers.contains source

/-- The payload of a reply (R16): the code, the result, and the result data with OK. -/
def replyPayload (code : Byte) (r : Result) (data : List Byte) : List Byte :=
  code :: r.code :: (if r = .ok then data else [])

/-- The reply to `request` is built in slot `i` and offered to the queue of the ingress port alone (R151), with whether
it was admitted. -/
def State.sendReply (s : State) (i : SlotId) (request : Slot) (ingress : Port) (payload : List Byte) : State × Bool :=
  let frame := frameCharacters request.source s.management.ownAddress (controlOf .reply 0 request.tag) payload
  let (sent, n) := s.sendGenerated i frame [ingress]
  (sent, n != 0)

/-- `s` with the Management Unit's state changed. -/
def State.modifyManagement (s : State) (f : ManagementUnit → ManagementUnit) : State :=
  { s with management := f s.management }

/-- The own address changes (R92, R159): the map removes any entry for it and the Notice Unit tests its conditions
(R146). An interval timer that runs when the own address becomes the target runs on to its expiry, DEDUCED from R144 (log
entry 30). -/
def State.changeOwnAddress (s : State) (a : Byte) : State :=
  ((s.modifyManagement fun m => { m with ownAddress := a }).removeStations fun e => e.address == a).retestSlotWait

/-- An effect that waits on the reply is recorded or taken (R149 step 4): an admitted reply's slot joins the departure
watch, a refused one's effect is taken at once (R151). -/
def State.settle (s : State) (w : Waiting) (i : SlotId) (admitted : Bool) : State :=
  match w with
  | .nothing => s
  | .address a => s.changeOwnAddress a
  | .rate p =>
    if admitted then s.modifyManagement fun m => { m with watch := m.watch ++ [⟨i, .setRate p⟩] }
    else s.modifyWords fun w => { w with rateReplies := w.rateReplies ++ [p] }
  | .restart =>
    if admitted then s.modifyManagement fun m => { m with watch := m.watch ++ [⟨i, .restart⟩] }
    else s.takeRestart

/-- The request leaves the queue and its slot is let go (R149 step 5). -/
def State.finishRequest (s : State) (h : HeldFrame) : State :=
  (s.modifyManagement fun m => { m with queue := m.queue.drop 1 }).letGo h.slot

/-! ## Execution of the head request (R149) -/

/-- Checks and effect of a request (R149 steps 1 and 2): the manager check, then the command. -/
def State.perform (s : State) (h : HeldFrame) (request : Slot) (command : Command) : Executed :=
  if s.accepts request.source then command h.ingress (request.payload.drop 1) s else s.fails .denied

/-- The command-code position of a reply: the request's code, 00h for an empty payload (R150). -/
def Slot.code (request : Slot) : Byte := request.payload.headD 0

/-- The head request `h` executed with the reply slot `i` already claimed (R149). The request's slot is let go before a
waiting effect is taken; within the one event the order is not seen. -/
def State.executeRequest (s : State) (h : HeldFrame) (i : SlotId) (command : Command) : State :=
  let request := s.slot h.slot
  let done := s.perform h request command
  match done.state.sendReply i request h.ingress (replyPayload request.code done.result done.data) with
  | (sent, admitted) => (sent.finishRequest h).settle done.waits i admitted

/-- The head of the input queue is executed by the row that its code selects, when a reply slot can be had; a refused
claim leaves it waiting (R149). -/
def runRequest (selects : List Byte → Bool) (command : Command) (s : State) : State :=
  match s.management.queue with
  | [] => s
  | h :: _ =>
    if selects (s.slot h.slot).payload then
      match s.claimForGenerator with
      | some (i, claimed) => claimed.executeRequest h i command
      | none => s
    else s

/-- The payload names a command code. -/
def namesCode (code : Byte) (payload : List Byte) : Bool := payload.head? == some code

/-! ## Departures of watched replies (R151) -/

/-- The effect of a watched command once its reply has departed (R151). -/
def State.takeWatched (s : State) (c : WatchedCommand) : State :=
  match c with
  | .setRate p => s.modifyWords fun w => { w with rateReplies := w.rateReplies ++ [p] }
  | .restart => s.takeRestart

/-- The Management Unit takes the oldest departure announcement of a watched slot (R151). -/
def takeWatchedReply (i : SlotId) (s : State) : State :=
  match s.words.watchedReplies.find? (·.slot == i), s.management.watch.find? (·.slot == i) with
  | some d, some w =>
    ((s.modifyWords fun x => { x with watchedReplies := x.watchedReplies.erase d }).modifyManagement fun m =>
      { m with watch := m.watch.erase w }).takeWatched w.command
  | _, _ => s

/-- WATCHED_REPLY_DEPARTURE (R151). -/
def execWatchedReplyDeparture (i : SlotId) (s : State) : Answer State := s.whenInService (takeWatchedReply i)

end Sys2Proof.Machine
end

