-- ==== Sys2Proof/WellFormed.lean ====
section
/-! DEFINITION. Which commands are well formed: those whose operands lie in the ranges the spec gives them. Ports, slots
and tags are in range by their types; what is checked here is the rest. -/

namespace Sys2Proof

/-- A station address, 01h to FEh (R9). -/
def isStationAddress (a : Byte) : Bool := a != 0x00 && a != 0xFF

/-- The key of an exchange names two station addresses (R110). -/
def ExchangeKey.wf (k : ExchangeKey) : Bool := isStationAddress k.requester && isStationAddress k.responder

/-- The loader reads at most 4096 bytes of the serial memory (R19: "T from 8 to 4096"; bytes at T and above are not
read). -/
def SerialMemory.wf (m : SerialMemory) : Bool := decide (m.bits.length ≤ 8 * Config.maxImage)

/-- A port number carried in one character (Table 9-1). -/
def isPortCharacter (b : Byte) : Bool := decide (b.toNat ≤ 3)

/-- A raised notice has the subject and the detail that Table 9-1 gives its kind. -/
def RaisedNotice.wf (n : RaisedNotice) : Bool :=
  match n.kind with
  | .portIsolated => isPortCharacter n.subject && decide (n.detail.toNat ≤ 1)
  | .portRestored => isPortCharacter n.subject && decide (n.detail.toNat ≤ 7)
  | .stationMoved => isStationAddress n.subject && isPortCharacter n.detail
  | .stationSilent => isStationAddress n.subject && isPortCharacter n.detail
  | .sourceConflict => isStationAddress n.subject && isPortCharacter n.detail
  | .mapFull => isPortCharacter n.subject && isStationAddress n.detail
  | .rateReverted => isPortCharacter n.subject && decide (n.detail.toNat ≤ 7)
  | .imageResult => n.subject == 0 && decide (1 ≤ n.detail.toNat) && decide (n.detail.toNat ≤ 6)

/-- Well-formed commands. -/
def Instr.wf : Instr → Bool
  | .pass1End m => m.wf
  | .imageRecord m => m.wf
  | .pass2End m => m.wf
  | .firstExpiry k => k.wf
  | .secondExpiry k => k.wf
  | .timeoutWord a => isStationAddress a
  | .noticeRaise n => n.wf
  | .powerOn | .pinReset | .coldStart _ | .flushEnd | .characterDelivered _ _ | .missingEcho _ | .abortGap _
  | .endOfResync _ | .lineStuck _ | .stuckLineEvent _ | .beginSending _ | .jamEnd _ | .backoffEnd _ | .relayDecision
  | .exchangeCompleted _ | .exchangeDiscarded _ | .exchangeDisplaced _ | .portDownWord _ | .pathReport | .agingExpiry
  | .recoveryExpiry _ | .rateReplyDeparted _ | .windowExpiry _ | .noticeSend | .noticeCopyDeparture
  | .noticeIntervalExpiry | .watchedReplyDeparture _ | .restartTimerExpiry | .unknownCommand | .readStatus
  | .readCounters | .readStation | .writeStation | .removeStation | .listStations | .flushLearned | .readRule
  | .insertRule | .deleteRule | .replaceRule | .setRuleDefaults | .readPort | .setPortState | .setRate | .confirmRate
  | .setPortOptions | .readExchanges | .setTimeouts | .setAging | .setManagers | .setAddress | .setNoticeTarget
  | .ackNotice | .restart | .judgedLineLevelChange _ _ | .characterSent _ => true

end Sys2Proof
end

