-- ==== Sys2Proof/Machine/Commands.lean ====
section
/-! DEFINITION. The management commands (Table 10-1, R152 to R161): for each its argument checks in the order R150 gives
them, its effect and its result data, and the command's meaning as one row of the table. -/

namespace Sys2Proof.Machine

/-! ## Status and counters (R152, R153) -/

/-- The result data of READ_STATUS (Table 10-2). -/
def State.statusData (s : State) : List Byte :=
  [s.management.ownAddress, s.management.causes.character, s.loader.status.code, s.loader.errors, byteOf s.freeCount,
   byteOf s.exchanges.length, byteOf s.notices.list.length, byteOf s.map.entries.length, byteOf s.relay.rules.length]

/-- READ_STATUS (R152). -/
def readStatus : Command := fun _ args s =>
  match args with
  | clear :: _ =>
    match flagArgument clear with
    | some true => ⟨s.modifyManagement fun m => { m with causes := .clear }, .ok, s.statusData, .nothing⟩
    | some false => s.answers s.statusData
    | none => s.fails .badArgument
  | [] => s.fails .badLength

/-- READ_STATUS (R152). -/
def execReadStatus (s : State) : Answer State := s.whenInService (runRequest (namesCode 0x01) readStatus)

/-- The counters of a selection in the order of Table 10-3. -/
def State.countersOf (s : State) : Selection → List Count
  | .port p => (s.port p).counters.toList
  | .whole => s.counters.toList

/-- The counters of a selection with indexes `start` to `start + n - 1` cleared (R153). -/
def State.clearCounters (s : State) (sel : Selection) (start n : Nat) : State :=
  match sel with
  | .port p => s.countPort p fun c => c.cleared start n
  | .whole => s.count fun c => c.cleared start n

/-- The counters one reply reports: those from the start index onward, at most 14 (R153). -/
def State.countersFrom (s : State) (sel : Selection) (start : Nat) : List Count := ((s.countersOf sel).drop start).take 14

/-- READ_COUNTERS (R153). -/
def readCounters : Command := fun _ args s =>
  match args with
  | sel :: clear :: start :: _ =>
    match selectionArgument sel, flagArgument clear with
    | some sel, some clear =>
      if start.toNat < (s.countersOf sel).length then
        let reported := s.countersFrom sel start.toNat
        let data := start :: byteOf reported.length :: reported.flatMap countBytes
        if clear then ⟨s.clearCounters sel start.toNat reported.length, .ok, data, .nothing⟩ else s.answers data
      else s.fails .badArgument
    | _, _ => s.fails .badArgument
  | _ => s.fails .badLength

/-- READ_COUNTERS (R153). -/
def execReadCounters (s : State) : Answer State := s.whenInService (runRequest (namesCode 0x02) readCounters)

/-! ## Station commands (R154) -/

/-- The origin character: 0 STATIC, 1 LEARNED (R154). -/
def StationEntry.originCharacter (e : StationEntry) : Byte := flagCharacter e.isLearned

/-- READ_STATION (R154, R79). -/
def readStation : Command := fun _ args s =>
  match args with
  | a :: _ =>
    match s.lookup a with
    | some e =>
      s.answers
        [e.address, portCharacter e.port, e.originCharacter, byteOf e.age, byteOf e.timeoutClass.val,
         flagCharacter e.retry, byteOf e.silence.val]
    | none => s.fails .notFound
  | [] => s.fails .badLength

/-- READ_STATION (R154). -/
def execReadStation (s : State) : Answer State := s.whenInService (runRequest (namesCode 0x10) readStation)

/-- WRITE_STATION (R154, R88, R89). -/
def writeStation : Command := fun _ args s =>
  match args with
  | a :: p :: c :: r :: _ =>
    if isStationAddress a ∧ a ≠ s.management.ownAddress then
      match portArgument p, classArgument c, flagArgument r with
      | some p, some c, some r =>
        match s.writeStatic { address := a, origin := .static, port := p, retry := r, silence := 0, timeoutClass := c } with
        | some written => written.done
        | none => s.fails .full
      | _, _, _ => s.fails .badArgument
    else s.fails .badArgument
  | _ => s.fails .badLength

/-- WRITE_STATION (R154). -/
def execWriteStation (s : State) : Answer State := s.whenInService (runRequest (namesCode 0x11) writeStation)

/-- REMOVE_STATION (R154, R90). -/
def removeStation : Command := fun _ args s =>
  match args with
  | a :: _ => if (s.lookup a).isSome then (s.removeStations fun e => e.address == a).done else s.fails .notFound
  | [] => s.fails .badLength

/-- REMOVE_STATION (R154). -/
def execRemoveStation (s : State) : Answer State := s.whenInService (runRequest (namesCode 0x12) removeStation)

/-- The entries LIST_STATIONS reports: up to 12 with an address at or above the start, in ascending order (R79). -/
def State.stationsFrom (s : State) (start : Byte) : List StationEntry :=
  (s.map.entries.filter fun e => decide (start.toNat ≤ e.address.toNat)).take 12

/-- LIST_STATIONS (R154, R79). -/
def listStations : Command := fun _ args s =>
  match args with
  | start :: _ =>
    let listed := s.stationsFrom start
    s.answers
      (byteOf listed.length ::
        listed.flatMap fun e => [e.address, portCharacter e.port, e.originCharacter, byteOf e.age])
  | [] => s.fails .badLength

/-- LIST_STATIONS (R154). -/
def execListStations (s : State) : Answer State := s.whenInService (runRequest (namesCode 0x13) listStations)

/-- The LEARNED entries of a selection: a port's, or all (R90). -/
def StationEntry.learnedIn (e : StationEntry) : Selection → Bool
  | .port p => e.isLearned && e.port == p
  | .whole => e.isLearned

/-- FLUSH_LEARNED (R154, R90). -/
def flushLearned : Command := fun _ args s =>
  match args with
  | sel :: _ =>
    match selectionArgument sel with
    | some sel =>
      ⟨s.removeStations fun e => e.learnedIn sel, .ok, [byteOf (s.map.entries.countP fun e => e.learnedIn sel)], .nothing⟩
    | none => s.fails .badArgument
  | [] => s.fails .badLength

/-- FLUSH_LEARNED (R154). -/
def execFlushLearned (s : State) : Answer State := s.whenInService (runRequest (namesCode 0x14) flushLearned)

/-! ## Rule commands (R155) -/

/-- A port set or kind set in a reply: bits 4 to 7 are 0 (R15). -/
def setByte (v : BitVec 4) : Byte := (0#4 ++ v : BitVec 8)

/-- The eight field characters of a rule, in the order of R155. -/
def RuleFields.characters (r : RuleFields) : List Byte :=
  [r.sourceLow, r.sourceHigh, r.destinationLow, r.destinationHigh, setByte r.kinds, setByte r.ingressPorts,
   r.action.code, portCharacter r.redirectPort]

/-- `s` with the rule list changed. -/
def State.modifyRules (s : State) (f : List Rule → List Rule) : State :=
  { s with relay := { s.relay with rules := f s.relay.rules } }

/-- READ_RULE (R155). -/
def readRule : Command := fun _ args s =>
  match args with
  | i :: _ =>
    match s.relay.rules[i.toNat]? with
    | some r => s.answers (r.fields.characters ++ countBytes r.hits)
    | none => s.fails .notFound
  | [] => s.fails .badLength

/-- READ_RULE (R155). -/
def execReadRule (s : State) : Answer State := s.whenInService (runRequest (namesCode 0x20) readRule)

/-- INSERT_RULE (R155). -/
def insertRule : Command := fun _ args s =>
  match args with
  | i :: sl :: sh :: dl :: dh :: kinds :: ports :: action :: redirect :: _ =>
    if i.toNat ≤ s.relay.rules.length then
      match ruleArgument sl sh dl dh kinds ports action redirect with
      | some r =>
        if s.relay.rules.length < Config.ruleCapacity then (s.modifyRules fun l => l.insertIdx i.toNat ⟨r, 0⟩).done
        else s.fails .full
      | none => s.fails .badArgument
    else s.fails .badArgument
  | _ => s.fails .badLength

/-- INSERT_RULE (R155). -/
def execInsertRule (s : State) : Answer State := s.whenInService (runRequest (namesCode 0x21) insertRule)

/-- DELETE_RULE (R155). -/
def deleteRule : Command := fun _ args s =>
  match args with
  | i :: _ =>
    if i.toNat < s.relay.rules.length then (s.modifyRules fun l => l.eraseIdx i.toNat).done else s.fails .notFound
  | [] => s.fails .badLength

/-- DELETE_RULE (R155). -/
def execDeleteRule (s : State) : Answer State := s.whenInService (runRequest (namesCode 0x22) deleteRule)

/-- REPLACE_RULE (R155). -/
def replaceRule : Command := fun _ args s =>
  match args with
  | i :: sl :: sh :: dl :: dh :: kinds :: ports :: action :: redirect :: _ =>
    match ruleArgument sl sh dl dh kinds ports action redirect with
    | some r =>
      if i.toNat < s.relay.rules.length then (s.modifyRules fun l => l.set i.toNat ⟨r, 0⟩).done else s.fails .notFound
    | none => s.fails .badArgument
  | _ => s.fails .badLength

/-- REPLACE_RULE (R155). -/
def execReplaceRule (s : State) : Answer State := s.whenInService (runRequest (namesCode 0x23) replaceRule)

/-- SET_RULE_DEFAULTS (R155). -/
def setRuleDefaults : Command := fun _ args s =>
  match args with
  | d :: o :: _ =>
    match passDropArgument d, passDropArgument o with
    | some d, some o => ({ s with relay := { s.relay with defaultAction := d, orphanPolicy := o } }).done
    | _, _ => s.fails .badArgument
  | _ => s.fails .badLength

/-- SET_RULE_DEFAULTS (R155). -/
def execSetRuleDefaults (s : State) : Answer State := s.whenInService (runRequest (namesCode 0x24) setRuleDefaults)

/-! ## Port commands (R156) -/

/-- The result data of READ_PORT (R156). -/
def State.portData (s : State) (p : Port) : List Byte :=
  let x := s.port p
  [x.record.admin.code, byteOf x.record.currentRate.val, byteOf x.record.confirmedRate.val,
   byteOf x.record.windowRemaining, x.record.optionsCharacter, byteOf x.transmitter.queue.length,
   x.receiver.state.code, x.transmitter.state.code]

/-- READ_PORT (R156). -/
def readPort : Command := fun _ args s =>
  match args with
  | p :: _ =>
    match portArgument p with
    | some p => s.answers (s.portData p)
    | none => s.fails .badArgument
  | [] => s.fails .badLength

/-- READ_PORT (R156). -/
def execReadPort (s : State) : Answer State := s.whenInService (runRequest (namesCode 0x30) readPort)

/-- A state argument: 0 ENABLED, 1 HELD, 2 DISABLED (R156). -/
def stateArgument (b : Byte) : Option AdminState :=
  if b = 0 then some .enabled else if b = 1 then some .held else if b = 2 then some .disabled else none

/-- SET_PORT_STATE (R156, R127). -/
def setPortState : Command := fun _ args s =>
  match args with
  | p :: a :: _ =>
    match portArgument p, stateArgument a with
    | some p, some a => (s.setPortState p a).done
    | _, _ => s.fails .badArgument
  | _ => s.fails .badLength

/-- SET_PORT_STATE (R156). -/
def execSetPortState (s : State) : Answer State := s.whenInService (runRequest (namesCode 0x31) setPortState)

/-- A window argument, 1 to 30 seconds (R156). -/
def windowArgument (b : Byte) : Option Nat := if 1 ≤ b.toNat ∧ b.toNat ≤ 30 then some b.toNat else none

/-- The arguments of SET_RATE: port, rate code, window (R156). -/
def rateArguments (p c w : Byte) : Option (Port × RateCode × Nat) :=
  match portArgument p, rateArgument c, windowArgument w with
  | some p, some c, some w => some (p, c, w)
  | _, _, _ => none

/-- SET_RATE (R135, R156): at once on another port, with the reply's departure on its own, PENDING while a change runs. -/
def setRate : Command := fun ingress args s =>
  match args with
  | p :: c :: w :: _ =>
    match rateArguments p c w with
    | some (p, c, seconds) =>
      if (s.port p).record.ratePhase = .steady then
        if ingress = p then
          ⟨s.modifyRecord p fun r => { r with ratePhase := .awaitingReply c seconds }, .ok, [], .rate p⟩
        else (s.openWindow p c seconds).done
      else s.fails .pending
    | none => s.fails .badArgument
  | _ => s.fails .badLength

/-- SET_RATE (R156). -/
def execSetRate (s : State) : Answer State := s.whenInService (runRequest (namesCode 0x32) setRate)

/-- CONFIRM_RATE (R137, R156). -/
def confirmRate : Command := fun _ args s =>
  match args with
  | p :: _ =>
    match portArgument p with
    | some p =>
      match (s.port p).record.ratePhase with
      | .window _ _ =>
        (s.modifyRecord p fun r => { r with confirmedRate := r.currentRate, ratePhase := .steady }).done
      | .awaitingReply _ _ => s.fails .pending
      | .steady => s.fails .stale
    | none => s.fails .badArgument
  | [] => s.fails .badLength

/-- CONFIRM_RATE (R156). -/
def execConfirmRate (s : State) : Answer State := s.whenInService (runRequest (namesCode 0x33) confirmRate)

/-- SET_PORT_OPTIONS (R133, R156). -/
def setPortOptions : Command := fun _ args s =>
  match args with
  | p :: o :: _ =>
    match portArgument p with
    | some p =>
      if o.toNat < 8 then (s.setPortOptions p (o.getLsbD 0) (o.getLsbD 1) (o.getLsbD 2)).done else s.fails .badArgument
    | none => s.fails .badArgument
  | _ => s.fails .badLength

/-- SET_PORT_OPTIONS (R156). -/
def execSetPortOptions (s : State) : Answer State := s.whenInService (runRequest (namesCode 0x34) setPortOptions)

/-! ## Exchanges, timeouts and aging (R157) -/

/-- A record of a READ_EXCHANGES reply (R157). -/
def Exchange.characters (x : Exchange) : List Byte :=
  [x.key.requester, portCharacter x.requesterPort, x.key.responder, x.responderPort.character, (0#4 ++ x.key.tag : BitVec 8),
   byteOf x.attempt, x.state.code, byteOf x.timeoutClass.val]

/-- READ_EXCHANGES (R157, R111). -/
def readExchanges : Command := fun _ args s =>
  match args with
  | start :: _ =>
    if start.toNat ≤ 15 then
      let reported := (s.exchanges.drop start.toNat).take 6
      s.answers (byteOf reported.length :: reported.flatMap Exchange.characters)
    else s.fails .badArgument
  | [] => s.fails .badLength

/-- READ_EXCHANGES (R157). -/
def execReadExchanges (s : State) : Answer State := s.whenInService (runRequest (namesCode 0x40) readExchanges)

/-- SET_TIMEOUTS (R157, R112): units of 10 ms. -/
def setTimeouts : Command := fun _ args s =>
  match args with
  | a :: b :: c :: d :: _ =>
    if a = 0 ∨ b = 0 ∨ c = 0 ∨ d = 0 then s.fails .badArgument
    else ({ s with timeoutTable := (Four.mk a b c d).map fun v : Byte => 10 * v.toNat }).done
  | _ => s.fails .badLength

/-- SET_TIMEOUTS (R157). -/
def execSetTimeouts (s : State) : Answer State := s.whenInService (runRequest (namesCode 0x41) setTimeouts)

/-- An aging period, 10 to 3600 seconds in two characters, high first (R157). -/
def periodArgument (high low : Byte) : Option Nat :=
  if 10 ≤ numberOf high low ∧ numberOf high low ≤ 3600 then some (numberOf high low) else none

/-- `s` with the aging period set. -/
def State.setPeriod (s : State) (period : Nat) : State := { s with map := { s.map with period := period } }

/-- SET_AGING (R157, R86): the period is set and the aging timer restarts. -/
def setAging : Command := fun _ args s =>
  match args with
  | high :: low :: _ =>
    match periodArgument high low with
    | some period => (s.setPeriod period).startAging.done
    | none => s.fails .badArgument
  | _ => s.fails .badLength

/-- SET_AGING (R157). -/
def execSetAging (s : State) : Answer State := s.whenInService (runRequest (namesCode 0x42) setAging)

/-! ## Managers, own address and notices (R158 to R160) -/

/-- The addresses of a list, each once, in the order of their first place (R158). -/
def eachOnce (l : List Byte) : List Byte := l.foldl (fun held a => if held.contains a then held else held ++ [a]) []

/-- SET_MANAGERS (R158): a count above 4 is BAD_ARGUMENT before the addresses are counted. -/
def setManagers : Command := fun _ args s =>
  match args with
  | n :: addresses =>
    if 4 < n.toNat then s.fails .badArgument
    else if addresses.length < n.toNat then s.fails .badLength
    else if (addresses.take n.toNat).all isStationAddress then
      (s.modifyManagement fun m => { m with managers := eachOnce (addresses.take n.toNat) }).done
    else s.fails .badArgument
  | [] => s.fails .badLength

/-- SET_MANAGERS (R158). -/
def execSetManagers (s : State) : Answer State := s.whenInService (runRequest (namesCode 0x50) setManagers)

/-- SET_ADDRESS (R159): the change waits on the reply's admission; the current own address changes nothing. -/
def setAddress : Command := fun _ args s =>
  match args with
  | a :: _ =>
    if isStationAddress a then
      if a = s.management.ownAddress then s.done else ⟨s, .ok, [], .address a⟩
    else s.fails .badArgument
  | [] => s.fails .badLength

/-- SET_ADDRESS (R159). -/
def execSetAddress (s : State) : Answer State := s.whenInService (runRequest (namesCode 0x51) setAddress)

/-- SET_NOTICE_TARGET (R160, R146): 00h sets the target to none. -/
def setNoticeTarget : Command := fun _ args s =>
  match args with
  | a :: interval :: _ =>
    if a = 0xFF ∨ interval.toNat = 0 ∨ 60 < interval.toNat then s.fails .badArgument
    else (s.setNoticeTarget (if a = 0 then none else some a) interval.toNat).done
  | _ => s.fails .badLength

/-- SET_NOTICE_TARGET (R160). -/
def execSetNoticeTarget (s : State) : Answer State := s.whenInService (runRequest (namesCode 0x52) setNoticeTarget)

/-- ACK_NOTICE (R160, R145). -/
def ackNotice : Command := fun _ args s =>
  match args with
  | n :: _ =>
    match s.acknowledge n with
    | some acknowledged => acknowledged.done
    | none => s.fails .stale
  | [] => s.fails .badLength

/-- ACK_NOTICE (R160). -/
def execAckNotice (s : State) : Answer State := s.whenInService (runRequest (namesCode 0x53) ackNotice)

/-! ## Restart (R161) -/

/-- A kind of restart: 1 FLUSH, 2 COLD (R161). -/
def restartArgument (b : Byte) : Option RestartKind := if b = 1 then some .flush else if b = 2 then some .cold else none

/-- RESTART (R161): the restart becomes pending and its 500 ms timer starts at the execution. -/
def restart : Command := fun _ args s =>
  match args with
  | k :: _ =>
    match restartArgument k with
    | some kind =>
      if s.management.pendingRestart.isSome then s.fails .pending
      else
        ⟨s.modifyManagement fun m => { m with pendingRestart := some ⟨kind, msCycles 500⟩ }, .ok, [], .restart⟩
    | none => s.fails .badArgument
  | [] => s.fails .badLength

/-- RESTART (R161). -/
def execRestart (s : State) : Answer State := s.whenInService (runRequest (namesCode 0x60) restart)

/-! ## Requests that name no command (R150) -/

/-- The codes that Table 10-1 lists. -/
def commandCodes : List Byte :=
  [0x01, 0x02, 0x10, 0x11, 0x12, 0x13, 0x14, 0x20, 0x21, 0x22, 0x23, 0x24, 0x30, 0x31, 0x32, 0x33, 0x34, 0x40, 0x41,
   0x42, 0x50, 0x51, 0x52, 0x53, 0x60]

/-- The payload is empty or its code is not listed in Table 10-1. -/
def namesNoCommand : List Byte → Bool
  | [] => true
  | c :: _ => !commandCodes.contains c

/-- A code that Table 10-1 does not list is answered UNKNOWN_COMMAND (R150). -/
def unlistedCommand : Command := fun _ _ s => s.fails .unknownCommand

/-- A payload of length 0 is answered BAD_LENGTH (R150). -/
def emptyPayload : Command := fun _ _ s => s.fails .badLength

/-- The head request is executed as the empty payload or the unlisted code it is (R150). -/
def runUnknown (s : State) : State :=
  match s.management.queue with
  | [] => s
  | h :: _ =>
    runRequest namesNoCommand (if (s.slot h.slot).payload = [] then emptyPayload else unlistedCommand) s

/-- UNKNOWN_COMMAND (R150). -/
def execUnknownCommand (s : State) : Answer State := s.whenInService runUnknown

end Sys2Proof.Machine
end

