-- ==== Sys2Proof/Machine/StartUp.lean ====
section
/-! DEFINITION. Start-up and the Image Loader (R164, R166 to R170): COLD_START, the two passes over the image, and the
end of start-up. -/

namespace Sys2Proof.Machine

/-! ## The end of start-up (R164, R170) -/

/-- The end of start-up, as one event (R164): ports come up, the aging timer starts, and IMAGE_RESULT is raised unless
the status is NOT_RUN (R170). -/
def State.endOfStartUp (s : State) : State :=
  if s.loader.status = .notRun then s.enterService
  else s.enterService.raise .imageResult 0 s.loader.status.code

/-- `s` with the loader's state changed. -/
def State.modifyLoader (s : State) (f : ImageLoader → ImageLoader) : State := { s with loader := f s.loader }

/-- A pass begins: SCS falls, SCLK runs, the read command and its address are sent, and reading starts at offset 0 with
the running check at FFFFh (R167, R168, R169). -/
def State.beginPass (s : State) (pass : LoadState) : State :=
  ({ s with pins := { s.pins with scs := s.pins.scs ++ [false], sclkRuns := true, sdo := passCommand } }).modifyLoader
    fun l => { l with position := 0, recordsRead := 0, runningCheck := 0xFFFF, state := pass }

/-- A pass ends, or stops early: the loader raises SCS (R167). -/
def State.endPass (s : State) : State := { s with pins := { s.pins with scs := s.pins.scs ++ [true], sdo := [] } }

/-- The load ends with a status at the end of a pass: the loader goes to DONE, SCLK stops, and start-up ends (R170, R172). -/
def State.endLoad (s : State) (status : ImageStatus) : State :=
  let ended := s.endPass
  (({ ended with pins := { ended.pins with sclkRuns := false } }).modifyLoader fun l =>
    { l with status := status, state := .done }).endOfStartUp

/-- The reset source is released: CFGEN is sampled once, and the load begins or start-up ends at once (R164). -/
def releaseReset (cfgen : Bool) (s : State) : State :=
  if s.phase = .inReset then
    let released := { s with pins := { s.pins with resetHigh := true, cfgen := cfgen } }
    if cfgen then ({ released with phase := .loading }).beginPass .pass1 else released.endOfStartUp
  else s

/-- COLD_START (R164). -/
def execColdStart (cfgen : Bool) (s : State) : Answer State := .next (releaseReset cfgen s)

/-! ## Pass 1 (R168) -/

/-- The end of a record walk: whether it ended exactly behind the last record at the offset where the trailer stands,
the bytes read by then, and the records read. -/
structure Walk where
  good : Bool
  position : Nat
  recordsRead : Nat
  deriving DecidableEq, Repr

/-- The record walk of R168 from offset `pos` with `left` records to come and the trailer at offset `trailer`. -/
def walkRecords (m : SerialMemory) (trailer : Nat) : (left pos done : Nat) → Walk
  | 0, pos, done => ⟨pos == trailer, pos, done⟩
  | left + 1, pos, done =>
    let n := (memoryByte m pos).toNat
    if trailer ≤ pos then ⟨false, pos, done⟩
    else if n = 0 ∨ Config.maxPayload < n ∨ trailer < pos + 1 + n then ⟨false, pos + 1, done⟩
    else walkRecords m trailer left (pos + 1 + n) (done + 1)

/-- The total length in a header (R19). -/
def imageLength (m : SerialMemory) : Nat := numberOf (memoryByte m 4) (memoryByte m 5)

/-- What pass 1 comes to: the status a failure decides with the bytes and records read by then, or none when every test
passes (R168). The identifier and T are judged when their two bytes have been read (log entry 18). -/
def judgePass1 (m : SerialMemory) : Option (ImageStatus × Nat × Nat) :=
  let t := imageLength m
  if memoryBytes m 0 2 = [0xFF, 0xFF] then some (.noImage, 2, 0)
  else if memoryBytes m 0 2 ≠ [0xC7, 0x1A] then some (.rejectedFormat, 2, 0)
  else if memoryByte m 2 ≠ 1 then some (.rejectedFormat, 3, 0)
  else if t < Config.minImage ∨ Config.maxImage < t then some (.rejectedFormat, 6, 0)
  else
    let w := walkRecords m (t - 2) (memoryByte m 3).toNat 6 0
    if !w.good then some (.rejectedFormat, w.position, w.recordsRead)
    else if memoryBytes m (t - 2) 2 ≠ [highByte (checkOf (memoryBytes m 0 (t - 2))), lowByte (checkOf (memoryBytes m 0 (t - 2)))] then
      some (.rejectedCheck, t, w.recordsRead)
    else none

/-- The header fields the loader has taken when `n` bytes have been read (R166). -/
def ImageLoader.withHeader (l : ImageLoader) (m : SerialMemory) (n : Nat) : ImageLoader :=
  { l with
    recordCount := if 4 ≤ n then (memoryByte m 3).toNat else l.recordCount
    totalLength := if 6 ≤ n then imageLength m else l.totalLength }

/-- The bytes of the first `n` that run through the check: those before the trailer (R168). -/
def checkedBytes (m : SerialMemory) (n : Nat) : List Byte :=
  memoryBytes m 0 (if 6 < n then min n (imageLength m - 2) else n)

/-- Pass 1 ends, and SCS rises (R167, R168): a failure decides the outcome and applies nothing, a good image's check is kept
and pass 2 begins, with a new read. -/
def finishPass1 (m : SerialMemory) (s : State) : State :=
  if s.phase = .loading ∧ s.loader.state = .pass1 then
    match judgePass1 m with
    | some (status, n, records) =>
      (s.modifyLoader fun l =>
        { l.withHeader m n with
          position := n, recordsRead := records, runningCheck := checkOf (checkedBytes m n) }).endLoad status
    | none =>
      (s.modifyLoader fun l =>
        { l.withHeader m 6 with errors := 0, pass1Check := checkOf (memoryBytes m 0 (imageLength m - 2)) }).endPass.beginPass
        .pass2
  else s

/-- PASS1_END (R168). -/
def execPass1End (m : SerialMemory) (s : State) : Answer State := .next (finishPass1 m s)

/-! ## Records applied (R169) -/

/-- SET_PORT_STATE in a load sets the record alone; the port enters the state at the end of start-up (R169). -/
def loadPortState : Command := fun _ args s =>
  match args with
  | p :: a :: _ =>
    match portArgument p, stateArgument a with
    | some p, some a => (s.modifyRecord p fun r => { r with admin := a }).done
    | _, _ => s.fails .badArgument
  | _ => s.fails .badLength

/-- SET_RATE in a load sets current and confirmed rate together, with no window (R169, R139). -/
def loadRate : Command := fun _ args s =>
  match args with
  | p :: c :: w :: _ =>
    match rateArguments p c w with
    | some (p, c, _) => ((s.applyRate p c).modifyRecord p fun r => { r with confirmedRate := c, ratePhase := .steady }).done
    | none => s.fails .badArgument
  | _ => s.fails .badLength

/-- SET_AGING in a load sets the period before the aging timer first starts (R86, R169). -/
def loadAging : Command := fun _ args s =>
  match args with
  | high :: low :: _ =>
    match periodArgument high low with
    | some period => (s.setPeriod period).done
    | none => s.fails .badArgument
  | _ => s.fails .badLength

/-- SET_ADDRESS in a load takes effect at the record's application (R169); the current own address changes nothing (R159). -/
def loadAddress : Command := fun _ args s =>
  match args with
  | a :: _ =>
    if isStationAddress a then
      if a = s.management.ownAddress then s.done else (s.changeOwnAddress a).done
    else s.fails .badArgument
  | [] => s.fails .badLength

/-- The command of a record: one of the eleven codes, none for any other (R169). -/
def recordCommand (code : Byte) : Option Command :=
  if code = 0x11 then some writeStation
  else if code = 0x21 then some insertRule
  else if code = 0x24 then some setRuleDefaults
  else if code = 0x31 then some loadPortState
  else if code = 0x32 then some loadRate
  else if code = 0x34 then some setPortOptions
  else if code = 0x41 then some setTimeouts
  else if code = 0x42 then some loadAging
  else if code = 0x50 then some setManagers
  else if code = 0x51 then some loadAddress
  else if code = 0x52 then some setNoticeTarget
  else none

/-- A record is skipped: the error count rises by one unless it stands at 255 (R169). -/
def State.skipRecord (s : State) : State := s.modifyLoader fun l => { l with errors := stoppingSucc l.errors }

/-- A record's payload is applied as a request submitted by the loader; any outcome but OK makes it skipped (R169). No
command of a record depends on an ingress port. -/
def State.applyRecord (s : State) (payload : List Byte) : State :=
  match payload with
  | [] => s.skipRecord
  | code :: args =>
    match recordCommand code with
    | some command =>
      let done := command 0 args s
      if done.result = .ok then done.state else s.skipRecord
    | none => s.skipRecord

/-! ## Pass 2 (R169) -/

/-- Where the next record of pass 2 stands, with the running check up to it: behind the header when nothing has been
read yet; none when the header differs from that of pass 1 (R169). -/
def ImageLoader.recordStart (l : ImageLoader) (m : SerialMemory) : Option (Nat × Word) :=
  if l.position = 0 then
    if memoryBytes m 0 6 = l.header then some (6, checkOf (memoryBytes m 0 6)) else none
  else some (l.position, l.runningCheck)

/-- The next record of pass 2 if the walk goes on: its payload, the offset behind it and the running check there
(R168, R169). -/
def ImageLoader.nextRecord (l : ImageLoader) (m : SerialMemory) : Option (List Byte × Nat × Word) :=
  match l.recordStart m with
  | some (pos, running) =>
    let n := (memoryByte m pos).toNat
    if l.recordsRead < l.recordCount ∧ 1 ≤ n ∧ n ≤ Config.maxPayload ∧ pos + 1 + n ≤ l.totalLength - 2 then
      some (memoryBytes m (pos + 1) n, pos + 1 + n, checkRun running (memoryBytes m pos (n + 1)))
    else none
  | none => none

/-- The loader reads the next record whole and applies it (R169). -/
def readRecord (m : SerialMemory) (s : State) : State :=
  if s.phase = .loading ∧ s.loader.state = .pass2 then
    match s.loader.nextRecord m with
    | some (payload, pos, running) =>
      (s.modifyLoader fun l =>
        { l with position := pos, recordsRead := l.recordsRead + 1, runningCheck := running }).applyRecord payload
    | none => s
  else s

/-- IMAGE_RECORD (R169). -/
def execImageRecord (m : SerialMemory) (s : State) : Answer State := .next (readRecord m s)

/-- What pass 2 comes to when no further record can be read, with the bytes read and the running check (R169): the
status, CHANGED for a changed header, a broken walk or a check that differs from that of pass 1. -/
def ImageLoader.judgePass2 (l : ImageLoader) (m : SerialMemory) : ImageStatus × Nat × Word :=
  match l.recordStart m with
  | none => (.changed, 6, checkOf (memoryBytes m 0 6))
  | some (pos, running) =>
    if l.recordsRead < l.recordCount then
      if pos < l.totalLength - 2 then (.changed, pos + 1, checkRun running [memoryByte m pos])
      else (.changed, pos, running)
    else if pos ≠ l.totalLength - 2 then (.changed, pos, running)
    else if running ≠ l.pass1Check then (.changed, l.totalLength, running)
    else (if l.errors = 0 then .applied else .appliedWithErrors, l.totalLength, running)

/-- Pass 2 ends (R169). While a record can still be read it has not ended. -/
def finishPass2 (m : SerialMemory) (s : State) : State :=
  if s.phase = .loading ∧ s.loader.state = .pass2 ∧ s.loader.nextRecord m = none then
    match s.loader.judgePass2 m with
    | (status, pos, running) => (s.modifyLoader fun l => { l with position := pos, runningCheck := running }).endLoad status
  else s

/-- PASS2_END (R169). -/
def execPass2End (m : SerialMemory) (s : State) : Answer State := .next (finishPass2 m s)

end Sys2Proof.Machine
end

