-- ==== Sys2Proof/Machine/Dispatch.lean ====
section
/-! DEFINITION. The meaning of every command: one arm per constructor, each one direct call. -/

namespace Sys2Proof.Machine

/-- The command's effect on everything but the queue. -/
def exec (i : Instr) (s : State) : Host.Outcome State Fault Refusal :=
  match i with
  | .powerOn => Sys2Proof.Machine.execPowerOn s
  | .pinReset => Sys2Proof.Machine.execPinReset s
  | .coldStart cfgen => Sys2Proof.Machine.execColdStart cfgen s
  | .pass1End memory => Sys2Proof.Machine.execPass1End memory s
  | .imageRecord memory => Sys2Proof.Machine.execImageRecord memory s
  | .pass2End memory => Sys2Proof.Machine.execPass2End memory s
  | .flushEnd => Sys2Proof.Machine.execFlushEnd s
  | .characterDelivered port coming => Sys2Proof.Machine.execCharacterDelivered port coming s
  | .missingEcho port => Sys2Proof.Machine.execMissingEcho port s
  | .abortGap port => Sys2Proof.Machine.execAbortGap port s
  | .endOfResync port => Sys2Proof.Machine.execEndOfResync port s
  | .lineStuck port => Sys2Proof.Machine.execLineStuck port s
  | .stuckLineEvent port => Sys2Proof.Machine.execStuckLineEvent port s
  | .beginSending port => Sys2Proof.Machine.execBeginSending port s
  | .jamEnd port => Sys2Proof.Machine.execJamEnd port s
  | .backoffEnd port => Sys2Proof.Machine.execBackoffEnd port s
  | .relayDecision => Sys2Proof.Machine.execRelayDecision s
  | .exchangeCompleted slot => Sys2Proof.Machine.execExchangeCompleted slot s
  | .exchangeDiscarded slot => Sys2Proof.Machine.execExchangeDiscarded slot s
  | .exchangeDisplaced slot => Sys2Proof.Machine.execExchangeDisplaced slot s
  | .portDownWord port => Sys2Proof.Machine.execPortDownWord port s
  | .firstExpiry key => Sys2Proof.Machine.execFirstExpiry key s
  | .secondExpiry key => Sys2Proof.Machine.execSecondExpiry key s
  | .timeoutWord responder => Sys2Proof.Machine.execTimeoutWord responder s
  | .pathReport => Sys2Proof.Machine.execPathReport s
  | .agingExpiry => Sys2Proof.Machine.execAgingExpiry s
  | .recoveryExpiry port => Sys2Proof.Machine.execRecoveryExpiry port s
  | .rateReplyDeparted port => Sys2Proof.Machine.execRateReplyDeparted port s
  | .windowExpiry port => Sys2Proof.Machine.execWindowExpiry port s
  | .noticeRaise notice => Sys2Proof.Machine.execNoticeRaise notice s
  | .noticeSend => Sys2Proof.Machine.execNoticeSend s
  | .noticeCopyDeparture => Sys2Proof.Machine.execNoticeCopyDeparture s
  | .noticeIntervalExpiry => Sys2Proof.Machine.execNoticeIntervalExpiry s
  | .watchedReplyDeparture slot => Sys2Proof.Machine.execWatchedReplyDeparture slot s
  | .restartTimerExpiry => Sys2Proof.Machine.execRestartTimerExpiry s
  | .unknownCommand => Sys2Proof.Machine.execUnknownCommand s
  | .readStatus => Sys2Proof.Machine.execReadStatus s
  | .readCounters => Sys2Proof.Machine.execReadCounters s
  | .readStation => Sys2Proof.Machine.execReadStation s
  | .writeStation => Sys2Proof.Machine.execWriteStation s
  | .removeStation => Sys2Proof.Machine.execRemoveStation s
  | .listStations => Sys2Proof.Machine.execListStations s
  | .flushLearned => Sys2Proof.Machine.execFlushLearned s
  | .readRule => Sys2Proof.Machine.execReadRule s
  | .insertRule => Sys2Proof.Machine.execInsertRule s
  | .deleteRule => Sys2Proof.Machine.execDeleteRule s
  | .replaceRule => Sys2Proof.Machine.execReplaceRule s
  | .setRuleDefaults => Sys2Proof.Machine.execSetRuleDefaults s
  | .readPort => Sys2Proof.Machine.execReadPort s
  | .setPortState => Sys2Proof.Machine.execSetPortState s
  | .setRate => Sys2Proof.Machine.execSetRate s
  | .confirmRate => Sys2Proof.Machine.execConfirmRate s
  | .setPortOptions => Sys2Proof.Machine.execSetPortOptions s
  | .readExchanges => Sys2Proof.Machine.execReadExchanges s
  | .setTimeouts => Sys2Proof.Machine.execSetTimeouts s
  | .setAging => Sys2Proof.Machine.execSetAging s
  | .setManagers => Sys2Proof.Machine.execSetManagers s
  | .setAddress => Sys2Proof.Machine.execSetAddress s
  | .setNoticeTarget => Sys2Proof.Machine.execSetNoticeTarget s
  | .ackNotice => Sys2Proof.Machine.execAckNotice s
  | .restart => Sys2Proof.Machine.execRestart s
  | .judgedLineLevelChange port coming => Sys2Proof.Machine.execJudgedLineLevelChange port coming s
  | .characterSent port => Sys2Proof.Machine.execCharacterSent port s

end Sys2Proof.Machine
end

