-- ==== Sys2Proof/Machine/TimeBase.lean ====
section
/-! DEFINITION. The Time Base (R171): what one REFCLK cycle does to every interval and timer of the relay, and to the
framers, which take their samples at their sample clocks. It is what a step on the empty queue does (log entry 1).
Expiries are commands of their own; a timer that has run down rests at 0. -/

namespace Sys2Proof.Machine

/-- A timer that runs, one cycle on. -/
def timerAfter (t : Option Nat) : Option Nat := t.map fun n => n - 1

/-- The millisecond tick one cycle on: the ticks' lengths run in a cycle of five, and each sample clock divides REFCLK
(R171). -/
def TimeBase.next (b : TimeBase) (divisors : Four Nat) : TimeBase :=
  { cycle := if b.cycle + 1 < tickCycles b.tick then b.cycle + 1 else 0
    tick := if b.cycle + 1 < tickCycles b.tick then b.tick else (b.tick + 1) % 5
    samplePhase := Four.zipWith (fun d phase => (phase + 1) % d) divisors b.samplePhase }

/-- This cycle completes a millisecond tick. -/
def TimeBase.tickEnds (b : TimeBase) : Bool := decide (tickCycles b.tick ≤ b.cycle + 1)

/-- A flush restart ends at the next 1 ms tick (R165). -/
def Phase.next (p : Phase) (tick : Bool) : Phase :=
  match p with
  | .flushing ticked => .flushing (ticked || tick)
  | .inReset | .loading | .inService => p

/-- The receiver's intervals one cycle on, the line judged at `level` and a character being assembled or not: the gap
interval stops at a start edge (R46), the mark interval is kept in RESYNC (R49), the space interval outside OFF (R55). -/
def Receiver.next (r : Receiver) (level : LineLevel) (assembling : Bool) : Receiver :=
  { r with
    gap := if r.state.frameInProgress && !assembling then r.gap + 1 else r.gap
    markInterval := if r.state = .resync ∧ level = .mark then r.markInterval + 1 else r.markInterval
    spaceInterval := if r.state ≠ .off ∧ level = .space then r.spaceInterval + 1 else r.spaceInterval }

/-- The transmitter's intervals one cycle on: the quiet interval outside OFF (R60), the character being sent and its
echo deadlines (R63), the jam (R68) and the backoff (R70). -/
def Transmitter.next (t : Transmitter) (level : LineLevel) : Transmitter :=
  { t with
    backoff := t.backoff.map fun b => { b with waited := b.waited + 1 }
    charTime := if t.state = .sending ∧ t.driverEnable = true then t.charTime + 1 else t.charTime
    echoList := t.echoList.map fun c => { c with deadline := timerAfter c.deadline }
    jamTime := if t.state = .jam then t.jamTime + 1 else t.jamTime
    quietInterval := if t.state ≠ .off ∧ level = .mark then t.quietInterval + 1 else t.quietInterval }

/-- A window timer one cycle on (R135). -/
def RatePhase.next (r : RatePhase) : RatePhase :=
  match r with
  | .window length timer => .window length (timer - 1)
  | .steady | .awaitingReply _ _ => r

/-- The port record one cycle on: the window timer, and the recovery timer while the level is mark (R130, R135). -/
def PortRecord.next (r : PortRecord) (level : LineLevel) : PortRecord :=
  { r with
    ratePhase := r.ratePhase.next
    recovery := if level = .mark then r.recovery.map (· + 1) else r.recovery }

/-- A sample clock of a port comes with this cycle: its divider of REFCLK wraps (R171). -/
def sampleClockComes (d phase : Nat) : Bool := (phase + 1) % d == 0

/-- What a receive input gives at this cycle: a sample at a sample clock (R2), mark when nothing more is to come. -/
def sampleTaken (clock : Bool) (coming : List Bool) : Option Bool := if clock then some (coming.headD true) else none

/-- A line port one cycle on, with the sample it takes at this cycle if its sample clock comes. -/
def LinePort.next (x : LinePort) (sample : Option Bool) : LinePort :=
  { x with
    framer := match sample with
      | some high => x.framer.sample high
      | none => x.framer
    receiver := x.receiver.next x.framer.level x.framer.assembling
    transmitter := x.transmitter.next x.framer.level
    record := x.record.next x.framer.level }

/-- An exchange's deadline timer one cycle on (R110). -/
def Exchange.next (x : Exchange) : Exchange := { x with deadline := timerAfter x.deadline }

/-- An announcement that waits for the tracker one cycle on: the deadline timer it is to start already counts (R115). -/
def AgedDeparture.next (d : AgedDeparture) : AgedDeparture := { d with age := d.age + 1 }

/-- The ports whose sample clock comes with this cycle (R2, R171). -/
def State.sampleClocks (s : State) : Four Bool :=
  Four.zipWith (fun x phase => sampleClockComes (sampleDivisor x.record.currentRate) phase) s.ports s.timeBase.samplePhase

/-- One REFCLK cycle out of reset. -/
def State.advance (s : State) : State :=
  { s with
    phase := s.phase.next s.timeBase.tickEnds
    timeBase := s.timeBase.next (s.ports.map fun x => sampleDivisor x.record.currentRate)
    pins := { s.pins with rxd := Four.zipWith (fun clock coming => if clock then coming.tail else coming) s.sampleClocks s.pins.rxd }
    ports := Four.zipWith LinePort.next s.ports (Four.zipWith sampleTaken s.sampleClocks s.pins.rxd)
    map := { s.map with timer := timerAfter s.map.timer }
    exchanges := s.exchanges.map Exchange.next
    notices := { s.notices with timer := timerAfter s.notices.timer }
    management :=
      { s.management with pendingRestart := s.management.pendingRestart.map fun r => { r with timer := r.timer - 1 } }
    words := { s.words with tracker := s.words.tracker.map AgedDeparture.next } }

/-- One REFCLK cycle. In reset nothing runs (log entry 13). -/
def tick (s : State) : State := if s.phase = .inReset then s else s.advance

end Sys2Proof.Machine
end

