-- ==== Sys2Proof/Machine/Step.lean ====
section
/-! DEFINITION. One step: the command at the front of the queue, or one REFCLK cycle when none waits. -/

namespace Sys2Proof.Machine

/-- Take the command at the front of the queue and answer what it does; on an empty queue the block idles for one
REFCLK cycle (log entry 1). -/
def step (s : State) : Host.Outcome State Fault Refusal :=
  match s.pending with
  | [] => .next (tick s)
  | c :: rest => exec c { s with pending := rest }

/-- `s` with the command a word spells at the front of its queue; no row of the table has bits, so none is spelled (log
entry 14). -/
def State.withFetchWord (s : State) (nbits w : Nat) : State :=
  match Sys2Proof.decodeTableWord nbits w with
  | some c => { s with pending := c :: s.pending }
  | none => s

end Sys2Proof.Machine
end

