-- ==== Sys2Proof/Safety.lean ====
section
/-! DEFINITION. What the spec says holds of the relay at every moment: the invariants that the statements speak of. Each
is decidable on a state. -/

namespace Sys2Proof.Safety

open Sys2Proof.Machine

/-! ## Notices (R141) -/

/-- "The notice list holds at most 8 notices, no two of the same kind and subject, with sequence numbers consecutive
modulo 256 from head to tail" (R141); and the next number follows the tail's. -/
abbrev NoticeListInOrder (u : NoticeUnit) : Prop :=
  u.list.length ≤ Config.noticeCapacity ∧
  u.list.Pairwise (fun a b => ¬ (a.kind = b.kind ∧ a.subject = b.subject)) ∧
  (u.list.map (·.sequence) ++ [u.next]).IsChain (fun a b => b = a + 1)

/-- No notice has been raised or numbered since the cold start: the list is empty and the next number is 0. -/
abbrev noNoticeYet (u : NoticeUnit) : Prop := u.list = [] ∧ u.next = 0

/-- The notice in flight stands at the head of the list until it has been acknowledged (R143, R145). -/
abbrev CarriedAtHead (u : NoticeUnit) : Prop :=
  ∀ f ∈ u.inFlight, f.acknowledged = false → u.list.head?.map (·.sequence) = some f.sequence

/-- The notice list is in order (R141), the notice in flight at its head until acknowledged, and the IMAGE_RESULT of a
start-up can still take sequence number 0 (R170): until start-up ends no notice is raised, and while its one raise is
outstanding no notice has been numbered. -/
abbrev NoticesInOrder (s : State) : Prop :=
  NoticeListInOrder s.notices ∧ CarriedAtHead s.notices ∧
  (s.phase = .inReset ∨ s.phase = .loading → noNoticeYet s.notices ∧ s.words.raised = []) ∧
  s.words.raised.countP (·.kind == .imageResult) ≤ 1 ∧
  (∀ r ∈ s.words.raised, r.kind = .imageResult → noNoticeYet s.notices)

/-! ## Exchanges (R111) -/

/-- "The exchange table holds at most 16 records, no two with the same requester, responder and tag, and no record's
attempt exceeds 2" (R111). -/
abbrev ExchangesInOrder (s : State) : Prop :=
  s.exchanges.length ≤ Config.exchangeCapacity ∧
  s.exchanges.Pairwise (fun x y => x.key ≠ y.key) ∧
  ∀ x ∈ s.exchanges, x.attempt ≤ 2

/-! ## Stations (R10, R78) -/

/-- The own address is a station address (R10); "The Station Map holds at most 96 entries, never two for one address, and
none for 00h, FFh or the current own address", in ascending address order (R78). -/
abbrev StationsInOrder (s : State) : Prop :=
  isStationAddress s.management.ownAddress = true ∧
  s.map.entries.length ≤ Config.mapCapacity ∧
  s.map.entries.Pairwise (fun a b => a.address.toNat < b.address.toNat) ∧
  ∀ e ∈ s.map.entries, isStationAddress e.address = true ∧ e.address ≠ s.management.ownAddress

/-! ## Ports (R59, R62, R73, R135) -/

/-- The two halves of every port agree with its administrative state and with each other: outside service, and on a port
that is down, and only there, both are OFF (Tables 3-1 and 4-1); "A port that is DISABLED or ISOLATED has an empty transmit
queue and its driver enable off" (R73); the receiver is in ECHO exactly while the transmitter is SENDING or in JAM (R52,
R53); and a receiver has a current slot only with a frame in progress (R38). -/
abbrev PortsCoherent (s : State) : Prop :=
  ∀ p : Port,
    ((s.port p).transmitter.state = .off ↔ ((s.admin p).isDown = true ∨ s.phase ≠ .inService)) ∧
    ((s.port p).receiver.state = .off ↔ (s.port p).transmitter.state = .off) ∧
    ((s.port p).transmitter.state = .off →
      (s.port p).transmitter.queue = [] ∧ (s.port p).transmitter.driverEnable = false) ∧
    (((s.port p).transmitter.state = .sending ∨ (s.port p).transmitter.state = .jam) ↔
      (s.port p).receiver.state = .echo) ∧
    ((s.port p).receiver.currentSlot.isSome = true → (s.port p).receiver.state.frameInProgress = true)

/-- "A port's current bit rate differs from its confirmed bit rate only while that port's provisional window runs or
waits for its reply to complete" (R135). -/
abbrev RatesConfirmed (s : State) : Prop :=
  ∀ p : Port, (s.port p).record.ratePhase = .steady →
    (s.port p).record.currentRate = (s.port p).record.confirmedRate

/-- "The list holds at most two characters (R63)" (R59): "the one just sent and the one being sent" (R63). Outside SENDING it is
empty (log entry 23). The character being sent, the one with no echo deadline yet, stands last and is there only with the
driver enable on; with none being sent one character stands at most. A deadline that still runs ends, with the driver enable on,
no later than the stop bit of the character being sent. -/
abbrev EchoListsHold (s : State) : Prop :=
  ∀ p : Port,
    let t := (s.port p).transmitter
    (t.state ≠ .sending → t.echoList = []) ∧ t.echoList.length ≤ 2 ∧
    (∀ e ∈ t.echoList.dropLast, e.deadline ≠ none) ∧
    ((∀ e ∈ t.echoList, e.deadline ≠ none) → t.echoList.length ≤ 1) ∧
    (t.driverEnable = false → ∀ e ∈ t.echoList, e.deadline ≠ none) ∧
    (t.driverEnable = true → ∀ e ∈ t.echoList, ∀ d ∈ e.deadline, d = 0 ∨ d + t.charTime ≤ s.charTime p)

/-- The backoff register "never holds 0000h" (R69). -/
abbrev BackoffNonzero (s : State) : Prop := ∀ p : Port, (s.port p).transmitter.backoffRegister ≠ 0

/-! ## Transmit queues (R30, R31) -/

/-- "every PRIORITY entry stands ahead of every ORDINARY entry" (R31). -/
abbrev bandsInOrder (q : List QueueEntry) : Prop :=
  q.Pairwise fun a b => ¬ (a.band = .ordinary ∧ b.band = .priority)

/-- "No transmit queue holds more than 16 entries, and no queue holds two entries naming the same slot" (R30); the bands stand in order "except an ORDINARY head whose frame is
being sent" (R31); a collision count is at most 2 and a GENERATED entry is PRIORITY (R30). -/
abbrev QueuesInOrder (s : State) : Prop :=
  ∀ p : Port,
    (s.port p).transmitter.queue.length ≤ Config.queueCapacity ∧
    ((s.port p).transmitter.queue.map (·.slot)).Nodup ∧
    bandsInOrder (s.port p).transmitter.waiting ∧
    ∀ e ∈ (s.port p).transmitter.queue, e.collisions ≤ 2 ∧ (e.origin = .generated → e.band = .priority)

/-! ## The Frame Store (R20, R21) -/

/-- The transmit queue entries that name slot `i`. -/
def entriesNaming (s : State) (i : SlotId) : Nat := (allPorts.map (s.entriesAt i)).sum

/-- The exchange records that name slot `i`. -/
def recordsNaming (s : State) (i : SlotId) : Nat := s.exchanges.countP (·.slot == i)

/-- The holders outside the reference count, each by its slot (R20). -/
def holders (s : State) : List SlotId :=
  allPorts.filterMap (fun p => (s.port p).receiver.currentSlot) ++ s.relay.input.map (·.slot) ++
    s.management.queue.map (·.slot)

/-- "The reference count of every slot equals the number of transmit-queue entries naming it plus the number of exchange
records naming it" (R21). -/
abbrev CountsAgree (s : State) : Prop := ∀ i : SlotId, (s.slot i).refs = entriesNaming s i + recordsNaming s i

/-- "a slot is FREE exactly when its reference count is zero and no receiver, generator, Relay Unit input-list entry or
decision, or management input-queue entry holds it" (R20; between events no decision and no building is in progress). A
FREE slot is empty, a slot has at most one holder outside the count, a slot so held has reference count 0 (R20, R27), and
the FILLING slots are the receivers' current slots (R25). -/
abbrev SlotsHeld (s : State) : Prop :=
  (∀ i : SlotId, (s.slot i).state = .free ↔ (s.slot i).refs = 0 ∧ i ∉ holders s) ∧
  (∀ i : SlotId, (s.slot i).state = .free → s.slot i = Slot.empty) ∧
  (holders s).Nodup ∧
  (∀ i ∈ holders s, (s.slot i).refs = 0) ∧
  (∀ i : SlotId, (s.slot i).state = .filling ↔ ∃ p : Port, (s.port p).receiver.currentSlot = some i)

/-- No two open exchanges have the same key (R111). -/
abbrev KeysDistinct (s : State) : Prop := s.exchanges.Pairwise (fun x y => x.key ≠ y.key)

/-- The announcements for slot `i` that wait for the Exchange Tracker. -/
def trackerWordsFor (s : State) (i : SlotId) : Nat := s.words.tracker.countP (·.slot == i)

/-- A slot is named by at most one open exchange (R21). An announcement waits for the tracker only while the slot's exchange is
open: the model drops at a closing those that would find no record (log entry 7). A request sent to one port has at most one copy, queued or departed and not yet taken, and none
while its exchange awaits the reply (Table 7-1). -/
abbrev CopiesAgree (s : State) : Prop :=
  (s.exchanges.map (·.slot)).Nodup ∧
  (∀ d ∈ s.words.tracker, ∃ x ∈ s.exchanges, x.slot = d.slot) ∧
  ∀ x ∈ s.exchanges, x.responderPort ≠ .flooded →
    entriesNaming s x.slot + trackerWordsFor s x.slot ≤
      if x.state = .awaitReply ∨ x.state = .retryAwait then 0 else 1

/-- The Frame Store and the blocks that name its slots agree (R20, R21). -/
abbrev PoolConsistent (s : State) : Prop := CountsAgree s ∧ SlotsHeld s ∧ KeysDistinct s ∧ CopiesAgree s

/-! ## Settings and small tables (R86, R101, R112, R140, R148, R158) -/

/-- Every setting lies in the range its rule gives: the aging period (R86), the timeout values (R112), the notice interval
and target (R140, R160), the manager set (R158), the rule list (R101), the input queue (R148). -/
abbrev SettingsInRange (s : State) : Prop :=
  (10 ≤ s.map.period ∧ s.map.period ≤ 3600) ∧
  (∀ c : TimeoutClass, 10 ≤ s.timeoutTable.get c ∧ s.timeoutTable.get c ≤ 2550 ∧ s.timeoutTable.get c % 10 = 0) ∧
  (1 ≤ s.notices.interval ∧ s.notices.interval ≤ 60) ∧
  (∀ t ∈ s.notices.target, isStationAddress t = true) ∧
  s.management.managers.length ≤ 4 ∧ s.management.managers.Nodup ∧
  (∀ a ∈ s.management.managers, isStationAddress a = true) ∧
  s.relay.rules.length ≤ Config.ruleCapacity ∧
  s.management.queue.length ≤ Config.requestCapacity

/-! ## Reset and the serial memory (R172) -/

/-- "In reset every DE output is low, every TXD output is high, SCS is high and SCLK is low" (R172). -/
abbrev QuietInReset (s : State) : Prop :=
  s.phase = .inReset →
    (∀ p : Port, (s.port p).transmitter.driverEnable = false ∧ s.txd p = .mark) ∧
    s.pins.scsHigh = true ∧ s.pins.sclkRuns = false

/-- The loader is in a pass. -/
abbrev loaderInPass (s : State) : Prop := s.loader.state = .pass1 ∨ s.loader.state = .pass2

/-- "SCS is low during a pass of the Image Loader (R167) and high otherwise. SCLK runs at REFCLK divided by 8 during a
load and is low otherwise" (R172): a load is in progress exactly in the loading phase, in one of its two passes. -/
abbrev PinsFollowLoader (s : State) : Prop :=
  (loaderInPass s ↔ s.phase = .loading) ∧ (s.pins.scsHigh = false ↔ loaderInPass s) ∧
  (s.pins.sclkRuns = true ↔ s.phase = .loading)

end Sys2Proof.Safety
end

