-- ==== Sys2Proof/Certificates/Slice0/Obligations.lean ====
section
/-! DEFINITION. The statements for the provers, `Obligations.<Name>`, and before them the vocabulary they share. A statement
that a command completes has the form: there is a `t` with `exec c s = .next t`, and what `t` holds. -/

open Sys2Proof Sys2Proof.Machine Sys2Proof.Safety

namespace Sys2Proof.Statements

/-! ## Vocabulary -/

/-- `t` differs from `s` at line port `p` alone. -/
def OnlyPort (s t : State) (p : Port) : Prop :=
  t = { s with ports := t.ports } ∧ ∀ q : Port, q ≠ p → t.port q = s.port q

/-- `t` differs from `s` at line port `p`, in the slots and in the words outstanding alone. -/
def OnlyPortAndPool (s t : State) (p : Port) : Prop :=
  t = { s with ports := t.ports, slots := t.slots, words := t.words } ∧ ∀ q : Port, q ≠ p → t.port q = s.port q

/-- `t` has the slots of `s` but for slot `i`. -/
def OnlySlot (s t : State) (i : SlotId) : Prop := ∀ j : SlotId, j ≠ i → t.slot j = s.slot j

/-- No Port Receiver, input list or input queue but the place named holds slot `i` (R20: one holder at a time). -/
def HeldByRequestAlone (s : State) (i : SlotId) (rest : List HeldFrame) : Prop :=
  s.receiverHolds i = false ∧ (∀ h ∈ s.relay.input, h.slot ≠ i) ∧ ∀ h ∈ rest, h.slot ≠ i

/-- Slot `i`, the current slot of port `p`, has no other holder: no reference, no other receiver, no list (R20, R25). -/
def ReceiversAlone (s : State) (p : Port) (i : SlotId) : Prop :=
  (s.slot i).refs = 0 ∧ (∀ q : Port, q ≠ p → (s.port q).receiver.currentSlot ≠ some i) ∧
  (∀ h ∈ s.relay.input, h.slot ≠ i) ∧ ∀ h ∈ s.management.queue, h.slot ≠ i

/-- The request `h` stands at the head of the input queue in service, in a slot that no entry and no record names, and `i`
is the lowest-numbered FREE slot, which its reply will take (R27, R149). -/
structure AtHead (s : State) (h : HeldFrame) (rest : List HeldFrame) (i : SlotId) : Prop where
  inService : s.phase = .inService
  queue : s.management.queue = h :: rest
  free : s.lowestFree = some i
  inUse : (s.slot h.slot).state = .inUse
  refs : (s.slot h.slot).refs = 0
  alone : HeldByRequestAlone s h.slot rest

/-- The queue of port `p` admits a further entry with no displacement (R32). -/
def HasRoom (s : State) (p : Port) : Prop :=
  (s.admin p).isDown = false ∧ (s.port p).transmitter.queue.length < 16

/-- The request at the head passes the manager check, and its reply will be admitted (R150, R32). -/
structure Ready (s : State) (h : HeldFrame) (rest : List HeldFrame) (i : SlotId) : Prop extends AtHead s h rest i where
  accepted : s.management.managers = [] ∨ (s.slot h.slot).source ∈ s.management.managers
  room : HasRoom s h.ingress

/-- The queue entry of a reply, a report or a notice in slot `i` (R28). -/
def generatedEntry (i : SlotId) : QueueEntry := ⟨.priority, 0, .generated, i⟩

/-- The port with a new entry admitted to its queue (R32): an entry that joins the empty queue of an ENABLED port takes an
IDLE transmitter to WAIT_GAP (R61). -/
def admitted (x : LinePort) (e : QueueEntry) : LinePort :=
  { x with
    transmitter := { x.transmitter with
      queue := x.transmitter.joined e
      state := if x.record.admin = .enabled ∧ x.transmitter.state = .idle then .waitGap else x.transmitter.state } }

/-- The reply to `request` with a payload, as it stands in its slot with one reference (R16, R151). -/
def replySlot (request : Slot) (own : Byte) (payload : List Byte) : Slot :=
  ⟨frameCharacters request.source own (controlOf .reply 0 request.tag) payload, 1, .inUse⟩

/-- `t` is `b` (the state with the command's effect) with the reply to the request `h` of `s` built in slot `i`, admitted
to the queue of the ingress port, and the request finished: its slot FREE and the request out of the queue (R149, R151).
Nothing else differs. -/
def Replied (s b t : State) (h : HeldFrame) (rest : List HeldFrame) (i : SlotId) (payload : List Byte) : Prop :=
  t = { b with slots := t.slots, ports := t.ports, management := { b.management with queue := rest } } ∧
  t.slot i = replySlot (s.slot h.slot) s.management.ownAddress payload ∧
  t.slot h.slot = Slot.empty ∧
  (∀ j : SlotId, j ≠ i → j ≠ h.slot → t.slot j = b.slot j) ∧
  t.port h.ingress = admitted (b.port h.ingress) (generatedEntry i) ∧
  ∀ q : Port, q ≠ h.ingress → t.port q = b.port q

/-- A port after it has refused an admission at its full queue (R33). -/
def refusing (x : LinePort) : LinePort :=
  { x with counters := { x.counters with queueFull := stoppingSucc x.counters.queueFull } }

/-- Port `p` refuses a reply: it is down, or its queue is full with no ORDINARY entry to displace (R151). -/
def RefusesReply (s : State) (p : Port) : Prop :=
  (s.admin p).isDown = true ∨
    ((s.port p).transmitter.queue.length = 16 ∧ ∀ x ∈ (s.port p).transmitter.waiting, x.band = .priority)

/-- Port `p` of `s` after it has refused a PRIORITY admission: as it was when it is down, else with the refusal counted (R32,
R33). -/
def refusedAt (s : State) (p : Port) : LinePort :=
  if (s.admin p).isDown = true then s.port p else refusing (s.port p)

/-- `y` is the port `x` when the PRIORITY entry `e` has displaced an entry of its full queue and `kept` is left of those that
wait (R33): the displacement is counted, `e` stands among `kept`, behind the entry in transmission and every PRIORITY entry
and ahead of the ORDINARY ones when the bands stood in order, and nothing else of the port changes. -/
def DisplacedFor (x y : LinePort) (e : QueueEntry) (kept : List QueueEntry) : Prop :=
  y = { x with
    counters := { x.counters with displacements := stoppingSucc x.counters.displacements }
    transmitter := { x.transmitter with
      queue := y.transmitter.queue
      state := if x.record.admin = .enabled ∧ x.transmitter.state = .idle then .waitGap else x.transmitter.state } } ∧
  y.transmitter.queue.length = 16 ∧ y.transmitter.queue.Perm (e :: x.transmitter.inTransmission ++ kept) ∧
  (bandsInOrder x.transmitter.waiting →
    y.transmitter.queue = x.transmitter.inTransmission ++ kept.filter (·.band == .priority) ++
      e :: kept.filter (·.band == .ordinary))

/-- The framer at a rate application (R4): it gives up the character it assembles, and accepts a start edge only once the line is
judged at mark, as it may be at that moment. -/
def framerAtRate (f : Framer) : Framer :=
  { f with assembling := false, waitsForMark := decide (judgedLevel f.recent = .space) }

/-- A serial memory that answers the bytes, each most significant bit first, and is pulled behind them (R167). -/
def memoryOf (bytes : List Byte) (pullUp : Bool) : SerialMemory :=
  ⟨bytes.flatMap fun b => (List.range 8).map fun k => b.getMsbD k, pullUp⟩

/-- `t` is `b` (the state with the command's effect) with the request `h` of `s` finished and its reply refused: the reply's slot
`i` and the request's are FREE, and a full queue has counted the refusal (R151). Nothing else differs. -/
def Unanswered (s b t : State) (h : HeldFrame) (rest : List HeldFrame) (i : SlotId) : Prop :=
  t = { b with slots := t.slots, ports := t.ports, management := { b.management with queue := rest } } ∧
  t.slot i = Slot.empty ∧ t.slot h.slot = Slot.empty ∧
  (∀ j : SlotId, j ≠ i → j ≠ h.slot → t.slot j = b.slot j) ∧
  t.port h.ingress =
    (if (s.admin h.ingress).isDown = true then b.port h.ingress else refusing (b.port h.ingress)) ∧
  ∀ q : Port, q ≠ h.ingress → t.port q = b.port q

/-- The head request passes the manager check and has the payload, and its port will refuse the reply. -/
structure Unheard (s : State) (h : HeldFrame) (rest : List HeldFrame) (i : SlotId) (payload : List Byte) : Prop
    extends AtHead s h rest i where
  accepted : s.management.managers = [] ∨ (s.slot h.slot).source ∈ s.management.managers
  asks : (s.slot h.slot).payload = payload
  refuses : RefusesReply s h.ingress
  notHeld : s.heldOutside i = false

/-- The words outstanding after entry `e` has left the queue of port `p` of `s` with manner `m` (R34): the announcement of a
RELAYED entry waits for the Exchange Tracker if an open exchange names the slot and the manner is one the tracker acts on;
that of a GENERATED entry waits for the Notice Unit if the slot holds the notice in flight with a copy not yet announced,
else for the Management Unit if the departure watch names the slot more often than announcements wait (log entry 7). -/
def announcedWords (s : State) (p : Port) (m : Manner) (e : QueueEntry) : Words :=
  let d : Departure := ⟨p, e.slot, m⟩
  match e.origin with
  | .relayed =>
    if (m = .completed ∨ m = .discarded ∨ m = .displaced) ∧ ∃ x ∈ s.exchanges, x.slot = e.slot then
      { s.words with tracker := s.words.tracker ++ [⟨d, 0⟩] }
    else s.words
  | .generated =>
    if m = .displaced ∨ m = .withdrawn then s.words
    else if (s.notices.inFlight.any fun f => f.slot == e.slot && decide (s.words.noticeCopies.length < f.copies)) then
      { s.words with noticeCopies := s.words.noticeCopies ++ [d] }
    else if s.words.watchedReplies.countP (·.slot == e.slot) < s.management.watch.countP (·.slot == e.slot) then
      { s.words with watchedReplies := s.words.watchedReplies ++ [d] }
    else s.words

/-- The words outstanding after a flush of the queue of port `p`: every entry is announced as FLUSHED, from head to tail
(R36). -/
def flushedWords (s : State) (p : Port) : Words :=
  (s.port p).transmitter.queue.foldl (fun w e => announcedWords { s with words := w } p .flushed e) s.words

/-- The slots after port `p` of `s` has gone down (R25, R36, R39), those of `others` aside: each entry flushed releases one
reference on its slot, the last one freeing it; the receiver's current slot is FREE; every other slot is as it was. -/
def SlotsGivenUp (s t : State) (p : Port) (others : List SlotId) : Prop :=
  let queue := (s.port p).transmitter.queue
  (∀ e ∈ queue, (queue.map (·.slot)).Nodup → e.slot ∉ others → s.heldOutside e.slot = false →
    (1 < (s.slot e.slot).refs → t.slot e.slot = { s.slot e.slot with refs := (s.slot e.slot).refs - 1 }) ∧
    ((s.slot e.slot).refs = 1 → t.slot e.slot = Slot.empty)) ∧
  ∀ i : SlotId, i ∉ others → (∀ e ∈ queue, e.slot ≠ i) →
    ((s.port p).receiver.currentSlot = some i → ReceiversAlone s p i → t.slot i = Slot.empty) ∧
    ((s.port p).receiver.currentSlot ≠ some i → t.slot i = s.slot i)

/-- The code of the row that executes a management request (Table 10-1). -/
def requestCode : Instr → Option Byte
  | .readStatus => some 0x01
  | .readCounters => some 0x02
  | .readStation => some 0x10
  | .writeStation => some 0x11
  | .removeStation => some 0x12
  | .listStations => some 0x13
  | .flushLearned => some 0x14
  | .readRule => some 0x20
  | .insertRule => some 0x21
  | .deleteRule => some 0x22
  | .replaceRule => some 0x23
  | .setRuleDefaults => some 0x24
  | .readPort => some 0x30
  | .setPortState => some 0x31
  | .setRate => some 0x32
  | .confirmRate => some 0x33
  | .setPortOptions => some 0x34
  | .readExchanges => some 0x40
  | .setTimeouts => some 0x41
  | .setAging => some 0x42
  | .setManagers => some 0x50
  | .setAddress => some 0x51
  | .setNoticeTarget => some 0x52
  | .ackNotice => some 0x53
  | .restart => some 0x60
  | _ => none

/-- The argument count of a row (Table 10-1). For SET_MANAGERS it is the count that its first argument names, and one
more; a count above 4 fails before the addresses are counted (R158). -/
def argumentCount (i : Instr) (args : List Byte) : Nat :=
  match i with
  | .readCounters => 3
  | .writeStation => 4
  | .insertRule | .replaceRule => 9
  | .setRuleDefaults | .setPortState | .setPortOptions | .setAging | .setNoticeTarget => 2
  | .setRate => 3
  | .setTimeouts => 4
  | .setManagers =>
    match args with
    | n :: _ => if 4 < n.toNat then 1 else n.toNat + 1
    | [] => 1
  | _ => 1

end Sys2Proof.Statements

open Sys2Proof.Statements

/-! ## The queue of commands and time -/

/-- A step takes the command at the front of the queue and runs it on the queue's rest. -/
def Obligations.StepRunsFrontCommand : Prop :=
  ∀ (c : Instr) (rest : List Instr) (s : State), s.pending = c :: rest → step s = exec c { s with pending := rest }

/-- Every command answers a next state and leaves the queue of commands as it is: nothing in the spec stops the relay. -/
def Obligations.EveryCommandAnswersNext : Prop :=
  ∀ (c : Instr) (s : State), ∃ t, exec c s = .next t ∧ t.pending = s.pending

/-- A line port with every interval and timer that runs set to 0, and its framer's samples as at reset: what is left of it, the
judged level included, only events move. -/
def Sys2Proof.Statements.timelessPort (x : LinePort) : LinePort :=
  { x with
    receiver := { x.receiver with gap := 0, markInterval := 0, spaceInterval := 0 }
    framer := { Framer.reset with level := x.framer.level }
    transmitter := { x.transmitter with
      backoff := x.transmitter.backoff.map fun b => { b with waited := 0 }
      charTime := 0, jamTime := 0, quietInterval := 0
      echoList := x.transmitter.echoList.map fun c => { c with deadline := c.deadline.map fun _ => 0 } }
    record := { x.record with
      ratePhase := match x.record.ratePhase with
        | .window w _ => .window w 0
        | phase => phase
      recovery := x.record.recovery.map fun _ => 0 } }

/-- The relay with every clock, interval, timer and age set to 0, a flush restart as before its tick, and the samples of the
receive inputs, taken and to come, left out. -/
def Sys2Proof.Statements.timeless (s : State) : State :=
  { s with
    phase := match s.phase with
      | .flushing _ => .flushing false
      | phase => phase
    timeBase := State.reset.timeBase
    pins := { s.pins with rxd := State.reset.pins.rxd }
    ports := s.ports.map timelessPort
    map := { s.map with timer := s.map.timer.map fun _ => 0 }
    exchanges := s.exchanges.map fun x => { x with deadline := x.deadline.map fun _ => 0 }
    notices := { s.notices with timer := s.notices.timer.map fun _ => 0 }
    management := { s.management with
      pendingRestart := s.management.pendingRestart.map fun r => { r with timer := 0 } }
    words := { s.words with tracker := s.words.tracker.map fun d => { d with age := 0 } } }

/-- On the empty queue a step is one REFCLK cycle (the model's choice, log entry 1): in reset nothing changes (log entry
13); out of reset only clocks, intervals, timers and ages move, the framers take their samples, and a flush restart may reach
its tick. Everything else in the relay stays. -/
def Sys2Proof.Statements.IdleStepMovesOnlyTime : Prop :=
  ∀ s : State, s.pending = [] →
    ∃ t, step s = .next t ∧ (s.phase = .inReset → t = s) ∧ timeless t = timeless s ∧
      (t.phase = s.phase ∨ (s.phase = .flushing false ∧ t.phase = .flushing true))

/-- One cycle out of reset in the intervals of a port: the quiet interval grows at mark level outside OFF, the space
interval at space level outside OFF, the mark interval at mark level in RESYNC, the gap interval with a frame in progress
and no character begun, the character time while one is sent, the jam in JAM, the time waited in BACKOFF, and the recovery
timer at mark level. The echo deadlines and the timers of windows, exchanges, aging, notices and the pending restart run
down and rest at 0; an announcement that waits for the tracker ages (log entry 26). -/
def Sys2Proof.Statements.CycleAdvancesIntervals : Prop :=
  ∀ (s : State) (p : Port), s.phase ≠ .inReset →
    let x := s.port p
    let y := (tick s).port p
    (y.transmitter.quietInterval =
      if x.transmitter.state ≠ .off ∧ x.framer.level = .mark then x.transmitter.quietInterval + 1
      else x.transmitter.quietInterval) ∧
    (y.receiver.spaceInterval =
      if x.receiver.state ≠ .off ∧ x.framer.level = .space then x.receiver.spaceInterval + 1
      else x.receiver.spaceInterval) ∧
    (y.receiver.markInterval =
      if x.receiver.state = .resync ∧ x.framer.level = .mark then x.receiver.markInterval + 1
      else x.receiver.markInterval) ∧
    (y.receiver.gap =
      if x.receiver.state.frameInProgress = true ∧ x.framer.assembling = false then x.receiver.gap + 1
      else x.receiver.gap) ∧
    (∀ n, x.record.recovery = some n → x.framer.level = .mark → y.record.recovery = some (n + 1)) ∧
    (∀ n, x.record.recovery = some n → x.framer.level = .space → y.record.recovery = some n) ∧
    (y.transmitter.charTime =
      if x.transmitter.state = .sending ∧ x.transmitter.driverEnable = true then x.transmitter.charTime + 1
      else x.transmitter.charTime) ∧
    (y.transmitter.jamTime =
      if x.transmitter.state = .jam then x.transmitter.jamTime + 1 else x.transmitter.jamTime) ∧
    (∀ b, x.transmitter.backoff = some b → y.transmitter.backoff = some { b with waited := b.waited + 1 }) ∧
    y.transmitter.echoList =
      x.transmitter.echoList.map (fun c => { c with deadline := c.deadline.map fun n => n - 1 }) ∧
    (∀ w n, x.record.ratePhase = .window w n → y.record.ratePhase = .window w (n - 1)) ∧
    (tick s).map.timer = s.map.timer.map (fun n => n - 1) ∧
    (tick s).notices.timer = s.notices.timer.map (fun n => n - 1) ∧
    (tick s).exchanges = s.exchanges.map (fun e => { e with deadline := e.deadline.map fun n => n - 1 }) ∧
    (tick s).management.pendingRestart =
      s.management.pendingRestart.map (fun r => { r with timer := r.timer - 1 }) ∧
    (tick s).words.tracker = s.words.tracker.map fun d => { d with age := d.age + 1 }

/-- Each port samples its receive input at its sample clock, REFCLK divided for its rate: there the framer takes the next sample
to come, mark when none is (the model's choice, log entry 5), and at the cycles between it takes none. -/
def Sys2Proof.Statements.FramersSampleAtTheirClock : Prop :=
  ∀ (s : State) (p : Port), s.phase ≠ .inReset →
    let next := (s.timeBase.samplePhase.get p + 1) % sampleDivisor (s.rate p)
    let coming := s.pins.rxd.get p
    (tick s).timeBase.samplePhase.get p = next ∧
    (next = 0 → ((tick s).port p).framer = (s.port p).framer.sample (coming.headD true) ∧
      (tick s).pins.rxd.get p = coming.tail) ∧
    (next ≠ 0 → ((tick s).port p).framer = (s.port p).framer ∧ (tick s).pins.rxd.get p = coming)

/-- Time passes on the empty queue one REFCLK cycle a step, and moves the intervals, the timers and the framers' samples alone. -/
def Obligations.TimePassesOnEmptyQueue : Prop :=
  IdleStepMovesOnlyTime ∧ CycleAdvancesIntervals ∧ FramersSampleAtTheirClock

/-- The bit rates of Table 8-2. -/
def Sys2Proof.Statements.bitRate : RateCode → Nat
  | 0 => 9600
  | 1 => 19200
  | 2 => 38400
  | 3 => 57600
  | 4 => 115200
  | 5 => 230400
  | 6 => 460800
  | 7 => 921600

/-- The sample clock of a port, sixteen times its bit rate, is REFCLK (14.7456 MHz) divided by 921600 over the bit rate; the
millisecond tick divides REFCLK in a cycle of 14746, 14745, 14746, 14745 and 14746 cycles, five ticks taking 5 ms.
A timer programmed for milliseconds runs down no earlier than its interval; that it does so less than one cycle after it is
the model's choice (log entry 10). -/
def Obligations.ClocksDivideReferenceClock : Prop :=
  (∀ r : RateCode, 16 * bitRate r * sampleDivisor r = 14745600 ∧ sampleDivisor r = 921600 / bitRate r) ∧
  [0, 1, 2, 3, 4].map tickCycles = [14746, 14745, 14746, 14745, 14746] ∧
  1000 * (([0, 1, 2, 3, 4].map tickCycles).sum) = 5 * 14745600 ∧
  (∀ n : Nat, n * 14745600 ≤ 1000 * msCycles n ∧ 1000 * msCycles n < n * 14745600 + 1000) ∧
  ∀ (b : TimeBase) (d : Four Nat),
    (b.cycle + 1 < tickCycles b.tick → (b.next d).cycle = b.cycle + 1 ∧ (b.next d).tick = b.tick) ∧
    (tickCycles b.tick ≤ b.cycle + 1 → (b.next d).cycle = 0 ∧ (b.next d).tick = (b.tick + 1) % 5)

/-! ## Characters, the check and frames -/

/-- A framer that takes a sample has it as the most recent of three and keeps its judged level; a wait for mark ends with the
first sample at which the line is judged at mark (log entry 5), and begins where a stop bit is judged at space, a framing
error. From a start edge on, it times the character: with the majority of the samples 7, 8 and 9 after the edge at mark the edge was a false start, and the framer waits
again; else the three samples of bit n, the start bit being bit 0 and the stop bit 10, are those at 16 n + 7, 16 n + 8 and
16 n + 9, the three nearest its centre, and the character is complete with the last of them (log entry 5). -/
def Sys2Proof.Statements.FramerSamplesBitCentres : Prop :=
  (∀ (f : Framer) (high : Bool),
    let recent : LevelSamples := ⟨f.recent.second, f.recent.third, high⟩
    (f.sample high).recent = recent ∧ (f.sample high).level = f.level ∧
    ((f.sample high).waitsForMark = true ↔
      judgedLevel recent = .space ∧ (f.waitsForMark = true ∨ (f.assembling = true ∧ f.clock = 168))) ∧
    (f.assembling = false →
      f.sample high = { f with recent := recent, waitsForMark := (f.sample high).waitsForMark })) ∧
  ∀ (f : Framer) (x : Nat → Bool), f.assembling = true → f.clock = 0 → f.samples = ⟨0, 0, 0⟩ →
    let after (n : Nat) : Framer := ((List.range n).map fun k => x (k + 1)).foldl Framer.sample f
    (∀ n, n < 9 → (after n).assembling = true) ∧
    (2 ≤ [x 7, x 8, x 9].count true → ∀ n, 9 ≤ n → (after n).assembling = false) ∧
    ([x 7, x 8, x 9].count true < 2 →
      ((after 169).waitsForMark = true ↔ [x 167, x 168, x 169].count true < 2)) ∧
    ([x 7, x 8, x 9].count true < 2 → ∀ n,
      (after n).assembling = true ∧ (after n).clock = min n 169 ∧ (n < 169 → (after n).complete = none) ∧
      (169 ≤ n → (after n).complete = judgedCharacter (after n).samples ∧ ∀ b, b < 11 →
        (after n).samples.first.getLsbD b = x (16 * b + 7) ∧ (after n).samples.second.getLsbD b = x (16 * b + 8) ∧
        (after n).samples.third.getLsbD b = x (16 * b + 9)))

/-- A character sampled at its bits' centres comes back with its value and mark bit and no framing error, even when one of
the three sample sets differs anywhere: the difference shows in the noise mark alone. -/
def Sys2Proof.Statements.MajorityOutvotesOneSample : Prop :=
  ∀ (c : Character) (bad : BitVec 11),
    let x : Delivered := ⟨c.value, c.mark, bad != c.lineBits, false⟩
    judgedCharacter ⟨bad, c.lineBits, c.lineBits⟩ = some x ∧ judgedCharacter ⟨c.lineBits, bad, c.lineBits⟩ = some x ∧
    judgedCharacter ⟨c.lineBits, c.lineBits, bad⟩ = some x

/-- The framer samples each bit three times at its centre, and one bad sample of a bit shows in the noise mark alone. -/
def Obligations.OneBadSampleOnlyMarksNoise : Prop := FramerSamplesBitCentres ∧ MajorityOutvotesOneSample

/-- Running the check register on through the two characters of its own value, high byte first, leaves 0000h. -/
def Sys2Proof.Statements.CheckRunsToZeroThroughItself : Prop :=
  ∀ bs : List Byte, checkRun (checkOf bs) [highByte (checkOf bs), lowByte (checkOf bs)] = 0

/-- A control character is read back as the kind, hop count and tag it was built from, and a control character built from the
fields of another is that other. -/
def Obligations.ControlCharacterFieldsRoundTrip : Prop :=
  (∀ (k : Kind) (hop : HopCount) (tag : Tag),
    controlKind (controlOf k hop tag) = k ∧ controlHop (controlOf k hop tag) = hop ∧
    controlTag (controlOf k hop tag) = tag) ∧
  ∀ b : Byte, controlOf (controlKind b) (controlHop b) (controlTag b) = b

/-- Every frame a generator builds from a payload of at most 60 characters has 6 + L characters, the first alone a mark
character, its fields where Table 1-3 has them, and a good check. -/
def Sys2Proof.Statements.BuiltFrameReadsBack : Prop :=
  ∀ (destination source control : Byte) (payload : List Byte) (refs : Nat) (st : SlotState), payload.length ≤ 60 →
    let f : Slot := ⟨frameCharacters destination source control payload, refs, st⟩
    f.length = 6 + payload.length ∧ f.chars.map (·.mark) = true :: List.replicate (5 + payload.length) false ∧
    f.destination = destination ∧ f.source = source ∧ f.control = control ∧ f.payloadLength = payload.length ∧
    f.payload = payload ∧ f.carriedCheck = f.computedCheck

/-- A generated frame is read back as what it was built from, and its check comes out good. -/
def Obligations.GeneratedFrameIsGood : Prop := BuiltFrameReadsBack ∧ CheckRunsToZeroThroughItself

/-- The hop rewrite of a relayed frame: for a complete frame with hop count below 3, the hop count rises by one, kind, tag,
addresses, length, payload and mark bits stay, and the check is good over the frame as it then stands. -/
def Obligations.HopRewriteKeepsFrame : Prop :=
  ∀ f : Slot, f.payloadLength ≤ 60 → f.length = 6 + f.payloadLength → f.hop ≠ 3 →
    f.raiseHop.hop = f.hop + 1 ∧ f.raiseHop.kind = f.kind ∧ f.raiseHop.tag = f.tag ∧
    f.raiseHop.destination = f.destination ∧ f.raiseHop.source = f.source ∧
    f.raiseHop.payloadLength = f.payloadLength ∧ f.raiseHop.payload = f.payload ∧
    f.raiseHop.chars.map (·.mark) = f.chars.map (·.mark) ∧ f.raiseHop.carriedCheck = f.raiseHop.computedCheck ∧
    f.raiseHop.refs = f.refs ∧ f.raiseHop.state = f.state

/-! ## The judged line level (JUDGED_LINE_LEVEL_CHANGE) -/

/-- The two line commands bring what their port's receive input will give at the sample clocks to come, behind what is known to
come (the model's choice, log entry 5); the rest of what they do is what they do with nothing brought. -/
def Sys2Proof.Statements.LineCommandsBringSamples : Prop :=
  ∀ (p : Port) (coming : List Bool) (s : State),
    let brought := { s with pins := { s.pins with rxd := s.pins.rxd.set p (s.pins.rxd.get p ++ coming) } }
    exec (.judgedLineLevelChange p coming) s = exec (.judgedLineLevelChange p []) brought ∧
    exec (.characterDelivered p coming) s = exec (.characterDelivered p []) brought

/-- Out of reset the judged level of a port becomes the majority of its three most recent samples. A change to mark ends the
space interval and stuck raised; a change to space restarts the mark, quiet and recovery intervals, and is a start edge for a
framer that waits for one, and not first for mark: a character begins, with no bit sampled. No other piece of the port and nothing else in the relay changes. -/
def Sys2Proof.Statements.LevelChangesWithMajority : Prop :=
  (∀ a b c : Bool, judgedLevel ⟨a, b, c⟩ = if 2 ≤ [a, b, c].count true then .mark else .space) ∧
  ∀ (p : Port) (s : State), s.phase ≠ .inReset →
    let x := s.port p
    let judged := judgedLevel x.framer.recent
    (judged = x.framer.level → exec (.judgedLineLevelChange p []) s = .next s) ∧
    (judged = .mark → x.framer.level = .space →
      ∃ t, exec (.judgedLineLevelChange p []) s = .next t ∧ OnlyPort s t p ∧
        t.port p = { x with
          framer := { x.framer with level := .mark }
          receiver := { x.receiver with spaceInterval := 0, stuckRaised := false } }) ∧
    (judged = .space → x.framer.level = .mark →
      ∃ t, exec (.judgedLineLevelChange p []) s = .next t ∧ OnlyPort s t p ∧
        t.port p = { x with
          framer :=
            if x.framer.assembling = true ∨ x.framer.waitsForMark = true then { x.framer with level := .space }
            else { x.framer with level := .space, assembling := true, clock := 0, samples := ⟨0, 0, 0⟩ }
          receiver := { x.receiver with markInterval := 0 }
          transmitter := { x.transmitter with quietInterval := 0 }
          record := { x.record with recovery := x.record.recovery.map fun _ => 0 } })

/-- The judged level of a port, and how its receive input is brought. -/
def Obligations.JudgedLevelFollowsMajority : Prop := LineCommandsBringSamples ∧ LevelChangesWithMajority

/-! ## Receiving (CHARACTER_DELIVERED, ABORT_GAP, END_OF_RESYNC, LINE_STUCK) -/

/-- The framer of port `p` has completed a character, all three samples of its stop bit taken, and its samples give `c`. -/
def Sys2Proof.Statements.Arrives (s : State) (p : Port) (c : Delivered) : Prop :=
  s.phase ≠ .inReset ∧ (s.port p).framer.assembling = true ∧ 169 ≤ (s.port p).framer.clock ∧
    judgedCharacter (s.port p).framer.samples = some c

/-- The gap interval of port `p` is below 2 character times: a character that comes is not too late for the frame in progress
(R44, R46). -/
def Sys2Proof.Statements.InTime (s : State) (p : Port) : Prop := (s.port p).receiver.gap < 2 * s.charTime p

/-- Port `p` has a shed frame in progress (R38, R43). -/
structure Sys2Proof.Statements.ShedInProgress (s : State) (p : Port) : Prop where
  inProgress : (s.port p).receiver.state.frameInProgress = true
  noSlot : (s.port p).receiver.currentSlot = none
  shedding : (s.port p).receiver.shedding = true

/-- A mark character at port `p` makes its receiver claim a slot: in HUNT (R42), and in a shed frame (R43, R47). -/
def Sys2Proof.Statements.ClaimsAtMark (s : State) (p : Port) : Prop :=
  (s.port p).receiver.state = .hunt ∨ (ShedInProgress s p ∧ InTime s p)

/-- The port with the framer waiting for its next start edge. -/
def Sys2Proof.Statements.waitingPort (s : State) (p : Port) : LinePort :=
  { s.port p with framer := { (s.port p).framer with assembling := false } }

/-- A mark character in HUNT or in a shed frame with more than 4 slots FREE begins a stored frame in the lowest-numbered FREE
slot; no abort counter rises. -/
def Sys2Proof.Statements.MarkCharacterBeginsStoredFrame : Prop :=
  ∀ (p : Port) (c : Delivered) (i : SlotId) (s : State),
    Arrives s p c → ClaimsAtMark s p → c.mark = true → c.framingError = false →
    4 < s.freeCount → s.lowestFree = some i →
    ∃ t, exec (.characterDelivered p []) s = .next t ∧ OnlyPortAndPool s t p ∧ t.words = s.words ∧
      OnlySlot s t i ∧ t.slot i = ⟨[⟨c.value, true⟩], 0, .filling⟩ ∧ t.freeCount + 1 = s.freeCount ∧
      t.port p = { waitingPort s p with
        receiver := { (s.port p).receiver with
          checkRegister := checkTake 0xFFFF c.value, currentSlot := some i, gap := 0, length := none,
          noiseSeen := c.noise, position := 1, shedding := false, state := .header } }

/-- With 4 or fewer slots FREE a mark character in HUNT or in a shed frame begins a shed frame: the shed counter rises by one,
the check register is FFFFh, no noise is seen and the length is absent, no slot changes and no abort counter rises. -/
def Sys2Proof.Statements.ReceiverShedsAtReserve : Prop :=
  ∀ (p : Port) (c : Delivered) (s : State),
    Arrives s p c → ClaimsAtMark s p → c.mark = true → c.framingError = false →
    s.freeCount ≤ 4 →
    ∃ t, exec (.characterDelivered p []) s = .next t ∧ OnlyPort s t p ∧
      (t.port p).counters = { (s.port p).counters with shed := stoppingSucc (s.port p).counters.shed } ∧
      (t.port p).receiver.shedding = true ∧ (t.port p).receiver.state = .header ∧
      (t.port p).receiver.position = 1 ∧ (t.port p).receiver.gap = 0 ∧ (t.port p).receiver.currentSlot = none ∧
      (t.port p).receiver.checkRegister = 0xFFFF ∧ (t.port p).receiver.noiseSeen = false ∧
      (t.port p).receiver.length = none ∧
      (t.port p).transmitter = (s.port p).transmitter ∧ (t.port p).record = (s.port p).record

/-- A character ignored in HUNT, one without its mark bit or with a framing error, raises the stray counter and changes
nothing else; in OFF and RESYNC every character is ignored and counted nowhere. -/
def Sys2Proof.Statements.IgnoredCharacters : Prop :=
  ∀ (p : Port) (c : Delivered) (s : State), Arrives s p c →
    ((s.port p).receiver.state = .hunt → (c.mark = false ∨ c.framingError = true) →
      ∃ t, exec (.characterDelivered p []) s = .next t ∧ OnlyPort s t p ∧
        t.port p = { waitingPort s p with
          counters := { (s.port p).counters with stray := stoppingSucc (s.port p).counters.stray } }) ∧
    ((s.port p).receiver.state = .off ∨ (s.port p).receiver.state = .resync →
      ∃ t, exec (.characterDelivered p []) s = .next t ∧ OnlyPort s t p ∧ t.port p = waitingPort s p)

/-- A shed frame follows the positions and lengths of a stored one with nothing stored: each character moves the position on
and restarts the gap interval, the length at position 3 leads to BODY or CHECK or, above 60, to RESYNC, the character at
position 3 + L leads to CHECK, and after the second check character the receiver is in HUNT. No slot, counter, check or
noise changes. -/
def Sys2Proof.Statements.ShedFrameStoresNothing : Prop :=
  ∀ (p : Port) (c : Delivered) (s : State), Arrives s p c → ShedInProgress s p →
    InTime s p → c.mark = false → c.framingError = false →
    let r := (s.port p).receiver
    let goesOn (st : ReceiverState) (length : Option Nat) : Prop :=
      ∃ t, exec (.characterDelivered p []) s = .next t ∧ OnlyPort s t p ∧
        t.port p = { waitingPort s p with
          receiver := { r with gap := 0, length := length, position := r.position + 1, state := st } }
    let ends (st : ReceiverState) : Prop :=
      ∃ t, exec (.characterDelivered p []) s = .next t ∧ OnlyPort s t p ∧ (t.port p).receiver.state = st ∧
        (t.port p).receiver.shedding = false ∧ (t.port p).receiver.currentSlot = none ∧
        (t.port p).counters = (s.port p).counters ∧ (t.port p).transmitter = (s.port p).transmitter ∧
        (t.port p).record = (s.port p).record ∧ (st = .resync → (t.port p).receiver.markInterval = 0)
    (r.state = .header → r.position < 3 → goesOn .header r.length) ∧
    (r.state = .header → r.position = 3 → c.value.toNat ≤ 60 →
      goesOn (if c.value.toNat = 0 then .check else .body) (some c.value.toNat)) ∧
    (r.state = .header → r.position = 3 → 60 < c.value.toNat → ends .resync) ∧
    ∀ l, r.length = some l →
      (r.state = .body → goesOn (if r.position < 3 + l then .body else .check) (some l)) ∧
      (r.state = .check → r.position = 4 + l → goesOn .check (some l)) ∧
      (r.state = .check → r.position = 5 + l → ends .hunt)

/-- A shed frame is aborted as a stored one is, with no abort counter and no slot given up: a character with a framing error
leads to RESYNC, a gap of 2 character times to HUNT, shedding no. (A mark character claims afresh, as in HUNT.) -/
def Sys2Proof.Statements.ShedFrameAborts : Prop :=
  ∀ (p : Port) (s : State), ShedInProgress s p →
    let aborted (t : State) (st : ReceiverState) : Prop := OnlyPort s t p ∧
      (t.port p).receiver.state = st ∧ (t.port p).receiver.currentSlot = none ∧
      (t.port p).receiver.shedding = false ∧ (t.port p).counters = (s.port p).counters ∧
      (t.port p).transmitter = (s.port p).transmitter ∧ (t.port p).record = (s.port p).record
    (∀ (c : Delivered), Arrives s p c → InTime s p → c.framingError = true →
      ∃ t, exec (.characterDelivered p []) s = .next t ∧ aborted t .resync ∧ (t.port p).receiver.markInterval = 0) ∧
    (s.phase = .inService → ¬ InTime s p → ∃ t, exec (.abortGap p) s = .next t ∧ aborted t .hunt)

/-- A character that comes to a frame, stored or shed, whose gap interval has reached 2 character times leaves what the abort
by gap and then the character would leave (log entry 27). -/
def Sys2Proof.Statements.LateCharacterFollowsGapAbort : Prop :=
  ∀ (p : Port) (c : Delivered) (s : State), Arrives s p c → s.phase = .inService →
    (s.port p).receiver.state.frameInProgress = true → ¬ InTime s p →
    ∃ t u, exec (.abortGap p) s = .next t ∧ (t.port p).receiver.state = .hunt ∧
      exec (.characterDelivered p []) t = .next u ∧ exec (.characterDelivered p []) s = .next u

/-- No character is delivered before the framer has completed one: while it waits, as it does after a false start, before the
last sample of the stop bit, and in reset, CHARACTER_DELIVERED changes nothing (log entries 2 and 19). -/
def Sys2Proof.Statements.NothingDeliveredBeforeStopBit : Prop :=
  ∀ (p : Port) (s : State),
    (s.port p).framer.assembling = false ∨ (s.port p).framer.clock < 169 ∨ s.phase = .inReset →
    exec (.characterDelivered p []) s = .next s

/-- What a character does when no stored frame takes it: it begins a frame, stored or shed, runs on in a shed one or aborts it,
comes too late for its frame, or is ignored; and no character comes of a false start. -/
def Obligations.CharactersOutsideStoredFrames : Prop :=
  MarkCharacterBeginsStoredFrame ∧ ReceiverShedsAtReserve ∧ ShedFrameStoresNothing ∧ ShedFrameAborts ∧
    LateCharacterFollowsGapAbort ∧ IgnoredCharacters ∧ NothingDeliveredBeforeStopBit

/-- A character of a stored frame is written at the next position with its mark bit, the check register takes it before the
check, and the gap interval restarts; a length above 60 aborts the frame by length into RESYNC and frees its slot. -/
def Sys2Proof.Statements.StoredFrameTakesHeaderCharacter : Prop :=
  ∀ (p : Port) (c : Delivered) (i : SlotId) (s : State),
    Arrives s p c → InTime s p → (s.port p).receiver.state = .header → (s.port p).receiver.currentSlot = some i →
    c.mark = false → c.framingError = false →
    ((s.port p).receiver.position < 3 →
      ∃ t, exec (.characterDelivered p []) s = .next t ∧ OnlyPortAndPool s t p ∧ t.words = s.words ∧ OnlySlot s t i ∧
        t.slot i = { s.slot i with chars := (s.slot i).chars ++ [⟨c.value, false⟩] } ∧
        t.port p = { waitingPort s p with
          receiver := { (s.port p).receiver with
            checkRegister := checkTake (s.port p).receiver.checkRegister c.value, gap := 0,
            noiseSeen := (s.port p).receiver.noiseSeen || c.noise, position := (s.port p).receiver.position + 1 } }) ∧
    ((s.port p).receiver.position = 3 → c.value.toNat ≤ 60 →
      ∃ t, exec (.characterDelivered p []) s = .next t ∧ OnlyPortAndPool s t p ∧ t.words = s.words ∧ OnlySlot s t i ∧
        t.slot i = { s.slot i with chars := (s.slot i).chars ++ [⟨c.value, false⟩] } ∧
        t.port p = { waitingPort s p with
          receiver := { (s.port p).receiver with
            checkRegister := checkTake (s.port p).receiver.checkRegister c.value, gap := 0,
            length := some c.value.toNat, noiseSeen := (s.port p).receiver.noiseSeen || c.noise, position := 4,
            state := if c.value.toNat = 0 then .check else .body } }) ∧
    ((s.port p).receiver.position = 3 → 60 < c.value.toNat → ReceiversAlone s p i →
      ∃ t, exec (.characterDelivered p []) s = .next t ∧ OnlyPortAndPool s t p ∧ t.words = s.words ∧ OnlySlot s t i ∧
        t.slot i = Slot.empty ∧ (t.port p).receiver.state = .resync ∧ (t.port p).receiver.currentSlot = none ∧
        (t.port p).receiver.markInterval = 0 ∧ (t.port p).transmitter = (s.port p).transmitter ∧
        (t.port p).counters =
          { (s.port p).counters with abortLength := stoppingSucc (s.port p).counters.abortLength })

/-- Payload and check characters of a stored frame: in BODY each is written and runs through the check register, the last
one leading to CHECK; the first check character is written and does not enter the register. -/
def Sys2Proof.Statements.StoredFrameTakesBodyAndCheck : Prop :=
  ∀ (p : Port) (c : Delivered) (i : SlotId) (l : Nat) (s : State),
    Arrives s p c → InTime s p → (s.port p).receiver.currentSlot = some i → (s.port p).receiver.length = some l →
    c.mark = false → c.framingError = false →
    let r := (s.port p).receiver
    let written : Slot := { s.slot i with chars := (s.slot i).chars ++ [⟨c.value, false⟩] }
    (r.state = .body →
      ∃ t, exec (.characterDelivered p []) s = .next t ∧ OnlyPortAndPool s t p ∧ t.words = s.words ∧ OnlySlot s t i ∧
        t.slot i = written ∧
        t.port p = { waitingPort s p with
          receiver := { r with
            checkRegister := checkTake r.checkRegister c.value, gap := 0, noiseSeen := r.noiseSeen || c.noise,
            position := r.position + 1, state := if r.position < 3 + l then .body else .check } }) ∧
    (r.state = .check → r.position = 4 + l →
      ∃ t, exec (.characterDelivered p []) s = .next t ∧ OnlyPortAndPool s t p ∧ t.words = s.words ∧ OnlySlot s t i ∧
        t.slot i = written ∧
        t.port p = { waitingPort s p with
          receiver := { r with gap := 0, noiseSeen := r.noiseSeen || c.noise, position := r.position + 1 } })

/-- The characters of a stored frame, position by position up to the first check character. -/
def Obligations.StoredFrameTakesCharacters : Prop := StoredFrameTakesHeaderCharacter ∧ StoredFrameTakesBodyAndCheck

/-- At its second check character a stored frame is judged: equal to the check register it becomes IN_USE and joins the
tail of the Relay Unit's input list with its ingress port, good frames rising and noisy accepted too when noise was seen;
else check errors rises and the slot becomes FREE. Either way the receiver goes to HUNT. -/
def Obligations.SecondCheckCharacterJudgesFrame : Prop :=
  ∀ (p : Port) (c : Delivered) (i : SlotId) (l : Nat) (s : State),
    Arrives s p c → InTime s p → (s.port p).receiver.state = .check → (s.port p).receiver.currentSlot = some i →
    (s.port p).receiver.length = some l → (s.port p).receiver.position = 5 + l →
    c.mark = false → c.framingError = false → ReceiversAlone s p i →
    let r := (s.port p).receiver
    let k := (s.port p).counters
    let written : Slot := { s.slot i with chars := (s.slot i).chars ++ [⟨c.value, false⟩] }
    ∃ t, exec (.characterDelivered p []) s = .next t ∧ t.words = s.words ∧ OnlySlot s t i ∧
      (∀ q : Port, q ≠ p → t.port q = s.port q) ∧ (t.port p).receiver.state = .hunt ∧
      (t.port p).receiver.currentSlot = none ∧ (t.port p).transmitter = (s.port p).transmitter ∧
      (t.port p).record = (s.port p).record ∧
      (written.carriedCheck = r.checkRegister →
        t.slot i = { written with state := .inUse } ∧
        t = { s with ports := t.ports, slots := t.slots, relay := { s.relay with input := s.relay.input ++ [⟨i, p⟩] } } ∧
        (t.port p).counters = { k with
          goodFrames := stoppingSucc k.goodFrames
          noisyAccepted := if (r.noiseSeen || c.noise) = true then stoppingSucc k.noisyAccepted else k.noisyAccepted }) ∧
      (written.carriedCheck ≠ r.checkRegister →
        t.slot i = Slot.empty ∧ t = { s with ports := t.ports, slots := t.slots } ∧
        (t.port p).counters = { k with checkErrors := stoppingSucc k.checkErrors })

/-- With a stored frame in progress, a character with a framing error, whatever its mark bit, aborts it by framing into
RESYNC and frees its slot; a mark character without one aborts it by mark and begins a new frame in the same slot. -/
def Obligations.FramingAndMarkAbortStoredFrame : Prop :=
  ∀ (p : Port) (c : Delivered) (i : SlotId) (s : State),
    Arrives s p c → InTime s p → (s.port p).receiver.state.frameInProgress = true →
    (s.port p).receiver.currentSlot = some i → ReceiversAlone s p i →
    let k := (s.port p).counters
    (c.framingError = true →
      ∃ t, exec (.characterDelivered p []) s = .next t ∧ OnlyPortAndPool s t p ∧ t.words = s.words ∧ OnlySlot s t i ∧
        t.slot i = Slot.empty ∧ (t.port p).receiver.state = .resync ∧ (t.port p).receiver.currentSlot = none ∧
        (t.port p).receiver.markInterval = 0 ∧ (t.port p).transmitter = (s.port p).transmitter ∧
        (t.port p).counters = { k with abortFraming := stoppingSucc k.abortFraming }) ∧
    (c.framingError = false → c.mark = true →
      ∃ t, exec (.characterDelivered p []) s = .next t ∧ OnlyPortAndPool s t p ∧ t.words = s.words ∧ OnlySlot s t i ∧
        t.slot i = { s.slot i with chars := [⟨c.value, true⟩] } ∧
        t.port p = { waitingPort s p with
          counters := { k with abortMark := stoppingSucc k.abortMark }
          receiver := { (s.port p).receiver with
            checkRegister := checkTake 0xFFFF c.value, gap := 0, length := none, noiseSeen := c.noise, position := 1,
            shedding := false, state := .header } })

/-- The timed events of a receiver in service: a gap of 2 character times aborts a stored frame by gap into HUNT and frees
its slot; 1 character time of mark ends RESYNC; 64 character times of space raise one stuck-line event and leave the
receiver's state. Before its time, or in another state, each changes nothing (the model's choice, log entry 2). -/
def Obligations.ReceiverTimedEvents : Prop :=
  ∀ (p : Port) (s : State), s.phase = .inService →
    let r := (s.port p).receiver
    let k := (s.port p).counters
    (∀ i : SlotId, r.state.frameInProgress = true → r.currentSlot = some i → ReceiversAlone s p i →
      2 * s.charTime p ≤ r.gap →
      ∃ t, exec (.abortGap p) s = .next t ∧ OnlyPortAndPool s t p ∧ t.words = s.words ∧ OnlySlot s t i ∧
        t.slot i = Slot.empty ∧ (t.port p).receiver.state = .hunt ∧ (t.port p).receiver.currentSlot = none ∧
        (t.port p).transmitter = (s.port p).transmitter ∧
        (t.port p).counters = { k with abortGap := stoppingSucc k.abortGap }) ∧
    (r.state = .resync → s.charTime p ≤ r.markInterval →
      ∃ t, exec (.endOfResync p) s = .next t ∧ OnlyPort s t p ∧ (t.port p).receiver.state = .hunt ∧
        (t.port p).counters = k ∧ (t.port p).transmitter = (s.port p).transmitter) ∧
    (r.state ≠ .off → 64 * s.charTime p ≤ r.spaceInterval → r.stuckRaised = false →
      ∃ t, exec (.lineStuck p) s = .next t ∧ (∀ q : Port, q ≠ p → t.port q = s.port q) ∧
        t = { s with ports := t.ports, words := { s.words with stuckLine := s.words.stuckLine ++ [p] } } ∧
        t.port p = { s.port p with
          counters := { k with stuckEvents := stoppingSucc k.stuckEvents }
          receiver := { r with stuckRaised := true } }) ∧
    (r.state.frameInProgress = false ∨ r.gap < 2 * s.charTime p → exec (.abortGap p) s = .next s) ∧
    (r.state ≠ .resync ∨ r.markInterval < s.charTime p → exec (.endOfResync p) s = .next s) ∧
    (r.state = .off ∨ r.spaceInterval < 64 * s.charTime p ∨ r.stuckRaised = true → exec (.lineStuck p) s = .next s)

/-! ## Transmitting (BEGIN_SENDING, CHARACTER_SENT, MISSING_ECHO, JAM_END, BACKOFF_END) -/

/-- A transmitter in service starts a frame exactly when it is in WAIT_GAP, its port is ENABLED, its queue holds an entry,
its receiver is in HUNT and its line has been quiet for 3 character times; otherwise BEGIN_SENDING changes nothing (the
model's choice, log entry 2). -/
def Sys2Proof.Statements.SendingBeginsOnlyOnQuietLine : Prop :=
  ∀ (p : Port) (s : State), s.phase = .inService → (s.port p).transmitter.state ≠ .sending →
    ∃ t, exec (.beginSending p) s = .next t ∧
      ((t.port p).transmitter.state = .sending ↔
        (s.port p).transmitter.state = .waitGap ∧ s.admin p = .enabled ∧ (s.port p).transmitter.queue ≠ [] ∧
          (s.port p).receiver.state = .hunt ∧ 3 * s.charTime p ≤ (s.port p).transmitter.quietInterval) ∧
      ((t.port p).transmitter.state ≠ .sending → t = s)

/-- On beginning to send, the driver enable turns on, the first character of the head frame joins the emptied echo list and
the receiver goes from HUNT to ECHO. The queue, the counters and the rest of the relay stay. -/
def Sys2Proof.Statements.BeginSendingDrivesFirstCharacter : Prop :=
  ∀ (p : Port) (e : QueueEntry) (rest : List QueueEntry) (c : Character) (s : State), s.phase = .inService →
    (s.port p).transmitter.state = .waitGap → s.admin p = .enabled → (s.port p).transmitter.queue = e :: rest →
    (s.port p).receiver.state = .hunt → 3 * s.charTime p ≤ (s.port p).transmitter.quietInterval →
    (s.slot e.slot).chars[0]? = some c →
    ∃ t, exec (.beginSending p) s = .next t ∧ OnlyPort s t p ∧
      (t.port p).transmitter = { (s.port p).transmitter with
        charTime := 0, driverEnable := true, echoList := [⟨c, none⟩], nextPosition := 1, state := .sending } ∧
      (t.port p).receiver.state = .echo ∧ (t.port p).receiver.spaceInterval = (s.port p).receiver.spaceInterval ∧
      (t.port p).counters = (s.port p).counters ∧ (t.port p).record = (s.port p).record

/-- BEGIN_SENDING: when it starts a frame, and what starting one does. -/
def Obligations.SendingBeginsOnQuietLine : Prop := SendingBeginsOnlyOnQuietLine ∧ BeginSendingDrivesFirstCharacter

/-- When the stop bit of a character has ended, the next character of the head frame follows at once and joins the tail of
the echo list; after the last one the driver enable turns off and the transmitter stays in SENDING. (With an echo deadline
passed it is a collision instead: CollisionJamsLine.) Before the end of the stop bit CHARACTER_SENT changes nothing (the model's
choice, log entry 2). -/
def Sys2Proof.Statements.CharacterSentStartsNext : Prop :=
  (∀ (p : Port) (s : State), s.phase = .inService →
    (s.port p).transmitter.state ≠ .sending ∨ (s.port p).transmitter.driverEnable = false ∨
      (s.port p).transmitter.charTime < s.charTime p →
    exec (.characterSent p) s = .next s) ∧
  ∀ (p : Port) (e : QueueEntry) (rest : List QueueEntry) (s : State), s.phase = .inService →
    (s.port p).transmitter.state = .sending → (s.port p).transmitter.driverEnable = true →
    s.charTime p ≤ (s.port p).transmitter.charTime → (s.port p).transmitter.queue = e :: rest →
    (∀ y ∈ (s.port p).transmitter.echoList, y.deadline ≠ some 0) →
    let x := (s.port p).transmitter
    ∃ t, exec (.characterSent p) s = .next t ∧ OnlyPort s t p ∧
      (t.port p).receiver = (s.port p).receiver ∧ (t.port p).counters = (s.port p).counters ∧
      (t.port p).record = (s.port p).record ∧
      (∀ c, (s.slot e.slot).chars[x.nextPosition]? = some c →
        (t.port p).transmitter = { x with
          charTime := 0, nextPosition := x.nextPosition + 1
          echoList := x.echoList.map (fun y => ⟨y.char, some (y.deadline.getD (s.charTime p))⟩) ++ [⟨c, none⟩] }) ∧
      ((s.slot e.slot).chars[x.nextPosition]? = none →
        (t.port p).transmitter = { x with
          charTime := 0, driverEnable := false
          echoList := x.echoList.map fun y => ⟨y.char, some (y.deadline.getD (s.charTime p))⟩ })

/-- A good echo, equal in value and mark bit to the oldest character of the echo list, with no framing error and with no echo
deadline passed, removes that character; the noise mark is not judged. -/
def Sys2Proof.Statements.GoodEchoRemovesOldestCharacter : Prop :=
  ∀ (p : Port) (c : Delivered) (sent : SentCharacter) (unjudged : List SentCharacter)
    (e : QueueEntry) (rest : List QueueEntry) (s : State),
    Arrives s p c → (s.port p).receiver.state = .echo → (s.port p).transmitter.state = .sending →
    (s.port p).transmitter.echoList = sent :: unjudged → (s.port p).transmitter.queue = e :: rest →
    (∀ y ∈ (s.port p).transmitter.echoList, y.deadline ≠ some 0) →
    c.value = sent.char.value → c.mark = sent.char.mark → c.framingError = false →
    (unjudged ≠ [] ∨ (s.port p).transmitter.nextPosition < (s.slot e.slot).length) →
    ∃ t, exec (.characterDelivered p []) s = .next t ∧ OnlyPort s t p ∧
      t.port p = { waitingPort s p with transmitter := { (s.port p).transmitter with echoList := unjudged } }

/-- The good echo of the last character completes the frame: frames sent rises, the entry leaves the queue, releases its
reference and is announced as COMPLETED, the receiver goes to HUNT, the transmitter to WAIT_GAP with an entry left on an ENABLED port, else to IDLE, and
the driver enable is off (log entry 9). -/
def Sys2Proof.Statements.LastGoodEchoCompletesFrame : Prop :=
  ∀ (p : Port) (c : Delivered) (sent : SentCharacter) (e : QueueEntry)
    (rest : List QueueEntry) (s : State),
    Arrives s p c → (s.port p).receiver.state = .echo → (s.port p).transmitter.state = .sending →
    (s.port p).transmitter.echoList = [sent] → (s.port p).transmitter.queue = e :: rest →
    sent.deadline ≠ some 0 →
    c.value = sent.char.value → c.mark = sent.char.mark → c.framingError = false →
    (s.slot e.slot).length ≤ (s.port p).transmitter.nextPosition →
    ∃ t, exec (.characterDelivered p []) s = .next t ∧ OnlyPortAndPool s t p ∧ OnlySlot s t e.slot ∧
      (t.port p).counters =
        { (s.port p).counters with framesSent := stoppingSucc (s.port p).counters.framesSent } ∧
      (t.port p).transmitter.queue = rest ∧ (t.port p).receiver.state = .hunt ∧
      (t.port p).transmitter.state = (if s.admin p = .enabled ∧ rest ≠ [] then .waitGap else .idle) ∧
      (t.port p).transmitter.driverEnable = false ∧
      (t.port p).transmitter.quietInterval = (s.port p).transmitter.quietInterval ∧
      t.words = announcedWords s p .completed e ∧
      (1 < (s.slot e.slot).refs → t.slot e.slot = { s.slot e.slot with refs := (s.slot e.slot).refs - 1 }) ∧
      ((s.slot e.slot).refs = 1 → s.heldOutside e.slot = false → t.slot e.slot = Slot.empty)

/-- The characters of a frame follow one another, good echoes take them off the echo list, and the last one completes the
frame. -/
def Obligations.SentFrameIsEchoedAndCompleted : Prop :=
  CharacterSentStartsNext ∧ GoodEchoRemovesOldestCharacter ∧ LastGoodEchoCompletesFrame

/-- A mismatched echo, an echo with a framing error, an echo with nothing outstanding, any echo and any end of a character sent
after an echo deadline has passed (log entry 27) and a missing echo are each a collision: collisions rises, the line is driven to space in JAM with the echo list
empty (the model's choice, log entry 23), and the head's collision count rises by one, or, at 2, this collision is its third. -/
def Sys2Proof.Statements.CollisionJamsLine : Prop :=
  ∀ (p : Port) (e : QueueEntry) (rest : List QueueEntry) (s : State), s.phase = .inService →
    (s.port p).transmitter.state = .sending → (s.port p).receiver.state = .echo →
    (s.port p).transmitter.queue = e :: rest →
    let collided (t : State) : Prop := OnlyPort s t p ∧
      (t.port p).counters = { (s.port p).counters with collisions := stoppingSucc (s.port p).counters.collisions } ∧
      (t.port p).transmitter.state = .jam ∧ (t.port p).transmitter.driverEnable = true ∧ t.txd p = .space ∧
      (t.port p).transmitter.jamTime = 0 ∧ (t.port p).transmitter.echoList = [] ∧
      (t.port p).receiver = (s.port p).receiver ∧ (t.port p).record = (s.port p).record ∧
      (e.collisions < 2 → (t.port p).transmitter.queue = { e with collisions := e.collisions + 1 } :: rest) ∧
      (2 ≤ e.collisions → (t.port p).transmitter.queue = e :: rest ∧ (t.port p).transmitter.discardAtJamEnd = true)
    let deadlinePassed := ∃ sent ∈ (s.port p).transmitter.echoList, sent.deadline = some 0
    (∀ c : Delivered, Arrives s p c →
      (deadlinePassed ∨ ∀ sent, (s.port p).transmitter.echoList.head? = some sent →
        c.framingError = true ∨ c.value ≠ sent.char.value ∨ c.mark ≠ sent.char.mark) →
      ∃ t, exec (.characterDelivered p []) s = .next t ∧ collided t) ∧
    (deadlinePassed → ∃ t, exec (.missingEcho p) s = .next t ∧ collided t) ∧
    (deadlinePassed → (s.port p).transmitter.driverEnable = true →
      s.charTime p ≤ (s.port p).transmitter.charTime → ∃ t, exec (.characterSent p) s = .next t ∧ collided t)

/-- In JAM the relay's own break character comes back and is not judged: the framer waits for its next start edge, and nothing
else changes. -/
def Sys2Proof.Statements.JamEchoIsNotJudged : Prop :=
  ∀ (p : Port) (c : Delivered) (s : State), Arrives s p c → (s.port p).receiver.state = .echo →
    (s.port p).transmitter.state = .jam →
    ∃ t, exec (.characterDelivered p []) s = .next t ∧ OnlyPort s t p ∧ t.port p = waitingPort s p

/-- With no echo deadline passed, and outside SENDING, MISSING_ECHO changes nothing (the model's choice, log entry 2). -/
def Sys2Proof.Statements.NoEchoMissingBeforeDeadline : Prop :=
  ∀ (p : Port) (s : State), s.phase = .inService →
    (s.port p).transmitter.state ≠ .sending ∨ (∀ y ∈ (s.port p).transmitter.echoList, y.deadline ≠ some 0) →
    exec (.missingEcho p) s = .next s

/-- When the echo check finds a collision, what a collision does, and when it finds none. -/
def Obligations.BadOrMissingEchoIsCollision : Prop :=
  CollisionJamsLine ∧ JamEchoIsNotJudged ∧ NoEchoMissingBeforeDeadline

/-- After 2 character times of jam the driver enable turns off and the receiver goes to RESYNC. Below the third collision the
entry stays, an ORDINARY one behind the PRIORITY entries; at the third it leaves, discards rising, its reference
released, the last one freeing its slot, and its departure announced. On an ENABLED port a backoff is drawn; on a HELD port none
is, and the transmitter goes to IDLE. Before its time JAM_END changes nothing (the model's choice, log entry 2). -/
def Obligations.JamEndKeepsOrDiscards : Prop :=
  (∀ (p : Port) (s : State), s.phase = .inService →
    (s.port p).transmitter.state ≠ .jam ∨ (s.port p).transmitter.jamTime < 2 * s.charTime p →
    exec (.jamEnd p) s = .next s) ∧
  ∀ (p : Port) (e : QueueEntry) (rest : List QueueEntry) (s : State), s.phase = .inService →
    (s.port p).transmitter.state = .jam → 2 * s.charTime p ≤ (s.port p).transmitter.jamTime →
    (s.port p).transmitter.queue = e :: rest →
    ∃ t, exec (.jamEnd p) s = .next t ∧ OnlyPortAndPool s t p ∧
      (t.port p).transmitter.driverEnable = false ∧ (t.port p).receiver.state = .resync ∧
      (t.port p).receiver.markInterval = 0 ∧ (t.port p).record = (s.port p).record ∧
      ((s.port p).transmitter.discardAtJamEnd = false →
        t.slots = s.slots ∧ t.words = s.words ∧ (t.port p).counters = (s.port p).counters ∧
        (e.band = .priority → (t.port p).transmitter.queue = e :: rest) ∧
        (e.band = .ordinary → bandsInOrder rest →
          (t.port p).transmitter.queue =
            rest.filter (·.band == .priority) ++ e :: rest.filter (·.band == .ordinary))) ∧
      ((s.port p).transmitter.discardAtJamEnd = true →
        OnlySlot s t e.slot ∧ (t.port p).transmitter.queue = rest ∧
        (t.port p).counters = { (s.port p).counters with discards := stoppingSucc (s.port p).counters.discards } ∧
        t.words = announcedWords s p .discarded e ∧
        (1 < (s.slot e.slot).refs → t.slot e.slot = { s.slot e.slot with refs := (s.slot e.slot).refs - 1 }) ∧
        ((s.slot e.slot).refs = 1 → s.heldOutside e.slot = false → t.slot e.slot = Slot.empty)) ∧
      (s.admin p = .enabled →
        (t.port p).transmitter.state = .backoff ∧
        (t.port p).transmitter.backoffRegister = backoffAdvance (s.port p).transmitter.backoffRegister ∧
        (t.port p).transmitter.backoff =
          some ⟨backoffInterval (backoffAdvance (s.port p).transmitter.backoffRegister), 0⟩) ∧
      (s.admin p = .held →
        (t.port p).transmitter.state = .idle ∧
        (t.port p).transmitter.backoffRegister = (s.port p).transmitter.backoffRegister)

/-- One advance of the backoff register: it is shifted left by one place and the exclusive-or of bits 15, 13, 12 and 10
becomes the new bit 0; a register other than 0000h stays so, and the interval drawn is 1 to 8, the low three bits plus 1.
The first three draws of port 0 give 4, 8 and 8. -/
def Sys2Proof.Statements.BackoffSequenceAdvances : Prop :=
  (∀ r : Word,
    (∀ i : Nat, 0 < i → i < 16 → (backoffAdvance r).getLsbD i = r.getLsbD (i - 1)) ∧
    (backoffAdvance r).getLsbD 0 = (r.getLsbD 15 ^^ r.getLsbD 13 ^^ r.getLsbD 12 ^^ r.getLsbD 10) ∧
    (r ≠ 0 → backoffAdvance r ≠ 0) ∧ backoffInterval r = r.toNat % 8 + 1) ∧
  (backoffSeeds.get 0 = 0xACE1 ∧ backoffSeeds.get 1 = 0x5A3C ∧ backoffSeeds.get 2 = 0x3C5A ∧ backoffSeeds.get 3 = 0xE1AC) ∧
  backoffAdvance 0xACE1 = 0x59C3 ∧ backoffAdvance 0x59C3 = 0xB387 ∧ backoffAdvance 0xB387 = 0x670F ∧
  backoffInterval 0x59C3 = 4 ∧ backoffInterval 0xB387 = 8 ∧ backoffInterval 0x670F = 8

/-- At the end of its interval a transmitter leaves BACKOFF with its quiet interval at 0, for WAIT_GAP on an ENABLED port
with an entry queued and for IDLE with an empty queue; before, BACKOFF_END changes nothing (the model's choice, log entry
2). -/
def Sys2Proof.Statements.BackoffEndsAtItsInterval : Prop :=
  ∀ (p : Port) (b : Backoff) (s : State), s.phase = .inService → (s.port p).transmitter.state = .backoff →
    (s.port p).transmitter.backoff = some b → s.admin p = .enabled →
    (b.interval * s.charTime p ≤ b.waited →
      ∃ t, exec (.backoffEnd p) s = .next t ∧ OnlyPort s t p ∧
        t.port p = { s.port p with
          transmitter := { (s.port p).transmitter with
            backoff := none, quietInterval := 0,
            state := if (s.port p).transmitter.queue = [] then .idle else .waitGap } }) ∧
    (b.waited < b.interval * s.charTime p → exec (.backoffEnd p) s = .next s)

/-- The backoff draws and the end of a backoff. -/
def Obligations.BackoffDrawsAndEnds : Prop := BackoffSequenceAdvances ∧ BackoffEndsAtItsInterval

/-! ## Port Control (STUCK_LINE_EVENT, RECOVERY_EXPIRY, RATE_REPLY_DEPARTED, WINDOW_EXPIRY) -/

/-- A stuck-line event on a port that is ENABLED or HELD takes it down to ISOLATED: both halves OFF, the driver enable off, the
queue empty with its entries announced as FLUSHED and their slots given up, its LEARNED entries gone and every other entry kept, the port-down word and PORT_ISOLATED (with the code of
the state left) made, the recovery timer started at 0 exactly with auto-recover on. On a down port only the event is taken. -/
def Sys2Proof.Statements.StuckLineIsolatesPort : Prop :=
  ∀ (p : Port) (s : State), s.phase = .inService → p ∈ s.words.stuckLine →
    ((s.admin p).isDown = false →
      ∃ t, exec (.stuckLineEvent p) s = .next t ∧ (∀ q : Port, q ≠ p → t.port q = s.port q) ∧
        t = { s with
          ports := t.ports, slots := t.slots, words := t.words
          map := { s.map with entries := s.map.entries.filter fun e => !(e.isLearned && e.port == p) } } ∧
        (t.port p).record = { (s.port p).record with
          admin := .isolated, recovery := if (s.port p).record.autoRecover = true then some 0 else none } ∧
        (t.port p).transmitter.state = .off ∧ (t.port p).transmitter.driverEnable = false ∧
        (t.port p).transmitter.queue = [] ∧ (t.port p).transmitter.echoList = [] ∧
        (t.port p).transmitter.backoff = none ∧ (t.port p).receiver.state = .off ∧
        (t.port p).receiver.currentSlot = none ∧ (t.port p).counters = (s.port p).counters ∧
        SlotsGivenUp s t p [] ∧
        t.words = { flushedWords s p with
          portDown := s.words.portDown ++ [p], stuckLine := s.words.stuckLine.erase p
          raised := s.words.raised ++ [⟨.portIsolated, portCharacter p, if s.admin p = .enabled then 0 else 1⟩] }) ∧
    ((s.admin p).isDown = true →
      exec (.stuckLineEvent p) s =
        .next { s with words := { s.words with stuckLine := s.words.stuckLine.erase p } })

/-- When the recovery timer of an ISOLATED port has reached 1000 ms the port comes up to ENABLED, its receiver in RESYNC and
its transmitter in IDLE with their intervals at 0, and PORT_RESTORED carries its current rate; before, nothing
changes (the model's choice, log entry 2). -/
def Sys2Proof.Statements.RecoveryRestoresPort : Prop :=
  ∀ (p : Port) (n : Nat) (s : State), s.phase = .inService → s.admin p = .isolated →
    (s.port p).record.recovery = some n →
    (14745600 ≤ n →
      ∃ t, exec (.recoveryExpiry p) s = .next t ∧ (∀ q : Port, q ≠ p → t.port q = s.port q) ∧
        t = { s with
          ports := t.ports
          words := { s.words with
            raised := s.words.raised ++ [⟨.portRestored, portCharacter p, BitVec.ofNat 8 (s.rate p).val⟩] } } ∧
        (t.port p).record = { (s.port p).record with admin := .enabled, recovery := none } ∧
        (t.port p).receiver.state = .resync ∧ (t.port p).receiver.markInterval = 0 ∧
        (t.port p).receiver.spaceInterval = 0 ∧ (t.port p).receiver.stuckRaised = false ∧
        (t.port p).transmitter.state = .idle ∧ (t.port p).transmitter.quietInterval = 0 ∧
        (t.port p).counters = (s.port p).counters) ∧
    (n < 14745600 → exec (.recoveryExpiry p) s = .next s)

/-- Isolation by a stuck line and recovery from it. -/
def Obligations.IsolationAndRecovery : Prop := StuckLineIsolatesPort ∧ RecoveryRestoresPort

/-- What a rate application leaves at port `p` when no frame is in progress and none is being sent: the current rate takes the
code, the framer gives up its character and waits for mark, the receiver goes to RESYNC (in OFF it stays), and the quiet and space intervals
restart outside OFF. -/
def Sys2Proof.Statements.RateApplied (x y : LinePort) (c : RateCode) : Prop :=
  y.record.currentRate = c ∧ y.record.admin = x.record.admin ∧ y.record.confirmedRate = x.record.confirmedRate ∧
  y.record.recovery = x.record.recovery ∧ y.framer = framerAtRate x.framer ∧ y.counters = x.counters ∧
  y.transmitter.queue = x.transmitter.queue ∧ y.transmitter.state = x.transmitter.state ∧
  y.transmitter.backoffRegister = x.transmitter.backoffRegister ∧
  (x.receiver.state = .off → y.receiver = x.receiver) ∧
  (x.receiver.state ≠ .off → y.receiver.state = .resync ∧ y.receiver.spaceInterval = 0 ∧ y.receiver.markInterval = 0) ∧
  (x.transmitter.state ≠ .off → y.transmitter.quietInterval = 0) ∧
  (x.transmitter.state = .off → y.transmitter = x.transmitter)

/-- The line of port `p` is at rest: no frame in progress, none being sent. -/
def Sys2Proof.Statements.AtRest (x : LinePort) : Prop :=
  (x.receiver.state = .off ∨ x.receiver.state = .hunt ∨ x.receiver.state = .resync) ∧
  (x.transmitter.state = .off ∨ x.transmitter.state = .idle ∨ x.transmitter.state = .waitGap ∨
    x.transmitter.state = .backoff)

/-- A rate application in the middle of traffic: a stored frame in progress is aborted by rate, its slot FREE, into RESYNC, a
shed one with no counter; a frame being sent takes the application as a collision; a jam restarts; in BACKOFF the time
waited restarts, with interval and register kept. -/
def Sys2Proof.Statements.TrafficAtRateChange (s t : State) (p : Port) (c : RateCode) : Prop :=
  (∀ i : SlotId, (s.port p).receiver.state.frameInProgress = true → (s.port p).receiver.currentSlot = some i →
    ReceiversAlone s p i → (s.port p).transmitter.state ≠ .sending →
    t.slot i = Slot.empty ∧ OnlySlot s t i ∧ (t.port p).receiver.state = .resync ∧
    (t.port p).receiver.currentSlot = none ∧ (t.port p).receiver.spaceInterval = 0 ∧
    (t.port p).counters = { (s.port p).counters with abortRate := stoppingSucc (s.port p).counters.abortRate }) ∧
  ((s.port p).receiver.state = .echo → (s.port p).transmitter.state = .sending →
    t.slots = s.slots ∧ (t.port p).receiver.state = .echo ∧ (t.port p).transmitter.state = .jam ∧
    (t.port p).transmitter.driverEnable = true ∧ (t.port p).transmitter.jamTime = 0 ∧ t.rate p = c ∧
    (t.port p).counters = { (s.port p).counters with collisions := stoppingSucc (s.port p).counters.collisions }) ∧
  (ShedInProgress s p → (s.port p).transmitter.state ≠ .sending →
    t.slots = s.slots ∧ (t.port p).receiver.state = .resync ∧ (t.port p).receiver.shedding = false ∧
    (t.port p).receiver.currentSlot = none ∧ (t.port p).receiver.markInterval = 0 ∧
    (t.port p).receiver.spaceInterval = 0 ∧ (t.port p).counters = (s.port p).counters) ∧
  ((s.port p).receiver.state = .echo → (s.port p).transmitter.state = .jam →
    t.slots = s.slots ∧ (t.port p).receiver = { (s.port p).receiver with spaceInterval := 0 } ∧ t.rate p = c ∧
    (t.port p).transmitter = { (s.port p).transmitter with jamTime := 0, quietInterval := 0 } ∧
    (t.port p).counters = (s.port p).counters) ∧
  (∀ b, (s.port p).transmitter.state = .backoff → (s.port p).transmitter.backoff = some b →
    t.rate p = c ∧ (t.port p).transmitter = { (s.port p).transmitter with
      backoff := some { b with waited := 0 }, quietInterval := 0 })

/-- Every rate application answers traffic so. -/
def Sys2Proof.Statements.RateApplicationAbortsTraffic : Prop :=
  ∀ (p : Port) (c : RateCode) (s : State), TrafficAtRateChange s (s.applyRate p c) p c

/-- The word of a SET_RATE reply's departure applies the pending rate and starts the window on a port in AWAITING_REPLY; on a
STEADY port it is taken and changes nothing else. Traffic in progress is answered as at every rate application. -/
def Sys2Proof.Statements.RateReplyDepartureOpensWindow : Prop :=
  ∀ (p : Port) (s : State), s.phase = .inService → p ∈ s.words.rateReplies →
    (∀ (c : RateCode) (w : Nat), (s.port p).record.ratePhase = .awaitingReply c w → AtRest (s.port p) →
      ∃ t, exec (.rateReplyDeparted p) s = .next t ∧ (∀ q : Port, q ≠ p → t.port q = s.port q) ∧
        t = { s with
          ports := t.ports, timeBase := t.timeBase
          words := { s.words with rateReplies := s.words.rateReplies.erase p } } ∧
        RateApplied (s.port p) (t.port p) c ∧ (t.port p).record.ratePhase = .window w (14745600 * w)) ∧
    (∀ (c : RateCode) (w : Nat), (s.port p).record.ratePhase = .awaitingReply c w →
      ∃ t, exec (.rateReplyDeparted p) s = .next t ∧ (∀ q : Port, q ≠ p → t.port q = s.port q) ∧
        t = { s with
          ports := t.ports, slots := t.slots, timeBase := t.timeBase
          words := { s.words with rateReplies := s.words.rateReplies.erase p } } ∧
        TrafficAtRateChange s t p c ∧ t.rate p = c ∧ (t.port p).framer = framerAtRate (s.port p).framer ∧
        (t.port p).record.ratePhase = .window w (14745600 * w)) ∧
    ((s.port p).record.ratePhase = .steady →
      exec (.rateReplyDeparted p) s =
        .next { s with words := { s.words with rateReplies := s.words.rateReplies.erase p } })

/-- At the end of a window the confirmed rate is applied in every administrative state, the phase becomes STEADY, and
RATE_REVERTED carries the rate that was current before, traffic in progress answered as at every rate application; while the
window runs WINDOW_EXPIRY changes nothing (the model's choice, log entry 2). -/
def Sys2Proof.Statements.WindowExpiryRevertsRate : Prop :=
  ∀ (p : Port) (w : Nat) (s : State), s.phase = .inService →
    ((s.port p).record.ratePhase = .window w 0 → AtRest (s.port p) →
      ∃ t, exec (.windowExpiry p) s = .next t ∧ (∀ q : Port, q ≠ p → t.port q = s.port q) ∧
        t = { s with
          ports := t.ports, timeBase := t.timeBase
          words := { s.words with
            raised := s.words.raised ++ [⟨.rateReverted, portCharacter p, BitVec.ofNat 8 (s.rate p).val⟩] } } ∧
        RateApplied (s.port p) (t.port p) (s.port p).record.confirmedRate ∧ (t.port p).record.ratePhase = .steady) ∧
    ((s.port p).record.ratePhase = .window w 0 →
      ∃ t, exec (.windowExpiry p) s = .next t ∧ (∀ q : Port, q ≠ p → t.port q = s.port q) ∧
        t = { s with
          ports := t.ports, slots := t.slots, timeBase := t.timeBase
          words := { s.words with
            raised := s.words.raised ++ [⟨.rateReverted, portCharacter p, BitVec.ofNat 8 (s.rate p).val⟩] } } ∧
        TrafficAtRateChange s t p (s.port p).record.confirmedRate ∧ t.rate p = (s.port p).record.confirmedRate ∧
        (t.port p).framer = framerAtRate (s.port p).framer ∧ (t.port p).record.ratePhase = .steady) ∧
    (∀ n, (s.port p).record.ratePhase = .window w (n + 1) → exec (.windowExpiry p) s = .next s)

/-- A rate takes effect at its reply's departure and reverts at the end of its window, on a port at rest and in traffic. -/
def Obligations.RateEventsApplyRates : Prop :=
  RateReplyDepartureOpensWindow ∧ WindowExpiryRevertsRate ∧ RateApplicationAbortsTraffic

/-! ## The Station Map (TIMEOUT_WORD, AGING_EXPIRY) -/

/-- The word of a timeout raises the silence count of the responder's entry by one up to 3, whatever its origin and port; the
rise from 2 to 3 raises STATION_SILENT; with no entry, or at 3, the word is taken and changes nothing. -/
def Sys2Proof.Statements.TimeoutWordRaisesSilence : Prop :=
  ∀ (a : Byte) (s : State), s.phase = .inService → a ∈ s.words.timeouts →
    s.map.entries.Pairwise (fun x y => x.address ≠ y.address) →
    ((∀ e ∈ s.map.entries, e.address ≠ a) →
      exec (.timeoutWord a) s = .next { s with words := { s.words with timeouts := s.words.timeouts.erase a } }) ∧
    ∀ e ∈ s.map.entries, e.address = a →
      ∃ t, exec (.timeoutWord a) s = .next t ∧
        t = { s with
          map := { s.map with
            entries := s.map.entries.map fun x =>
              if x.address = a then { x with silence := if x.silence = 3 then 3 else x.silence + 1 } else x }
          words := { s.words with
            timeouts := s.words.timeouts.erase a
            raised := s.words.raised ++
              (if e.silence = 2 then [⟨.stationSilent, a, portCharacter e.port⟩] else []) } }

/-- At an aging expiry every LEARNED entry of age 3 is removed, every other LEARNED entry ages by one, STATIC entries stay,
and the timer starts again for a full period; while the timer runs nothing changes (the model's choice, log entry 2). -/
def Sys2Proof.Statements.AgingExpiryAgesLearnedEntries : Prop :=
  ∀ s : State, s.phase = .inService →
    (s.map.timer = some 0 →
      ∃ t, exec .agingExpiry s = .next t ∧ t = { s with map := t.map } ∧
        t.map.period = s.map.period ∧ t.map.timer = some (14745600 * s.map.period) ∧
        ∀ e : StationEntry, e ∈ t.map.entries ↔
          (e.origin = .static ∧ e ∈ s.map.entries) ∨
          ∃ a : Fin 4, a ≠ 3 ∧ e.origin = .learned (a + 1) ∧ { e with origin := .learned a } ∈ s.map.entries) ∧
    (∀ n, s.map.timer = some (n + 1) → exec .agingExpiry s = .next s)

/-- The Station Map's own events: the word of a timeout and the aging expiry. -/
def Obligations.SilenceAndAging : Prop := TimeoutWordRaisesSilence ∧ AgingExpiryAgesLearnedEntries

/-- An entry put into the list: the list then holds it and every entry it held, and stays in ascending address order. -/
def Sys2Proof.Statements.InsertionKeepsEntries : Prop :=
  ∀ (e : StationEntry) (l : List StationEntry), (insertStation e l).Perm (e :: l) ∧
    (l.Pairwise (fun x y => x.address.toNat < y.address.toNat) → (∀ x ∈ l, x.address ≠ e.address) →
      (insertStation e l).Pairwise fun x y => x.address.toNat < y.address.toNat)

/-- Learning from a frame (cases N1, L1, L2, T1 and T2): what the map update makes of its source's entry, and DROP for a static
conflict alone. -/
def Sys2Proof.Statements.MapUpdateLearnsFromSource : Prop :=
  ∀ (a : Byte) (p : Port) (s : State), (s.admin p).isDown = false → (s.port p).record.learn = true →
    (s.lookup a = none → s.map.entries.length < 96 →
      (s.updateMap a p).2 = .goOn ∧
      (s.updateMap a p).1.map.entries = insertStation ⟨a, .learned 0, p, true, 0, 0⟩ s.map.entries ∧
      (s.updateMap a p).1 = { s with map := (s.updateMap a p).1.map }) ∧
    (∀ e, s.lookup a = some e → e.port = p →
      (s.updateMap a p).2 = .goOn ∧
      (s.updateMap a p).1 = { s with
        map := { s.map with
          entries := s.map.entries.map fun x =>
            if x.address = a then
              { x with silence := 0, origin := if x.origin = .static then .static else .learned 0 }
            else x } }) ∧
    (∀ e, s.lookup a = some e → e.port ≠ p → e.origin ≠ .static →
      (s.updateMap a p).2 = .goOn ∧
      (s.updateMap a p).1 = { s with
        map := { s.map with
          entries := s.map.entries.map fun x =>
            if x.address = a then { x with origin := .learned 0, port := p, silence := 0 } else x }
        counters := { s.counters with moves := stoppingSucc s.counters.moves }
        words := { s.words with raised := s.words.raised ++ [⟨.stationMoved, a, portCharacter e.port⟩] } }) ∧
    (∀ e, s.lookup a = some e → e.port ≠ p → e.origin = .static →
      (s.updateMap a p).2 = .drop ∧
      (s.updateMap a p).1 = { s with
        counters := { s.counters with staticConflicts := stoppingSucc s.counters.staticConflicts }
        words := { s.words with raised := s.words.raised ++ [⟨.sourceConflict, a, portCharacter p⟩] } })

/-- Learning never displaces an entry: with 96 entries an unknown source is refused, counted and reported as MAP_FULL; with
the learn option off, or the ingress port down (log entry 16), it is left unlearned. -/
def Sys2Proof.Statements.LearningNeverEvicts : Prop :=
  ∀ (a : Byte) (p : Port) (s : State), s.lookup a = none →
    ((s.admin p).isDown = false → (s.port p).record.learn = true → 96 ≤ s.map.entries.length →
      s.updateMap a p =
        ({ s with
          counters := { s.counters with learnRefusals := stoppingSucc s.counters.learnRefusals }
          words := { s.words with raised := s.words.raised ++ [⟨.mapFull, portCharacter p, a⟩] } }, .goOn)) ∧
    ((s.admin p).isDown = true ∨ (s.port p).record.learn = false → s.updateMap a p = (s, .goOn))

/-- An entry that exists where nothing is learned: with the learn option off a station heard on its own port is refreshed all
the same, and a LEARNED entry heard on another port keeps port and age, its silence count returning to 0 (case L3); with the
ingress port down no entry changes. A static conflict is judged in either case. -/
def Sys2Proof.Statements.MapUpdateWithoutLearning : Prop :=
  ∀ (a : Byte) (p : Port) (e : StationEntry) (s : State), s.lookup a = some e →
    let withEntry (f : StationEntry → StationEntry) : State :=
      { s with map := { s.map with entries := s.map.entries.map fun x => if x.address = a then f x else x } }
    ((s.admin p).isDown = false → (s.port p).record.learn = false → e.port = p →
      s.updateMap a p =
        (withEntry fun x => { x with
          silence := 0, origin := if x.origin = .static then .static else .learned 0 }, .goOn)) ∧
    ((s.admin p).isDown = false → (s.port p).record.learn = false → e.port ≠ p → e.origin ≠ .static →
      s.updateMap a p = (withEntry fun x => { x with silence := 0 }, .goOn)) ∧
    ((s.admin p).isDown = true → e.port = p ∨ e.origin ≠ .static → s.updateMap a p = (s, .goOn)) ∧
    ((s.admin p).isDown = true ∨ (s.port p).record.learn = false → e.port ≠ p → e.origin = .static →
      s.updateMap a p =
        ({ s with
          counters := { s.counters with staticConflicts := stoppingSucc s.counters.staticConflicts }
          words := { s.words with raised := s.words.raised ++ [⟨.sourceConflict, a, portCharacter p⟩] } }, .drop))

/-- The map update of a decision, case by case (Table 5-1). -/
def Obligations.MapUpdateFollowsItsCases : Prop :=
  MapUpdateLearnsFromSource ∧ LearningNeverEvicts ∧ MapUpdateWithoutLearning ∧ InsertionKeepsEntries

/-- `v` is the entry that a STATIC write into the full list evicts: LEARNED, of the greatest age, and among equals of the lowest
address (R89). -/
structure Sys2Proof.Statements.Evicted (entries : List StationEntry) (v : StationEntry) : Prop where
  full : entries.length = 96
  ascending : entries.Pairwise fun x y => x.address.toNat < y.address.toNat
  present : v ∈ entries
  learned : v.isLearned = true
  oldest : ∀ x ∈ entries, x.isLearned = true →
    x.age < v.age ∨ (x.age = v.age ∧ v.address.toNat ≤ x.address.toNat)

/-- A STATIC write into a full map evicts the LEARNED entry of greatest age, and among equals the one of lowest address, every
other entry staying; with no LEARNED entry it is refused. -/
def Sys2Proof.Statements.WriteIntoFullMap : Prop :=
  ∀ (e : StationEntry) (s : State), s.map.entries.Pairwise (fun x y => x.address.toNat < y.address.toNat) →
    s.map.entries.length = 96 → s.lookup e.address = none →
    ((∀ x ∈ s.map.entries, x.origin = .static) → s.writeStatic e = none) ∧
    ∀ v, Evicted s.map.entries v →
      s.writeStatic e = some { s with
        map := { s.map with entries := insertStation e (s.map.entries.filter fun x => x.address != v.address) } }

/-- A STATIC write into a full map, and how an entry joins the list. -/
def Obligations.StaticWriteEvictsOldestLearned : Prop := WriteIntoFullMap ∧ InsertionKeepsEntries

/-! ## Admissions to the transmit queues -/

/-- An admission with room (R32): a port that is down admits nothing and nothing changes; a queue with room takes an ORDINARY
entry at its tail and a PRIORITY entry behind the entry in transmission and every PRIORITY entry, ahead of the ORDINARY
ones, and the slot's count rises by one. -/
def Sys2Proof.Statements.AdmissionWithRoom : Prop :=
  ∀ (p : Port) (e : QueueEntry) (s : State),
    ((s.admin p).isDown = true → s.offer p e = (s, false)) ∧
    (HasRoom s p → bandsInOrder (s.port p).transmitter.waiting →
      ∃ t, s.offer p e = (t, true) ∧ t = { s with ports := t.ports, slots := t.slots } ∧
        (∀ q : Port, q ≠ p → t.port q = s.port q) ∧ t.port p = admitted (s.port p) e ∧
        t.slot e.slot = { s.slot e.slot with refs := (s.slot e.slot).refs + 1 } ∧ OnlySlot s t e.slot ∧
        (e.band = .ordinary → (t.port p).transmitter.queue = (s.port p).transmitter.queue ++ [e]) ∧
        (e.band = .priority →
          (t.port p).transmitter.queue =
            (s.port p).transmitter.inTransmission ++
              (s.port p).transmitter.waiting.filter (·.band == .priority) ++
              e :: (s.port p).transmitter.waiting.filter (·.band == .ordinary)))

/-- An admission to a full queue (R33): an ORDINARY entry is refused and counted, and so is a PRIORITY entry with no ORDINARY
entry to displace; else the youngest ORDINARY entry not in transmission leaves, its reference released (the last one frees the
slot), its departure announced and displacements rising, and the PRIORITY entry joins behind the others of its band. No other
port and no other slot changes. -/
def Sys2Proof.Statements.AdmissionToFullQueue : Prop :=
  ∀ (p : Port) (e : QueueEntry) (s : State), (s.admin p).isDown = false →
    (s.port p).transmitter.queue.length = 16 →
    let refused := { s with ports := s.ports.set p { s.port p with
      counters := { (s.port p).counters with queueFull := stoppingSucc (s.port p).counters.queueFull } } }
    (e.band = .ordinary → s.offer p e = (refused, false)) ∧
    (e.band = .priority → (∀ x ∈ (s.port p).transmitter.waiting, x.band = .priority) →
      s.offer p e = (refused, false)) ∧
    ∀ (before behind : List QueueEntry) (d : QueueEntry), e.band = .priority →
      (s.port p).transmitter.waiting = before ++ d :: behind → d.band = .ordinary →
      (∀ x ∈ behind, x.band = .priority) → d.slot ≠ e.slot →
      ∃ t, s.offer p e = (t, true) ∧ t = { s with ports := t.ports, slots := t.slots, words := t.words } ∧
        (∀ q : Port, q ≠ p → t.port q = s.port q) ∧ DisplacedFor (s.port p) (t.port p) e (before ++ behind) ∧
        (∀ j : SlotId, j ≠ e.slot → j ≠ d.slot → t.slot j = s.slot j) ∧
        t.slot e.slot = { s.slot e.slot with refs := (s.slot e.slot).refs + 1 } ∧
        t.words = announcedWords s p .displaced d ∧
        (1 < (s.slot d.slot).refs → t.slot d.slot = { s.slot d.slot with refs := (s.slot d.slot).refs - 1 }) ∧
        ((s.slot d.slot).refs = 1 → s.heldOutside d.slot = false → t.slot d.slot = Slot.empty)

/-- Every departure releases one reference on the entry's slot and is announced to the block whose record names the slot, and
to no other (R34). -/
def Sys2Proof.Statements.DeparturesAreAnnounced : Prop :=
  ∀ (p : Port) (m : Manner) (e : QueueEntry) (s : State),
    let t := s.depart p m e
    t = { s with slots := t.slots, words := announcedWords s p m e } ∧ OnlySlot s t e.slot ∧
    (1 < (s.slot e.slot).refs → t.slot e.slot = { s.slot e.slot with refs := (s.slot e.slot).refs - 1 }) ∧
    ((s.slot e.slot).refs = 1 → s.heldOutside e.slot = false → t.slot e.slot = Slot.empty)

/-- Admissions follow the rules of the queues, and every entry that leaves one is announced. -/
def Obligations.AdmissionsFollowQueueRules : Prop :=
  AdmissionWithRoom ∧ AdmissionToFullQueue ∧ DeparturesAreAnnounced

/-! ## Relay decisions (RELAY_DECISION) -/

/-- The Relay Unit has the frame `h` at the head of its input list, in service, and nothing else holds its slot. -/
structure Sys2Proof.Statements.Deciding (s : State) (h : HeldFrame) (rest : List HeldFrame) : Prop where
  inService : s.phase = .inService
  input : s.relay.input = h :: rest
  refs : (s.slot h.slot).refs = 0
  noReceiver : s.receiverHolds h.slot = false
  once : ∀ x ∈ rest, x.slot ≠ h.slot
  notQueued : ∀ x ∈ s.management.queue, x.slot ≠ h.slot

/-- The decision ends with the frame dropped: `t` is `u` with the frame out of the input list, its slot FREE, and the relay-wide
counters `k`. -/
def Sys2Proof.Statements.Dropped (u t : State) (h : HeldFrame) (rest : List HeldFrame) (k : RelayCounters) : Prop :=
  t = { u with relay := { u.relay with input := rest }, slots := t.slots, counters := k } ∧
  t.slot h.slot = Slot.empty ∧ OnlySlot u t h.slot

/-- The frame's source passes the source check, and the map update says CONTINUE and leaves `u`. -/
structure Sys2Proof.Statements.Continues (s u : State) (h : HeldFrame) : Prop where
  source : isStationAddress (s.slot h.slot).source = true
  notOwn : (s.slot h.slot).source ≠ s.management.ownAddress
  update : s.updateMap (s.slot h.slot).source h.ingress = (u, .goOn)

/-- The first four steps of a decision: a source of 00h or FFh, the own address as source, a static conflict, a destination of
00h and a frame for the relay of a kind other than REQUEST are dropped, each with its counter; a REQUEST for the relay joins
the Management Unit's input queue, or overflows it. -/
def Obligations.DecisionJudgesAddresses : Prop :=
  ∀ (h : HeldFrame) (rest : List HeldFrame) (s : State), Deciding s h rest →
    let f := s.slot h.slot
    (f.source = 0x00 ∨ f.source = 0xFF →
      ∃ t, exec .relayDecision s = .next t ∧
        Dropped s t h rest { s.counters with badSource := stoppingSucc s.counters.badSource }) ∧
    (isStationAddress f.source = true → f.source = s.management.ownAddress →
      ∃ t, exec .relayDecision s = .next t ∧
        Dropped
          { s with words := { s.words with
            raised := s.words.raised ++ [⟨.sourceConflict, s.management.ownAddress, portCharacter h.ingress⟩] } }
          t h rest { s.counters with ownSource := stoppingSucc s.counters.ownSource }) ∧
    (∀ u, isStationAddress f.source = true → f.source ≠ s.management.ownAddress →
      s.updateMap f.source h.ingress = (u, .drop) →
      ∃ t, exec .relayDecision s = .next t ∧ Dropped u t h rest u.counters) ∧
    ∀ u, Continues s u h →
      (f.destination = 0x00 →
        ∃ t, exec .relayDecision s = .next t ∧
          Dropped u t h rest { u.counters with badAddress := stoppingSucc u.counters.badAddress }) ∧
      (f.destination ≠ 0x00 → f.destination = s.management.ownAddress → f.kind ≠ .request →
        ∃ t, exec .relayDecision s = .next t ∧
          Dropped u t h rest { u.counters with notARequest := stoppingSucc u.counters.notARequest }) ∧
      (f.destination ≠ 0x00 → f.destination = s.management.ownAddress → f.kind = .request →
        4 ≤ s.management.queue.length →
        ∃ t, exec .relayDecision s = .next t ∧
          Dropped u t h rest { u.counters with managementOverflow := stoppingSucc u.counters.managementOverflow }) ∧
      (f.destination ≠ 0x00 → f.destination = s.management.ownAddress → f.kind = .request →
        s.management.queue.length < 4 →
        exec .relayDecision s = .next { u with
          relay := { u.relay with input := rest }
          management := { u.management with queue := u.management.queue ++ [h] } })

/-- What the reply matching makes of `w`, the state after the map update, with the frame going on: a REPLY with an open exchange to
close closes it, an orphan goes on under the policy PASS, and a frame of another kind is not matched (R99, R100). -/
def Sys2Proof.Statements.GoesOnFromMatching (s w u : State) (h : HeldFrame) : Prop :=
  let f := s.slot h.slot
  let key : ExchangeKey := ⟨f.destination, f.source, f.tag⟩
  (f.kind ≠ .reply ∧ u = w) ∨
  (f.kind = .reply ∧ (∀ x ∈ w.exchanges, x.key ≠ key) ∧ s.relay.orphanPolicy = .pass ∧ u = w) ∨
  (f.kind = .reply ∧ ∃ x, w.exchanges.find? (·.key == key) = some x ∧ x.slot ≠ h.slot ∧
    u = w.closeExchange x .byReply)

/-- The frame reaches the rule list, and `u` is left of `s`: its source is accepted, its destination is neither 00h nor the own
address, and the reply matching lets it go on. -/
structure Sys2Proof.Statements.ReachesRules (s u : State) (h : HeldFrame) (rest : List HeldFrame) : Prop
    extends Deciding s h rest where
  destination : (s.slot h.slot).destination ≠ 0x00
  elsewhere : (s.slot h.slot).destination ≠ s.management.ownAddress
  goesOn : ∃ w, Continues s w h ∧ GoesOnFromMatching s w u h

/-- `r` is the first rule of a list that matches the frame `f`: its four address bounds, its kind set and its port set hold the
frame's, and no rule before it matches (R102). -/
structure Sys2Proof.Statements.FirstMatch (rules : List Rule) (h : HeldFrame) (f : Slot) (before : List Rule) (r : Rule)
    (behind : List Rule) : Prop where
  place : rules = before ++ r :: behind
  earlier : ∀ x ∈ before, x.fields.matchesFrame h f = false
  source : r.fields.sourceLow.toNat ≤ f.source.toNat ∧ f.source.toNat ≤ r.fields.sourceHigh.toNat
  destination : r.fields.destinationLow.toNat ≤ f.destination.toNat ∧
    f.destination.toNat ≤ r.fields.destinationHigh.toNat
  kind : r.fields.kinds.getLsbD f.kind.code.toNat = true
  ingress : r.fields.ingressPorts.getLsbD h.ingress.val = true

/-- `u` with the hit count of rule `r` risen by one (R102). -/
def Sys2Proof.Statements.hitCounted (u : State) (before : List Rule) (r : Rule) (behind : List Rule) : State :=
  { u with relay := { u.relay with rules := before ++ { r with hits := stoppingSucc r.hits } :: behind } }

/-- The frame goes on from the rule list by `route`, with `v` left of `u`: by the default action PASS with no rule matching, or
by a first matching rule of action PASS or REDIRECT with its hit counted (R102). -/
def Sys2Proof.Statements.GoesOnFromRules (s u v : State) (h : HeldFrame) (route : Route) : Prop :=
  ((∀ r ∈ s.relay.rules, r.fields.matchesFrame h (s.slot h.slot) = false) ∧ s.relay.defaultAction = .pass ∧
    route = .normal ∧ v = u) ∨
  ∃ before r behind, FirstMatch s.relay.rules h (s.slot h.slot) before r behind ∧ v = hitCounted u before r behind ∧
    ((r.fields.action = .pass ∧ route = .normal) ∨
      (r.fields.action = .redirect ∧ route = .redirect r.fields.redirectPort))

/-- The frame passes the rule list and the hop limit. -/
structure Sys2Proof.Statements.PassesRules (s u v : State) (h : HeldFrame) (rest : List HeldFrame) (route : Route) : Prop
    extends ReachesRules s u h rest where
  rules : GoesOnFromRules s u v h route
  hops : (s.slot h.slot).hop ≠ 3

/-- The output set (R105): the redirect port for a redirected frame, else the map's port for a known station and every port for
a broadcast or an unknown one, less the ingress port and the ports that are down. -/
def Sys2Proof.Statements.outputPorts (u : State) (h : HeldFrame) (destination : Byte) (route : Route) : List Port :=
  allPorts.filter fun q =>
    decide (q ≠ h.ingress) && !(u.admin q).isDown &&
      match route with
      | .redirect p => decide (q = p)
      | .normal => destination == 0xFF || decide (((u.lookup destination).map (·.port)).getD q = q)

/-- The frame is redirected, or its destination is no unknown station behind a port with its flood option off. -/
def Sys2Proof.Statements.HasStartingSet (u : State) (h : HeldFrame) (destination : Byte) (route : Route) : Prop :=
  route ≠ .normal ∨ destination = 0xFF ∨ u.lookup destination ≠ none ∨
    (u.port h.ingress).record.floodUnknown = true

/-- The entry under which a relayed frame is offered: REQUEST and DATAGRAM are ORDINARY, REPLY and REPORT PRIORITY (R30). -/
def Sys2Proof.Statements.relayedEntry (f : Slot) (i : SlotId) : QueueEntry :=
  ⟨if f.kind = .reply ∨ f.kind = .report then .priority else .ordinary, 0, .relayed, i⟩

/-- The frame of slot `h.slot` stands admitted at every port of `out`, its hop count raised by one, and `count` references on its
slot; every other port and slot is as in `u`. -/
def Sys2Proof.Statements.Carried (u t : State) (h : HeldFrame) (out : List Port) (count : Nat) : Prop :=
  (∀ q ∈ out, t.port q = admitted (u.port q) (relayedEntry (u.slot h.slot) h.slot)) ∧
  (∀ q : Port, q ∉ out → t.port q = u.port q) ∧
  t.slot h.slot = { (u.slot h.slot).raiseHop with refs := count } ∧ OnlySlot u t h.slot

/-- The queue of port `q` admits the entry or refuses it with no displacement: it has room, or it is full and the entry is
ORDINARY or stands behind PRIORITY entries alone (R32, R33). -/
def Sys2Proof.Statements.AdmitsOrRefuses (u : State) (q : Port) (e : QueueEntry) : Prop :=
  (u.port q).transmitter.queue.length ≤ 16 ∧
  ((u.port q).transmitter.queue.length = 16 →
    e.band = .ordinary ∨ ∀ x ∈ (u.port q).transmitter.waiting, x.band = .priority)

/-- The ports of `out` whose queue has room. -/
def Sys2Proof.Statements.portsWithRoom (u : State) (out : List Port) : List Port :=
  out.filter fun q => decide ((u.port q).transmitter.queue.length < 16)

/-- The frame of slot `h.slot` has been offered to the ports of `out`: it stands at those with room, the others of `out` have
counted a refusal, and every port outside `out` is as in `u`. -/
def Sys2Proof.Statements.OfferedTo (u t : State) (h : HeldFrame) (out : List Port) : Prop :=
  (∀ q ∈ portsWithRoom u out, t.port q = admitted (u.port q) (relayedEntry (u.slot h.slot) h.slot)) ∧
  (∀ q ∈ out, q ∉ portsWithRoom u out → t.port q = refusing (u.port q)) ∧
  (∀ q : Port, q ∉ out → t.port q = u.port q) ∧ OnlySlot u t h.slot

/-- A frame that passes the rule list, by the default action, a PASS rule or a REDIRECT rule, is dropped as unknown where its
destination is unknown and the flood option of its port off, and as local with an empty output set; these hold of a REQUEST too.
One that opens no exchange, a reply that closed one among them, is else offered to every port of its output set with its hop
count raised, and its slot let go: admitted where the queue has room, refused and counted at a full one (R33 says which queues
displace), the slot FREE with no copy admitted. -/
def Obligations.DecisionCarriesFrame : Prop :=
  ∀ (h : HeldFrame) (rest : List HeldFrame) (s u v : State) (route : Route), PassesRules s u v h rest route →
    let f := s.slot h.slot
    let out := outputPorts u h f.destination route
    let e := relayedEntry f h.slot
    let opensNone := f.kind ≠ .request ∨ f.destination = 0xFF
    (¬ HasStartingSet u h f.destination route →
      ∃ t, exec .relayDecision s = .next t ∧
        Dropped v t h rest { u.counters with unknown := stoppingSucc u.counters.unknown }) ∧
    (HasStartingSet u h f.destination route → out = [] →
      ∃ t, exec .relayDecision s = .next t ∧
        Dropped v t h rest { u.counters with localDrops := stoppingSucc u.counters.localDrops }) ∧
    (opensNone → HasStartingSet u h f.destination route → out ≠ [] →
      exec .relayDecision s = .next ((State.offerAll
        { v with
          relay := { v.relay with input := rest }
          slots := v.slots.set h.slot (v.slot h.slot).raiseHop } e out).1.letGo h.slot)) ∧
    (opensNone → HasStartingSet u h f.destination route → out ≠ [] → (∀ q ∈ out, HasRoom u q) →
      ∃ t, exec .relayDecision s = .next t ∧
        t = { v with relay := { v.relay with input := rest }, ports := t.ports, slots := t.slots } ∧
        Carried u t h out out.length) ∧
    (opensNone → HasStartingSet u h f.destination route → out ≠ [] → (∀ q ∈ out, AdmitsOrRefuses u q e) →
      ∃ t, exec .relayDecision s = .next t ∧
        t = { v with relay := { v.relay with input := rest }, ports := t.ports, slots := t.slots } ∧
        OfferedTo u t h out ∧
        (portsWithRoom u out ≠ [] →
          t.slot h.slot = { (u.slot h.slot).raiseHop with refs := (portsWithRoom u out).length }) ∧
        (portsWithRoom u out = [] → t.slot h.slot = Slot.empty))

/-- A rule matches a frame exactly when the frame's source and destination lie in its ranges, its kind is in the kind set (bit 0
DATAGRAM, 1 REQUEST, 2 REPLY, 3 REPORT) and its ingress port in the port set; so it does not when one of the four lies outside. -/
def Sys2Proof.Statements.RuleMatchesByItsFields : Prop :=
  ∀ (r : RuleFields) (h : HeldFrame) (f : Slot),
    r.matchesFrame h f = true ↔
      (r.sourceLow.toNat ≤ f.source.toNat ∧ f.source.toNat ≤ r.sourceHigh.toNat) ∧
      (r.destinationLow.toNat ≤ f.destination.toNat ∧ f.destination.toNat ≤ r.destinationHigh.toNat) ∧
      (match f.kind with
        | .datagram => r.kinds.getLsbD 0
        | .request => r.kinds.getLsbD 1
        | .reply => r.kinds.getLsbD 2
        | .report => r.kinds.getLsbD 3) = true ∧
      r.ingressPorts.getLsbD h.ingress.val = true

/-- The rule list: the first rule that matches has its hit count raised and its action taken, DROP counted as a rule drop, PASS
and REDIRECT going on to the hop limit, REDIRECT then carrying a frame that opens no exchange to the redirect port alone;
with no match the default action DROP counts a rule drop and PASS goes on to the hop limit. At hop count 3 the frame is
dropped and counted there. -/
def Sys2Proof.Statements.RulesDecide : Prop :=
  ∀ (h : HeldFrame) (rest : List HeldFrame) (s u : State), ReachesRules s u h rest →
    let f := s.slot h.slot
    ((∀ r ∈ s.relay.rules, r.fields.matchesFrame h f = false) →
      (s.relay.defaultAction = .drop →
        ∃ t, exec .relayDecision s = .next t ∧
          Dropped u t h rest { u.counters with ruleDrops := stoppingSucc u.counters.ruleDrops }) ∧
      (s.relay.defaultAction = .pass → f.hop = 3 →
        ∃ t, exec .relayDecision s = .next t ∧
          Dropped u t h rest { u.counters with hopLimit := stoppingSucc u.counters.hopLimit })) ∧
    ∀ (before behind : List Rule) (r : Rule), FirstMatch s.relay.rules h f before r behind →
      let hit := hitCounted u before r behind
      (r.fields.action = .drop →
        ∃ t, exec .relayDecision s = .next t ∧
          Dropped hit t h rest { u.counters with ruleDrops := stoppingSucc u.counters.ruleDrops }) ∧
      (r.fields.action ≠ .drop → f.hop = 3 →
        ∃ t, exec .relayDecision s = .next t ∧
          Dropped hit t h rest { u.counters with hopLimit := stoppingSucc u.counters.hopLimit }) ∧
      (r.fields.action = .redirect → f.hop ≠ 3 →
        (r.fields.redirectPort = h.ingress ∨ (u.admin r.fields.redirectPort).isDown = true) →
        ∃ t, exec .relayDecision s = .next t ∧
          Dropped hit t h rest { u.counters with localDrops := stoppingSucc u.counters.localDrops }) ∧
      (r.fields.action = .redirect → f.hop ≠ 3 → r.fields.redirectPort ≠ h.ingress →
        HasRoom u r.fields.redirectPort → (f.kind ≠ .request ∨ f.destination = 0xFF) →
        ∃ t, exec .relayDecision s = .next t ∧
          t = { hit with relay := { hit.relay with input := rest }, ports := t.ports, slots := t.slots } ∧
          Carried u t h [r.fields.redirectPort] 1)

/-- Which rules match, and what the first that does decides. -/
def Obligations.FirstMatchingRuleDecides : Prop := RuleMatchesByItsFields ∧ RulesDecide

/-- The record a request opens (R113), with `out` as its output set. -/
def Sys2Proof.Statements.openedRecord (u : State) (h : HeldFrame) (f : Slot) (out : List Port) : Exchange :=
  { attempt := 1, deadline := none, key := ⟨f.source, f.destination, f.tag⟩, requesterPort := h.ingress
    responderPort := match out with
      | [p] => .port p
      | _ => .flooded
    retryAllowed := decide (out.length = 1) && ((u.lookup f.destination).map (·.retry)).getD true
    slot := h.slot, state := .sendPending
    timeoutClass := ((u.lookup f.destination).map (·.timeoutClass)).getD 0 }

/-- A REQUEST to a station that passes the rule list, redirected or not, and has ports to go to opens an exchange at the tail of
the table, its record set from the frame, the output set and the map entry, and is carried; with every queue of the output set
full it is closed again with BUSY/QUEUE_FULL asked for, and announcements for its slot not yet taken are dropped (log entry 7).
A duplicate key drops it; a full table drops it with BUSY/EXCHANGES_FULL asked for. -/
def Obligations.RequestOpensExchange : Prop :=
  ∀ (h : HeldFrame) (rest : List HeldFrame) (s u v : State) (route : Route), PassesRules s u v h rest route →
    let f := s.slot h.slot
    let key : ExchangeKey := ⟨f.source, f.destination, f.tag⟩
    let out := outputPorts u h f.destination route
    let room := portsWithRoom u out
    f.kind = .request → f.destination ≠ 0xFF → HasStartingSet u h f.destination route → out ≠ [] →
    ((∃ x ∈ u.exchanges, x.key = key) →
      ∃ t, exec .relayDecision s = .next t ∧
        Dropped v t h rest { u.counters with duplicate := stoppingSucc u.counters.duplicate }) ∧
    ((∀ x ∈ u.exchanges, x.key ≠ key) → 16 ≤ u.exchanges.length →
      ∃ t, exec .relayDecision s = .next t ∧
        Dropped { v with reports := u.reports ++ [⟨.busy .exchangesFull, key, h.ingress⟩] } t h rest
          { u.counters with exchangesFull := stoppingSucc u.counters.exchangesFull }) ∧
    ((∀ x ∈ u.exchanges, x.key ≠ key) → u.exchanges.length < 16 →
      (∀ q ∈ out, (u.port q).transmitter.queue.length ≤ 16) →
      (room ≠ [] →
        ∃ t, exec .relayDecision s = .next t ∧
          t = { v with
            relay := { v.relay with input := rest }, ports := t.ports, slots := t.slots
            exchanges := u.exchanges ++ [openedRecord u h f out] } ∧
          OfferedTo u t h out ∧ t.slot h.slot = { (u.slot h.slot).raiseHop with refs := room.length + 1 }) ∧
      (room = [] → (∀ q : Port, ∀ e ∈ (u.port q).transmitter.queue, e.slot ≠ h.slot) →
        (∀ q : Port, (u.port q).transmitter.state = .waitGap → (u.port q).transmitter.queue ≠ []) →
        ∃ t, exec .relayDecision s = .next t ∧
          t = { v with
            relay := { v.relay with input := rest }, ports := t.ports, slots := t.slots
            counters := { u.counters with queueFullClosures := stoppingSucc u.counters.queueFullClosures }
            reports := u.reports ++ [⟨.busy .queueFull, key, h.ingress⟩]
            words := { u.words with tracker := u.words.tracker.filter fun d => d.slot != h.slot } } ∧
          OfferedTo u t h out ∧ t.slot h.slot = Slot.empty))

/-! ## Exchanges (EXCHANGE_COMPLETED, EXCHANGE_DISCARDED, EXCHANGE_DISPLACED, FIRST_EXPIRY, SECOND_EXPIRY, PORT_DOWN_WORD) -/

/-- The exchange `x` of `s` has closed (R114): its record left the table, the report was asked for, the counters are `k`, the
words of timeouts `timeouts`; every waiting entry of its slot left its queue, those in transmission stay, and the slot is
FREE when nothing else names it. -/
def Sys2Proof.Statements.Closed (s t : State) (x : Exchange) (report : Option ReportReason) (k : RelayCounters)
    (timeouts : List Byte) : Prop :=
  t = { s with
    exchanges := s.exchanges.eraseP (·.key == x.key)
    reports := s.reports ++ (report.map fun r => ReportRequest.mk r x.key x.requesterPort).toList
    counters := k, ports := t.ports, slots := t.slots, words := t.words } ∧
  t.words.timeouts = timeouts ∧ t.words.portDown = s.words.portDown ∧ t.words.raised = s.words.raised ∧
  OnlySlot s t x.slot ∧
  (∀ p : Port, t.port p = { s.port p with transmitter := { (s.port p).transmitter with
    queue := (t.port p).transmitter.queue, state := (t.port p).transmitter.state } }) ∧
  (∀ p : Port, (t.port p).transmitter.queue =
    (s.port p).transmitter.inTransmission ++ (s.port p).transmitter.waiting.filter (·.slot != x.slot)) ∧
  ((∀ p : Port, ∀ e ∈ (s.port p).transmitter.inTransmission, e.slot ≠ x.slot) →
    (s.slot x.slot).refs = entriesNaming s x.slot + 1 → s.heldOutside x.slot = false →
    t.slot x.slot = Slot.empty)

/-- A REPLY closes the open exchange with its destination as requester, its source as responder and its tag, whatever later
steps do with the reply (DecisionCarriesFrame and FirstMatchingRuleDecides say what they do): the record leaves, no report is
asked for, no waiting copy of the request stays queued, and the request's slot is released, FREE when nothing else names it.
With no such exchange and the orphan policy DROP the reply is dropped. -/
def Obligations.ReplyClosesItsExchange : Prop :=
  ∀ (h : HeldFrame) (rest : List HeldFrame) (s u : State), Deciding s h rest → Continues s u h →
    let f := s.slot h.slot
    let key : ExchangeKey := ⟨f.destination, f.source, f.tag⟩
    f.kind = .reply → f.destination ≠ 0x00 → f.destination ≠ s.management.ownAddress →
    (∀ x, u.exchanges.find? (·.key == key) = some x → x.slot ≠ h.slot →
      Closed u (u.closeExchange x .byReply) x none
        { u.counters with repliesMatched := stoppingSucc u.counters.repliesMatched } u.words.timeouts ∧
      ∃ t, exec .relayDecision s = .next t ∧ t.exchanges = u.exchanges.eraseP (·.key == key) ∧
        t.reports = u.reports ∧ t.words.timeouts = u.words.timeouts ∧ t.map = u.map ∧
        t.counters.repliesMatched = stoppingSucc u.counters.repliesMatched ∧
        (∀ p : Port, ∀ e ∈ (t.port p).transmitter.waiting, e.slot ≠ x.slot) ∧
        ((∀ p : Port, ∀ e ∈ (u.port p).transmitter.inTransmission, e.slot ≠ x.slot) →
          (u.slot x.slot).refs = entriesNaming u x.slot + 1 → u.heldOutside x.slot = false →
          t.slot x.slot = Slot.empty)) ∧
    ((∀ x ∈ u.exchanges, x.key ≠ key) → s.relay.orphanPolicy = .drop →
      ∃ t, exec .relayDecision s = .next t ∧
        Dropped u t h rest { u.counters with orphanDrops := stoppingSucc u.counters.orphanDrops })

/-- The tracker takes the departure of a copy of an open exchange's request, no two exchanges having one key. A completion starts
the deadline timer with the value of the record's class, counted from the event of the last good echo (log entry 26), and
is without effect on one that awaits its reply. A discard or a displacement closes the exchange, with LINE_FAULT or with
BUSY, when no copy has completed and none remains queued. -/
def Obligations.TrackerTakesDepartures : Prop :=
  ∀ (i : SlotId) (d : AgedDeparture) (x : Exchange) (s : State), s.phase = .inService → KeysDistinct s →
    s.words.tracker.find? (·.slot == i) = some d → s.exchanges.find? (·.slot == i) = some x →
    let taken := { s with words := { s.words with tracker := s.words.tracker.erase d } }
    let awaiting (st : ExchangeState) := { taken with
      exchanges := s.exchanges.map fun y =>
        if y.key = x.key then
          { y with deadline := some (msCycles (s.timeoutTable.get x.timeoutClass) - d.age), state := st }
        else y }
    let unchanged := x.state = .awaitReply ∨ x.state = .retryAwait ∨
      (x.state = .sendPending ∧ s.entryNames x.slot = true)
    let closes := x.state = .retryPending ∨ (x.state = .sendPending ∧ s.entryNames x.slot = false)
    (d.manner = .completed →
      (x.state = .sendPending → exec (.exchangeCompleted i) s = .next (awaiting .awaitReply)) ∧
      (x.state = .retryPending → exec (.exchangeCompleted i) s = .next (awaiting .retryAwait)) ∧
      (x.state = .awaitReply → exec (.exchangeCompleted i) s = .next taken)) ∧
    (d.manner = .discarded →
      (unchanged → exec (.exchangeDiscarded i) s = .next taken) ∧
      (closes → ∃ t, exec (.exchangeDiscarded i) s = .next t ∧
        Closed taken t x (some (.noAnswer .lineFault))
          { s.counters with lineFaults := stoppingSucc s.counters.lineFaults } s.words.timeouts)) ∧
    (d.manner = .displaced →
      (unchanged → exec (.exchangeDisplaced i) s = .next taken) ∧
      (closes → ∃ t, exec (.exchangeDisplaced i) s = .next t ∧
        Closed taken t x (some (.busy .queueFull))
          { s.counters with queueFullClosures := stoppingSucc s.counters.queueFullClosures } s.words.timeouts))

/-- The first expiry: a record with retry allowed and a single responder port has its retry admitted, ORDINARY, at the port the
map names for the responder (its recorded port with no entry), attempt 2, RETRY_PENDING, retries rising. Refused there,
FLOODED or with no retry allowed it closes with NO_ANSWER/TIMEOUT. With the timer still running nothing changes (the model's choice,
log entry 2). -/
def Obligations.FirstExpiryRetriesOrCloses : Prop :=
  ∀ (k : ExchangeKey) (x : Exchange) (s : State), s.phase = .inService →
    s.exchanges.find? (·.key == k) = some x →
    let timedOut (u t : State) : Prop := Closed u t x (some (.noAnswer .timeout))
      { s.counters with timeouts := stoppingSucc s.counters.timeouts } (s.words.timeouts ++ [x.key.responder])
    (x.state = .awaitReply → x.deadline = some 0 →
      (∀ p q : Port, x.responderPort = .port p → x.retryAllowed = true →
        q = ((s.lookup x.key.responder).map (·.port)).getD p →
        (HasRoom s q →
          ∃ t, exec (.firstExpiry k) s = .next t ∧
            t = { s with
              ports := t.ports, slots := t.slots
              counters := { s.counters with retries := stoppingSucc s.counters.retries }
              exchanges := s.exchanges.map fun y =>
                if y.key = x.key then
                  { y with attempt := 2, deadline := none, responderPort := .port q, state := .retryPending }
                else y } ∧
            t.port q = admitted (s.port q) ⟨.ordinary, 0, .relayed, x.slot⟩ ∧
            (∀ r : Port, r ≠ q → t.port r = s.port r) ∧ OnlySlot s t x.slot ∧
            t.slot x.slot = { s.slot x.slot with refs := (s.slot x.slot).refs + 1 }) ∧
        ((s.admin q).isDown = true → ∃ t, exec (.firstExpiry k) s = .next t ∧ timedOut s t) ∧
        ((s.admin q).isDown = false → (s.port q).transmitter.queue.length = 16 →
          ∃ t, exec (.firstExpiry k) s = .next t ∧
            timedOut { s with ports := s.ports.set q { s.port q with
              counters := { (s.port q).counters with queueFull := stoppingSucc (s.port q).counters.queueFull } } } t)) ∧
      (x.retryAllowed = false ∨ x.responderPort = .flooded →
        ∃ t, exec (.firstExpiry k) s = .next t ∧ timedOut s t)) ∧
    (∀ n, x.deadline = some (n + 1) → exec (.firstExpiry k) s = .next s)

/-- At the second expiry, a record in RETRY_AWAIT whose timer has run down closes with NO_ANSWER/TIMEOUT and sends the Station
Map one word of the timeout; queuing the retry at the first expiry has sent none, and the map takes each word as one rise of
the silence count. -/
def Obligations.SecondExpiryClosesWithTimeout : Prop :=
  ∀ (k : ExchangeKey) (x : Exchange) (s : State), s.phase = .inService →
    s.exchanges.find? (·.key == k) = some x →
    (x.state = .retryAwait → x.deadline = some 0 →
      ∃ t, exec (.secondExpiry k) s = .next t ∧
        Closed s t x (some (.noAnswer .timeout))
          { s.counters with timeouts := stoppingSucc s.counters.timeouts }
          (s.words.timeouts ++ [x.key.responder])) ∧
    (∀ p : Port, x.state = .awaitReply → x.deadline = some 0 → x.responderPort = .port p → x.retryAllowed = true →
      HasRoom s (((s.lookup x.key.responder).map (·.port)).getD p) →
      ∃ t, exec (.firstExpiry k) s = .next t ∧ t.words.timeouts = s.words.timeouts ∧ t.map = s.map) ∧
    (∀ e ∈ s.map.entries, e.address = x.key.responder → e.silence ≠ 3 → x.key.responder ∈ s.words.timeouts →
      s.map.entries.Pairwise (fun a b => a.address ≠ b.address) →
      ∃ t, exec (.timeoutWord x.key.responder) s = .next t ∧ t.words.timeouts = s.words.timeouts.erase x.key.responder ∧
        t.map.entries = s.map.entries.map fun y =>
          if y.address = x.key.responder then { y with silence := y.silence + 1 } else y)

/-- How the word that port `p` has gone down judges a record, by "the first of these that applies" (R122). -/
inductive Sys2Proof.Statements.PortDownOutcome where
  | silent
  | reported
  | stays
  deriving DecidableEq

/-- A record whose requester port is `p` closes silently; else one whose responder port is `p`, and a FLOODED one in
SEND_PENDING with no entry naming its slot left in a queue, closes with PORT_DOWN; any other stays (R122). -/
def Sys2Proof.Statements.portDownOutcome (s : State) (p : Port) (x : Exchange) : PortDownOutcome :=
  if x.requesterPort = p then .silent
  else if x.responderPort = .port p then .reported
  else if x.responderPort = .flooded ∧ x.state = .sendPending ∧ entriesNaming s x.slot = 0 then .reported
  else .stays

/-- The slots of the records that the word closes. -/
def Sys2Proof.Statements.slotsClosed (s : State) (p : Port) : List SlotId :=
  (s.exchanges.filter fun x => portDownOutcome s p x ≠ .stays).map (·.slot)

/-- The entries in transmission that name slot `i`: a withdrawal passes them by (R35). -/
def Sys2Proof.Statements.entriesSendingSlot (s : State) (i : SlotId) : Nat :=
  (allPorts.map fun q => (s.port q).transmitter.inTransmission.countP (·.slot == i)).sum

/-- The word that a port has gone down judges every open record. The table keeps the records that stay, in their order; each
record closed with PORT_DOWN asks for its report, in opening order, and raises the counter; no word of a timeout is sent. In
every queue the waiting entries of the closed slots leave and those in transmission stay, and a closed slot keeps the
references of the latter or becomes FREE. Announcements for a closed slot that wait for the tracker are dropped (log entry 7). -/
def Obligations.PortDownWordClosesExchanges : Prop :=
  ∀ (p : Port) (s : State), s.phase = .inService → p ∈ s.words.portDown → PoolConsistent s →
    let reported := s.exchanges.filter fun x => portDownOutcome s p x = .reported
    let closed := slotsClosed s p
    ∃ t, exec (.portDownWord p) s = .next t ∧
      t = { s with
        ports := t.ports, slots := t.slots
        exchanges := s.exchanges.filter fun x => portDownOutcome s p x = .stays
        reports := s.reports ++ reported.map fun x => ⟨.noAnswer .portDown, x.key, x.requesterPort⟩
        counters := { s.counters with
          portDownClosures := reported.foldl (fun k _ => stoppingSucc k) s.counters.portDownClosures }
        words := { s.words with
          portDown := s.words.portDown.erase p
          tracker := s.words.tracker.filter fun d => d.slot ∉ closed } } ∧
      (∀ q : Port,
        let x := (s.port q).transmitter
        let kept := x.inTransmission ++ x.waiting.filter fun e => e.slot ∉ closed
        t.port q = { s.port q with transmitter := { x with queue := kept, state := (t.port q).transmitter.state } } ∧
        (x.state = .waitGap → x.queue ≠ [] → kept = [] → (t.port q).transmitter.state = .idle) ∧
        (x.state ≠ .waitGap ∨ kept ≠ [] → (t.port q).transmitter.state = x.state)) ∧
      (∀ i : SlotId, i ∉ closed → t.slot i = s.slot i) ∧
      ∀ i ∈ closed,
        (entriesSendingSlot s i = 0 → t.slot i = Slot.empty) ∧
        (entriesSendingSlot s i ≠ 0 → t.slot i = { s.slot i with refs := entriesSendingSlot s i })

/-! ## Path reports (PATH_REPORT) -/

/-- The Report Generator takes the oldest request: with no slot FREE the report is lost and counted; else its frame of kind
REPORT with code, reason and responder address is offered to the requester port alone. A refusal there, at a port that is down or
at a queue full with no ORDINARY entry to displace, loses it, counted by the queue too in the latter case. -/
def Obligations.PathReportGoesToRequesterPort : Prop :=
  ([ReportReason.noAnswer .timeout, .noAnswer .lineFault, .noAnswer .portDown, .busy .exchangesFull,
    .busy .queueFull].map ReportReason.characters = [[1, 1], [1, 2], [1, 3], [2, 1], [2, 2]]) ∧
  ∀ (r : ReportRequest) (rest : List ReportRequest) (s : State), s.phase = .inService → s.reports = r :: rest →
    let lost := { s.counters with reportsLost := stoppingSucc s.counters.reportsLost }
    (s.lowestFree = none → exec .pathReport s = .next { s with reports := rest, counters := lost }) ∧
    ∀ i, s.lowestFree = some i →
      (HasRoom s r.port →
        ∃ t, exec .pathReport s = .next t ∧
          t = { s with reports := rest, ports := t.ports, slots := t.slots } ∧
          t.slot i = ⟨frameCharacters r.key.requester s.management.ownAddress (controlOf .report 0 r.key.tag)
            (r.reason.characters ++ [r.key.responder]), 1, .inUse⟩ ∧
          OnlySlot s t i ∧ t.port r.port = admitted (s.port r.port) (generatedEntry i) ∧
          ∀ q : Port, q ≠ r.port → t.port q = s.port q) ∧
      (RefusesReply s r.port → s.heldOutside i = false →
        ∃ t, exec .pathReport s = .next t ∧
          t = { s with reports := rest, ports := t.ports, slots := t.slots, counters := lost } ∧
          t.slot i = Slot.empty ∧ OnlySlot s t i ∧ t.port r.port = refusedAt s r.port ∧
          ∀ q : Port, q ≠ r.port → t.port q = s.port q)

/-! ## Notices (NOTICE_RAISE, NOTICE_INTERVAL_EXPIRY, NOTICE_SEND, NOTICE_COPY_DEPARTURE) -/

/-- The answer to a raise: coalesced with a notice of the same kind and subject, discarded into the lost count at 8 notices, or
joined at the tail with the next sequence number, whichever of those outstanding it is (log entry 31). While the
IMAGE_RESULT of a start-up is outstanding no other raise is taken (log entry 28), so that it takes sequence number 0. -/
def Sys2Proof.Statements.RaiseJoinsOrCoalesces : Prop :=
  ∀ (n : RaisedNotice) (s : State), s.phase = .inService → n ∈ s.words.raised →
    let taken := { s with words := { s.words with raised := s.words.raised.erase n } }
    (n.kind = .imageResult ∨ (∀ r ∈ s.words.raised, r.kind ≠ .imageResult) →
      ((∃ x ∈ s.notices.list, x.kind = n.kind ∧ x.subject = n.subject) →
        exec (.noticeRaise n) s = .next taken) ∧
      ((∀ x ∈ s.notices.list, ¬ (x.kind = n.kind ∧ x.subject = n.subject)) → 8 ≤ s.notices.list.length →
        exec (.noticeRaise n) s = .next { taken with
          notices := { s.notices with lost := if s.notices.lost = 255 then 255 else s.notices.lost + 1 } }) ∧
      ((∀ x ∈ s.notices.list, ¬ (x.kind = n.kind ∧ x.subject = n.subject)) → s.notices.list.length < 8 →
        exec (.noticeRaise n) s = .next { taken with
          notices := { s.notices with
            list := s.notices.list ++ [⟨s.notices.next, n.kind, n.subject, n.detail⟩]
            next := s.notices.next + 1 } })) ∧
    (n.kind ≠ .imageResult → (∃ r ∈ s.words.raised, r.kind = .imageResult) → exec (.noticeRaise n) s = .next s) ∧
    (n.kind = .imageResult → NoticesInOrder s →
      exec (.noticeRaise n) s = .next { taken with
        notices := { s.notices with list := [⟨0, .imageResult, n.subject, n.detail⟩], next := 1 } })

/-- The interval timer expires and stops; while it runs, nothing changes (the model's choice, log entry 2). -/
def Sys2Proof.Statements.NoticeIntervalExpires : Prop :=
  ∀ s : State, s.phase = .inService →
    (s.notices.timer = some 0 →
      exec .noticeIntervalExpiry s = .next { s with notices := { s.notices with timer := none } }) ∧
    ∀ n, s.notices.timer = some (n + 1) → exec .noticeIntervalExpiry s = .next s

/-- The head notice is sent when there is a target other than the own address, none is in flight and the interval timer does
not run: to the port of the target's map entry, else to every port in service. A port that is down or whose queue is full with no
ORDINARY entry to displace refuses its copy, the others take theirs. With no copy admitted the send ends at once and the
timer starts; with no slot FREE slot wait becomes yes. Otherwise NOTICE_SEND changes nothing (the model's choice, log entry 2). -/
def Sys2Proof.Statements.HeadNoticeIsSent : Prop :=
  ∀ s : State, s.phase = .inService →
    ((s.notices.list = [] ∨ s.notices.target = none ∨ s.notices.target = some s.management.ownAddress ∨
        s.notices.inFlight ≠ none ∨ s.notices.timer ≠ none) → exec .noticeSend s = .next s) ∧
    ∀ (n : Notice) (rest : List Notice) (a : Byte), s.notices.list = n :: rest → s.notices.target = some a →
      a ≠ s.management.ownAddress → s.notices.inFlight = none → s.notices.timer = none →
      let ports : List Port := match s.lookup a with
        | some e => [e.port]
        | none => allPorts.filter fun p => !(s.admin p).isDown
      (s.lowestFree = none → exec .noticeSend s = .next { s with notices := { s.notices with slotWait := true } }) ∧
      ∀ i, s.lowestFree = some i →
        let taking := ports.filter fun p => !(s.admin p).isDown && decide ((s.port p).transmitter.queue.length < 16)
        let declining := ports.filter fun p => p ∉ taking
        ((∀ p ∈ declining, RefusesReply s p) → taking ≠ [] →
          ∃ t, exec .noticeSend s = .next t ∧
            t = { s with
              ports := t.ports, slots := t.slots
              notices := { s.notices with slotWait := false, inFlight := some ⟨i, n.sequence, taking.length, false⟩ } } ∧
            t.slot i = ⟨frameCharacters a s.management.ownAddress (controlOf .report 0 0)
              [3, n.sequence, noticeCode n.kind, n.subject, n.detail, s.notices.lost], taking.length, .inUse⟩ ∧
            OnlySlot s t i ∧ (∀ p ∈ taking, t.port p = admitted (s.port p) (generatedEntry i)) ∧
            (∀ p ∈ declining, t.port p = refusedAt s p) ∧ ∀ p : Port, p ∉ ports → t.port p = s.port p) ∧
        ((∀ p ∈ declining, RefusesReply s p) → taking = [] → s.heldOutside i = false →
          ∃ t, exec .noticeSend s = .next t ∧
            t = { s with
              ports := t.ports, slots := t.slots
              notices := { s.notices with slotWait := false, timer := some (14745600 * s.notices.interval) } } ∧
            t.slot i = Slot.empty ∧ OnlySlot s t i ∧ (∀ p ∈ ports, t.port p = refusedAt s p) ∧
            ∀ p : Port, p ∉ ports → t.port p = s.port p)

/-- A departure of a copy in flight lowers the copies; the last one ends the send, and the interval timer starts when the notice
carried is still at the head, its number there and no acknowledgment of it taken meanwhile (log entry 29). -/
def Sys2Proof.Statements.NoticeCopiesDepart : Prop :=
  ∀ (d : Departure) (rest : List Departure) (f : InFlight) (s : State), s.phase = .inService →
    s.words.noticeCopies = d :: rest → s.notices.inFlight = some f →
    let taken := { s with words := { s.words with noticeCopies := rest } }
    (1 < f.copies →
      exec .noticeCopyDeparture s = .next { taken with
        notices := { s.notices with inFlight := some { f with copies := f.copies - 1 } } }) ∧
    (f.copies = 1 →
      ((∃ n behind, s.notices.list = n :: behind ∧ n.sequence = f.sequence) → f.acknowledged = false →
        exec .noticeCopyDeparture s = .next { taken with
          notices := { s.notices with inFlight := none, timer := some (14745600 * s.notices.interval) } }) ∧
      (f.acknowledged = true ∨ (∀ n behind, s.notices.list = n :: behind → n.sequence ≠ f.sequence) →
        exec .noticeCopyDeparture s = .next { taken with
          notices := { s.notices with inFlight := none, timer := none } }))

/-- The Notice Unit's events: raises, sends, the end of a send and the interval. -/
def Obligations.NoticeUnitEvents : Prop :=
  RaiseJoinsOrCoalesces ∧ NoticeIntervalExpires ∧ HeadNoticeIsSent ∧ NoticeCopiesDepart

/-! ## Resets and start-up (POWER_ON, PIN_RESET, COLD_START, FLUSH_END, RESTART_TIMER_EXPIRY, WATCHED_REPLY_DEPARTURE) -/

/-- The values the spec gives the relay for reset, block by block. (The values that no rule gives are the model's own, log entry
11, and are not stated.) -/
def Sys2Proof.Statements.ColdStartValues : Prop :=
  let s := State.reset
  s.phase = .inReset ∧ s.pending = [] ∧ s.management.causes = ⟨true, false, false, false⟩ ∧
  (∀ i : SlotId, s.slot i = ⟨[], 0, .free⟩) ∧
  (∀ p : Port,
    (s.port p).receiver.state = .off ∧ (s.port p).receiver.currentSlot = none ∧
    (s.port p).receiver.shedding = false ∧ (s.port p).receiver.stuckRaised = false ∧
    (s.port p).receiver.spaceInterval = 0 ∧ (s.port p).receiver.markInterval = 0 ∧
    (s.port p).transmitter.state = .off ∧ (s.port p).transmitter.queue = [] ∧
    (s.port p).transmitter.driverEnable = false ∧ (s.port p).transmitter.echoList = [] ∧ s.txd p = .mark ∧
    (s.port p).transmitter.backoffRegister =
      (match p with | 0 => 0xACE1 | 1 => 0x5A3C | 2 => 0x3C5A | 3 => 0xE1AC) ∧
    (s.port p).record = ⟨.enabled, true, 1, 1, true, true, .steady, none⟩ ∧
    (s.port p).counters.toList = List.replicate 16 0) ∧
  s.counters.toList = List.replicate 22 0 ∧
  s.relay = ⟨[], [], .pass, .drop⟩ ∧ s.map.entries = [] ∧ s.map.period = 60 ∧ s.exchanges = [] ∧
  s.timeoutTable = ⟨50, 100, 250, 1000⟩ ∧ s.reports = [] ∧ s.management.queue = [] ∧
  s.management.ownAddress = 0xFE ∧ s.management.managers = [] ∧ s.management.watch = [] ∧
  s.management.pendingRestart = none ∧ s.notices = ⟨none, 5, none, 0, 0, [], false, none⟩ ∧
  s.loader.errors = 0 ∧ s.loader.status = .notRun ∧ s.loader.state = .idle ∧
  s.words = ⟨[], [], [], [], [], [], [], []⟩ ∧ s.pins.scs = [true] ∧ s.pins.sclkRuns = false

/-- The invariants that the statements of this file speak of hold at reset. -/
def Sys2Proof.Statements.InvariantsHoldAtReset : Prop :=
  NoticesInOrder State.reset ∧ ExchangesInOrder State.reset ∧ StationsInOrder State.reset ∧
  PortsCoherent State.reset ∧ RatesConfirmed State.reset ∧ EchoListsHold State.reset ∧ BackoffNonzero State.reset ∧ QueuesInOrder State.reset ∧
  PoolConsistent State.reset ∧ SettingsInRange State.reset ∧ QuietInReset State.reset ∧ PinsFollowLoader State.reset

/-- The machine right after reset. -/
def Obligations.ResetHasColdStartValues : Prop := ColdStartValues ∧ InvariantsHoldAtReset

/-- A power-on and a fall of RESET give every block its cold-start values, whatever is in progress; of the reset causes a power-on
sets POWER and clears the others, and a pin reset sets PIN and leaves the others. (The values that no rule gives are those of
log entries 6 and 11; that a power-on keeps the level of RESET is the model's choice, log entry 13; so is that a pin reset with
RESET already low is a further one and sets PIN, log entry 32.) -/
def Sys2Proof.Statements.ResetSourcesBeginColdStart : Prop :=
  ∀ s : State,
    exec .powerOn s = .next { State.reset with
      pins := { State.reset.pins with resetHigh := s.pins.resetHigh, rxd := s.pins.rxd }, pending := s.pending } ∧
    exec .pinReset s = .next { State.reset with
      management := { State.reset.management with causes := { s.management.causes with pin := true } }
      pins := { State.reset.pins with resetHigh := false, rxd := s.pins.rxd }, pending := s.pending }

/-- `t` is `s` at the end of start-up or of a flush: in service, every ENABLED or HELD port up with its receiver in RESYNC and its
transmitter in IDLE, every other port as it was, and the aging timer started for a full period. -/
def Sys2Proof.Statements.EntersService (s t : State) : Prop :=
  t.phase = .inService ∧ t.map = { s.map with timer := some (14745600 * s.map.period) } ∧
  ∀ p : Port,
    ((s.admin p).isDown = true → t.port p = s.port p) ∧
    ((s.admin p).isDown = false →
      (t.port p).receiver.state = .resync ∧ (t.port p).receiver.spaceInterval = 0 ∧
      (t.port p).receiver.markInterval = 0 ∧ (t.port p).transmitter = { (s.port p).transmitter with
        quietInterval := 0, state := .idle } ∧
      (t.port p).record = (s.port p).record ∧ (t.port p).counters = (s.port p).counters)

/-- The release of reset with CFGEN low ends start-up at once, with no IMAGE_RESULT; with CFGEN high pass 1 of a load begins, SCS
falling, SCLK running, the read command 03h and address 000000h sent most significant bit first. Out of reset COLD_START changes nothing (the model's choice, log
entry 2). -/
def Sys2Proof.Statements.ReleaseOfReset : Prop :=
  ∀ s : State,
    (s.phase = .inReset → s.loader.status = .notRun →
      (∃ t, exec (.coldStart false) s = .next t ∧ EntersService s t ∧
        t = { s with
          phase := t.phase, map := t.map, ports := t.ports
          pins := { s.pins with resetHigh := true, cfgen := false } }) ∧
      exec (.coldStart true) s = .next { s with
        phase := .loading
        pins := { s.pins with
          resetHigh := true, cfgen := true, scs := s.pins.scs ++ [false], sclkRuns := true
          sdo := [false, false, false, false, false, false, true, true] ++ List.replicate 24 false }
        loader := { s.loader with position := 0, recordsRead := 0, runningCheck := 0xFFFF, state := .pass1 } }) ∧
    (s.phase ≠ .inReset → ∀ cfgen, exec (.coldStart cfgen) s = .next s)

/-- The reset sources, and the release of reset. -/
def Obligations.ResetAndItsRelease : Prop := ResetSourcesBeginColdStart ∧ ReleaseOfReset

/-- `t` is `s` in a flush restart that has just begun (R165): traffic cleared, configuration kept, FLUSH set. -/
def Sys2Proof.Statements.FlushBegun (s t : State) : Prop :=
  t.phase = .flushing false ∧ (∀ i : SlotId, t.slot i = Slot.empty) ∧ t.exchanges = [] ∧ t.reports = [] ∧
  t.words = Words.none ∧ t.relay = { s.relay with input := [] } ∧
  t.map = { s.map with entries := s.map.entries.filter (fun e => decide (e.origin = .static)), timer := none } ∧
  t.management = { s.management with
    queue := [], causes := { s.management.causes with flush := true }, watch := [], pendingRestart := none } ∧
  t.notices = { s.notices with inFlight := none, timer := none, lost := 0, list := [], slotWait := false } ∧
  t.timeoutTable = s.timeoutTable ∧ t.counters = s.counters ∧ t.loader = s.loader ∧ t.pins = s.pins ∧
  ∀ p : Port,
    (t.port p).receiver.state = .off ∧ (t.port p).receiver.currentSlot = none ∧
    (t.port p).transmitter.state = .off ∧ (t.port p).transmitter.driverEnable = false ∧
    (t.port p).transmitter.queue = [] ∧ (t.port p).transmitter.echoList = [] ∧
    (t.port p).transmitter.backoffRegister = (State.reset.port p).transmitter.backoffRegister ∧
    (t.port p).counters = (s.port p).counters ∧
    (t.port p).framer = (if (s.port p).record.ratePhase ≠ .steady ∧ s.rate p ≠ (s.port p).record.confirmedRate then
      framerAtRate (s.port p).framer else (s.port p).framer) ∧
    (t.port p).record = { (s.port p).record with
      admin := if s.admin p = .isolated then .enabled else s.admin p
      currentRate := if (s.port p).record.ratePhase = .steady then s.rate p else (s.port p).record.confirmedRate
      ratePhase := .steady, recovery := none }

/-- The pending restart `r` of `s` has taken effect in `t`: a FLUSH begins the flush restart, a COLD acts as a pin reset and sets
COLD in place of PIN. That the relay then waits in reset for its COLD_START is the model's choice (log entry 13), as are the
reset values that no rule gives (log entries 6 and 11). -/
def Sys2Proof.Statements.RestartTaken (s t : State) (r : PendingRestart) : Prop :=
  (r.kind = .flush → FlushBegun s t) ∧
  (r.kind = .cold → t = { State.reset with
    management := { State.reset.management with causes := { s.management.causes with cold := true } }
    pins := { State.reset.pins with resetHigh := true, rxd := s.pins.rxd }, pending := s.pending })

/-- A pending restart takes effect at its timer's expiry or at the departure of its reply, whichever is taken first; with
nothing pending, and while the timer runs, nothing happens (the latter the model's choice, log entry 2). The departure of a SET_RATE reply gives Port Control its word. -/
def Sys2Proof.Statements.PendingRestartTakesEffectOnce : Prop :=
  ∀ s : State, s.phase = .inService →
    (∀ r, s.management.pendingRestart = some r →
      (r.timer = 0 → ∃ t, exec .restartTimerExpiry s = .next t ∧ RestartTaken s t r) ∧
      (r.timer ≠ 0 → exec .restartTimerExpiry s = .next s)) ∧
    (s.management.pendingRestart = none → exec .restartTimerExpiry s = .next s) ∧
    ∀ (i : SlotId) (d : Departure) (w : WatchedReply),
      s.words.watchedReplies.find? (·.slot == i) = some d → s.management.watch.find? (·.slot == i) = some w →
      let taken := { s with
        words := { s.words with watchedReplies := s.words.watchedReplies.erase d }
        management := { s.management with watch := s.management.watch.erase w } }
      (∀ p, w.command = .setRate p →
        exec (.watchedReplyDeparture i) s = .next { taken with
          words := { taken.words with rateReplies := s.words.rateReplies ++ [p] } }) ∧
      (∀ r, w.command = .restart → s.management.pendingRestart = some r →
        ∃ t, exec (.watchedReplyDeparture i) s = .next t ∧ RestartTaken taken t r) ∧
      (w.command = .restart → s.management.pendingRestart = none → exec (.watchedReplyDeparture i) s = .next taken)

/-- A flush restart ends at the first 1 ms tick after its beginning, and the relay is in service again; before the tick FLUSH_END
changes nothing (the model's choice, log entry 2). -/
def Sys2Proof.Statements.FlushEndsAtTick : Prop :=
  ∀ s : State,
    (s.phase = .flushing true →
      ∃ t, exec .flushEnd s = .next t ∧ EntersService s t ∧
        t = { s with phase := t.phase, map := t.map, ports := t.ports }) ∧
    (s.phase = .flushing false →
      exec .flushEnd s = .next s ∧
      (s.pending = [] → ∃ t, step s = .next t ∧
        t.phase = .flushing (decide (tickCycles s.timeBase.tick ≤ s.timeBase.cycle + 1))))

/-- Restarts by request: how they take effect, and how a flush ends. -/
def Obligations.RestartsTakeEffectAndEnd : Prop := PendingRestartTakesEffectOnce ∧ FlushEndsAtTick

/-! ## The Image Loader (PASS1_END, IMAGE_RECORD, PASS2_END) -/

/-- The load of `s` has ended in `t` with a status: the loader in DONE, SCS risen and SCLK low, the relay in service, IMAGE_RESULT
raised with the status code, and nothing of the configuration changed. -/
def Sys2Proof.Statements.LoadEnded (s t : State) (status : ImageStatus) (code : Byte) : Prop :=
  EntersService s t ∧ t.loader.status = status ∧ t.loader.state = .done ∧ t.loader.errors = s.loader.errors ∧
  t = { s with
    phase := t.phase, map := t.map, ports := t.ports, loader := t.loader
    pins := { s.pins with scs := s.pins.scs ++ [true], sclkRuns := false, sdo := [] }
    words := { s.words with raised := s.words.raised ++ [⟨.imageResult, 0, code⟩] } }

/-- The serial memory is read byte by byte, each byte most significant bit first, and where the memory does not answer the bits are
the pull of SDI: a memory that answers nothing reads FFh or 00h. -/
def Sys2Proof.Statements.MemoryReadsMostSignificantFirst : Prop :=
  (∀ (m : SerialMemory) (n k : Nat), k < 8 → (memoryByte m n).getMsbD k = m.bits.getD (8 * n + k) m.pullUp) ∧
  ∀ (m : SerialMemory) (n : Nat), m.bits = [] →
    (m.pullUp = true → memoryByte m n = 0xFF) ∧ (m.pullUp = false → memoryByte m n = 0x00)

/-- The offset of record `k` when every record before it has been passed over (R168). -/
def Sys2Proof.Statements.recordOffset (m : SerialMemory) : Nat → Nat
  | 0 => 6
  | k + 1 => recordOffset m k + 1 + (memoryByte m (recordOffset m k)).toNat

/-- The first `k` records have lengths of 1 to 60 and end before the trailer at offset `trailer` (R168). -/
def Sys2Proof.Statements.WalksPast (m : SerialMemory) (trailer k : Nat) : Prop :=
  ∀ j, j < k → 1 ≤ (memoryByte m (recordOffset m j)).toNat ∧ (memoryByte m (recordOffset m j)).toNat ≤ 60 ∧
    recordOffset m (j + 1) ≤ trailer

/-- Pass 1 refuses what is no image or breaks its layout, and applies nothing: FFh FFh read as identifier is NO_IMAGE; another
identifier, a version other than 1, a total length outside 8 to 4096, at any record a length of 0 or above 60, one that
would extend past offset T - 3 or no room for it before offset T - 2, and a record count reached before offset T - 2 are
REJECTED_FORMAT. A walk that ends at T - 2 before a trailer that differs from the check is REJECTED_CHECK. -/
def Sys2Proof.Statements.BrokenImagesRefused : Prop :=
  ∀ (m : SerialMemory) (s : State), s.phase = .loading → s.loader.state = .pass1 →
    let b := memoryByte m
    let total := numberOf (b 4) (b 5)
    let count := (b 3).toNat
    let ends (status : ImageStatus) (code : Byte) : Prop :=
      ∃ t, exec (.pass1End m) s = .next t ∧ LoadEnded s t status code
    (b 0 = 0xFF → b 1 = 0xFF → ends .noImage 4) ∧
    (¬ (b 0 = 0xFF ∧ b 1 = 0xFF) → ¬ (b 0 = 0xC7 ∧ b 1 = 0x1A) → ends .rejectedFormat 5) ∧
    (b 0 = 0xC7 → b 1 = 0x1A →
      (b 2 ≠ 1 → ends .rejectedFormat 5) ∧
      (b 2 = 1 → total < 8 ∨ 4096 < total → ends .rejectedFormat 5) ∧
      (b 2 = 1 → 8 ≤ total → total ≤ 4096 →
        (∀ k, k < count → WalksPast m (total - 2) k →
          recordOffset m k = total - 2 ∨ b (recordOffset m k) = 0 ∨ 60 < (b (recordOffset m k)).toNat ∨
            total - 2 < recordOffset m (k + 1) →
          ends .rejectedFormat 5) ∧
        (WalksPast m (total - 2) count →
          (recordOffset m count ≠ total - 2 → ends .rejectedFormat 5) ∧
          (recordOffset m count = total - 2 →
            numberOf (b (total - 2)) (b (total - 1)) ≠ (checkOf (memoryBytes m 0 (total - 2))).toNat →
            ends .rejectedCheck 6))))

/-- How the memory is read, and what pass 1 refuses. -/
def Obligations.Pass1RefusesWhatIsNoImage : Prop := MemoryReadsMostSignificantFirst ∧ BrokenImagesRefused

/-- The bytes of an image before its trailer: header and records (R19). -/
def Sys2Proof.Statements.imageBody (records : List (List Byte)) : List Byte :=
  let body := records.flatMap fun r => byteOf r.length :: r
  [0xC7, 0x1A, 1, byteOf records.length, byteOf ((body.length + 8) / 256), byteOf ((body.length + 8) % 256)] ++ body

/-- Every well-formed image, of at most 255 records of 1 to 60 bytes and 4096 bytes in all, passes pass 1 with its own check, and
pass 2 begins at offset 0 with the record count and the total length taken from the header: SCS rises at the end of pass 1 and
falls for the new read, whose command and address are sent. The same image with another
trailer is REJECTED_CHECK. -/
def Obligations.WellFormedImagePassesPass1 : Prop :=
  ∀ (records : List (List Byte)) (rest : List Byte) (up : Bool) (s : State), s.phase = .loading →
    s.loader.state = .pass1 → records.length ≤ 255 → (∀ r ∈ records, 1 ≤ r.length ∧ r.length ≤ 60) →
    (imageBody records).length + 2 ≤ 4096 →
    let body := imageBody records
    let c := checkOf body
    exec (.pass1End (memoryOf (body ++ highByte c :: lowByte c :: rest) up)) s = .next { s with
      pins := { s.pins with
        scs := s.pins.scs ++ [true, false], sclkRuns := true
        sdo := [false, false, false, false, false, false, true, true] ++ List.replicate 24 false }
      loader := { s.loader with
        errors := 0, state := .pass2, pass1Check := c, position := 0, recordCount := records.length, recordsRead := 0
        runningCheck := 0xFFFF, totalLength := body.length + 2 } } ∧
    ∀ x y : Byte, (x ≠ highByte c ∨ y ≠ lowByte c) →
      ∃ t, exec (.pass1End (memoryOf (body ++ x :: y :: rest) up)) s = .next t ∧ LoadEnded s t .rejectedCheck 6

/-- The eight field characters of a rule (R155). -/
def Sys2Proof.Statements.ruleCharacters (r : RuleFields) : List Byte :=
  [r.sourceLow, r.sourceHigh, r.destinationLow, r.destinationHigh, byteOf r.kinds.toNat, byteOf r.ingressPorts.toNat,
   (match r.action with | .pass => 0 | .drop => 1 | .redirect => 2), byteOf r.redirectPort.val]

/-- Slot wait after a test of the sending conditions (R142): it ends with no notice, with no target, or with the own address as
target. -/
def Sys2Proof.Statements.slotWaitAfter (u : NoticeUnit) (own : Byte) : Bool :=
  u.slotWait && decide (u.list ≠ []) && decide (u.target ≠ none) && decide (u.target ≠ some own)

/-- The next record of pass 2 is read whole: `pos` is its offset (behind a header equal to that of pass 1, or where the last
record ended), `n` its length, and the walk goes on. -/
structure Sys2Proof.Statements.RecordAt (m : SerialMemory) (s : State) (pos n : Nat) : Prop where
  loading : s.phase = .loading
  pass2 : s.loader.state = .pass2
  place : pos = s.loader.position ∧ pos ≠ 0 ∨
    s.loader.position = 0 ∧ pos = 6 ∧ memoryBytes m 0 6 = s.loader.header
  length : (memoryByte m pos).toNat = n
  range : 1 ≤ n ∧ n ≤ 60
  left : s.loader.recordsRead < s.loader.recordCount
  fits : pos + 1 + n ≤ s.loader.totalLength - 2

/-- The loader of `s` when it has read the record of length `n` at offset `pos` whole: it stands behind the record, its bytes run
through the check (R169). -/
def Sys2Proof.Statements.recordRead (m : SerialMemory) (pos n : Nat) (s : State) : State :=
  { s with loader := { s.loader with
    position := pos + 1 + n, recordsRead := s.loader.recordsRead + 1
    runningCheck := checkRun (if s.loader.position = 0 then checkOf (memoryBytes m 0 6) else s.loader.runningCheck)
      (memoryBytes m pos (n + 1)) } }

/-- The record is skipped: read with no effect, the error count one higher up to 255 (R169). -/
def Sys2Proof.Statements.RecordSkipped (m : SerialMemory) (pos n : Nat) (s : State) : Prop :=
  exec (.imageRecord m) s = .next { recordRead m pos n s with
    loader := { (recordRead m pos n s).loader with errors := stoppingSucc s.loader.errors } }

/-- The record that RecordAt names has code `code` and the arguments `args`, with further bytes behind them or none. -/
structure Sys2Proof.Statements.RecordOf (m : SerialMemory) (pos n : Nat) (s : State) (code : Byte) (args : List Byte) :
    Prop extends RecordAt m s pos n where
  hasCode : memoryByte m (pos + 1) = code
  hasArguments : (memoryBytes m (pos + 2) (n - 1)).take args.length = args
  holdsArguments : args.length < n

/-- A record with a code outside the eleven, or with fewer arguments than its command takes, is skipped. -/
def Sys2Proof.Statements.FaultyRecordsAreSkipped : Prop :=
  ∀ (m : SerialMemory) (pos n : Nat) (s : State), RecordAt m s pos n →
    (memoryByte m (pos + 1) ∉ ([0x11, 0x21, 0x24, 0x31, 0x32, 0x34, 0x41, 0x42, 0x50, 0x51, 0x52] : List Byte) →
      RecordSkipped m pos n s) ∧
    ∀ c : Instr, requestCode c = some (memoryByte m (pos + 1)) →
      n - 1 < argumentCount c (memoryBytes m (pos + 2) (n - 1)) → RecordSkipped m pos n s

/-- Records that set stations, rules, defaults, timeouts, aging, managers, own address and notice target take the effect of
their requests (SET_AGING sets the period alone, SET_ADDRESS at once with the notice interval timer
running on, log entry 30, a station into a full map evicts the oldest LEARNED entry); a
bad argument or a full table skips them. -/
def Sys2Proof.Statements.ConfigurationRecords : Prop :=
  ∀ (m : SerialMemory) (pos n : Nat) (s : State),
    let record := RecordOf m pos n s
    let skipped := RecordSkipped m pos n s
    let read := recordRead m pos n s
    let gives (t : State) : Prop := exec (.imageRecord m) s = .next t
    let own := s.management.ownAddress
    (∀ (a : Byte) (p : Port) (c : TimeoutClass) (retry : Bool),
      record 0x11 [a, byteOf p.val, byteOf c.val, if retry = true then 1 else 0] →
      isStationAddress a = true → a ≠ own →
      let e : StationEntry := ⟨a, .static, p, retry, 0, c⟩
      ((∃ x ∈ s.map.entries, x.address = a) →
        gives { read with
          map := { s.map with entries := s.map.entries.map fun x => if x.address = a then e else x } }) ∧
      ((∀ x ∈ s.map.entries, x.address ≠ a) → s.map.entries.length < 96 →
        gives { read with map := { s.map with entries := insertStation e s.map.entries } }) ∧
      ((∀ x ∈ s.map.entries, x.address ≠ a) → ∀ v, Evicted s.map.entries v →
        gives { read with map := { s.map with
          entries := insertStation e (s.map.entries.filter fun x => x.address != v.address) } }) ∧
      ((∀ x ∈ s.map.entries, x.address ≠ a ∧ x.origin = .static) → 96 ≤ s.map.entries.length → skipped)) ∧
    (∀ a p c r : Byte, record 0x11 [a, p, c, r] →
      (a = 0x00 ∨ a = 0xFF ∨ a = own ∨ 3 < p.toNat ∨ 3 < c.toNat ∨ 1 < r.toNat) → skipped) ∧
    (∀ (k : Byte) (r : RuleFields), record 0x21 (k :: ruleCharacters r) →
      (k.toNat ≤ s.relay.rules.length → s.relay.rules.length < 32 →
        gives { read with relay := { s.relay with
          rules := s.relay.rules.take k.toNat ++ ⟨r, 0⟩ :: s.relay.rules.drop k.toNat } }) ∧
      (s.relay.rules.length < k.toNat ∨ 32 ≤ s.relay.rules.length → skipped)) ∧
    (∀ k sl sh dl dh kinds ports action port : Byte, record 0x21 [k, sl, sh, dl, dh, kinds, ports, action, port] →
      (15 < kinds.toNat ∨ 15 < ports.toNat ∨ 2 < action.toNat ∨ 3 < port.toNat) → skipped) ∧
    (∀ d o : Byte, record 0x24 [d, o] →
      (d.toNat ≤ 1 → o.toNat ≤ 1 →
        gives { read with relay := { s.relay with
          defaultAction := if d = 0 then .pass else .drop, orphanPolicy := if o = 0 then .pass else .drop } }) ∧
      (1 < d.toNat ∨ 1 < o.toNat → skipped)) ∧
    (∀ a b c d : Byte, record 0x41 [a, b, c, d] →
      (a ≠ 0 → b ≠ 0 → c ≠ 0 → d ≠ 0 →
        gives { read with timeoutTable := ⟨10 * a.toNat, 10 * b.toNat, 10 * c.toNat, 10 * d.toNat⟩ }) ∧
      (a = 0 ∨ b = 0 ∨ c = 0 ∨ d = 0 → skipped)) ∧
    (∀ high low : Byte, record 0x42 [high, low] →
      let period := 256 * high.toNat + low.toNat
      (10 ≤ period → period ≤ 3600 → gives { read with map := { s.map with period := period } }) ∧
      (period < 10 ∨ 3600 < period → skipped)) ∧
    (∀ (k : Byte) (l : List Byte), record 0x50 (k :: l) →
      (k.toNat ≤ 4 → k.toNat = l.length → (∀ a ∈ l, a ≠ 0x00 ∧ a ≠ 0xFF) →
        ∃ managers : List Byte, managers.Nodup ∧ (∀ a, a ∈ managers ↔ a ∈ l) ∧
          gives { read with management := { s.management with managers := managers } }) ∧
      (4 < k.toNat ∨ (k.toNat = l.length ∧ ∃ a ∈ l, a = 0x00 ∨ a = 0xFF) → skipped)) ∧
    (∀ a : Byte, record 0x51 [a] →
      (isStationAddress a = true → a ≠ own →
        gives { read with
          management := { s.management with ownAddress := a }
          map := { s.map with entries := s.map.entries.filter (·.address != a) }
          notices := { s.notices with slotWait := slotWaitAfter s.notices a } }) ∧
      (a = own → isStationAddress a = true → gives read) ∧ (a = 0x00 ∨ a = 0xFF → skipped)) ∧
    ∀ a k : Byte, record 0x52 [a, k] →
      (a ≠ 0xFF → 1 ≤ k.toNat → k.toNat ≤ 60 →
        let u : NoticeUnit := { s.notices with
          interval := k.toNat, target := if a = 0 then none else some a, timer := none }
        gives { read with notices := { u with slotWait := slotWaitAfter u own } }) ∧
      (a = 0xFF ∨ k = 0 ∨ 60 < k.toNat → skipped)

/-- Records that set a port: SET_PORT_STATE and SET_PORT_OPTIONS set the record alone, SET_RATE sets current and confirmed rate
together with no window, the framer waiting for the line to be judged at mark (log entry 25 for its clock); a port, state, rate, window
or option out of range skips them. -/
def Sys2Proof.Statements.PortRecords : Prop :=
  ∀ (m : SerialMemory) (pos n : Nat) (s : State),
    let record := RecordOf m pos n s
    let skipped := RecordSkipped m pos n s
    let read := recordRead m pos n s
    let withPort (p : Port) (x : LinePort) : State := { read with ports := s.ports.set p x }
    (∀ (p : Port) (a : AdminState), a ≠ .isolated →
      record 0x31 [byteOf p.val, match a with | .enabled => 0 | .held => 1 | .disabled => 2 | .isolated => 3] →
      exec (.imageRecord m) s =
        .next (withPort p { s.port p with record := { (s.port p).record with admin := a } })) ∧
    (∀ p a : Byte, record 0x31 [p, a] → 3 < p.toNat ∨ 2 < a.toNat → skipped) ∧
    (∀ (p : Port) (c : RateCode) (w : Byte), record 0x32 [byteOf p.val, byteOf c.val, w] → 1 ≤ w.toNat → w.toNat ≤ 30 →
      (s.port p).receiver.state = .off → (s.port p).transmitter.state = .off →
      exec (.imageRecord m) s = .next { withPort p { s.port p with
          framer := framerAtRate (s.port p).framer
          record := { (s.port p).record with currentRate := c, confirmedRate := c, ratePhase := .steady } } with
        timeBase := { s.timeBase with samplePhase := s.timeBase.samplePhase.set p 0 } }) ∧
    (∀ p c w : Byte, record 0x32 [p, c, w] → 3 < p.toNat ∨ 7 < c.toNat ∨ w = 0 ∨ 30 < w.toNat → skipped) ∧
    (∀ (p : Port) (o : Byte), record 0x34 [byteOf p.val, o] → o.toNat < 8 → s.admin p ≠ .isolated →
      exec (.imageRecord m) s = .next (withPort p { s.port p with record := { (s.port p).record with
        learn := o.getLsbD 0, floodUnknown := o.getLsbD 1, autoRecover := o.getLsbD 2 } })) ∧
    ∀ p o : Byte, record 0x34 [p, o] → 3 < p.toNat ∨ 8 ≤ o.toNat → skipped

/-- Pass 2 ends when no further record can be read: CHANGED on a header that differs from that of pass 1, on a record length of 0,
above 60 or running into the trailer, on a walk that does not end at the trailer, and on a running check that differs from
that of pass 1; with an equal check APPLIED or, with records skipped, APPLIED_WITH_ERRORS. This holds before the first record
as behind the last one read. While a further record can be read PASS2_END changes nothing (the model's choice, log entry 2). -/
def Sys2Proof.Statements.Pass2EndsTheLoad : Prop :=
  ∀ (m : SerialMemory) (s : State), s.phase = .loading → s.loader.state = .pass2 →
    let l := s.loader
    let start := if l.position = 0 then 6 else l.position
    let running := if l.position = 0 then checkOf (memoryBytes m 0 6) else l.runningCheck
    let length := (memoryByte m start).toNat
    let ends (status : ImageStatus) (code : Byte) : Prop :=
      ∃ t, exec (.pass2End m) s = .next t ∧ LoadEnded s t status code
    (l.position = 0 → memoryBytes m 0 6 ≠ l.header → ends .changed 3) ∧
    ((l.position = 0 → memoryBytes m 0 6 = l.header) →
      (l.recordsRead < l.recordCount → (length = 0 ∨ 60 < length ∨ l.totalLength - 2 < start + 1 + length) →
        ends .changed 3) ∧
      (l.recordCount ≤ l.recordsRead →
        (start ≠ l.totalLength - 2 → ends .changed 3) ∧
        (start = l.totalLength - 2 →
          (running ≠ l.pass1Check → ends .changed 3) ∧
          (running = l.pass1Check → l.errors = 0 → ends .applied 1) ∧
          (running = l.pass1Check → l.errors ≠ 0 → ends .appliedWithErrors 2))) ∧
      (l.recordsRead < l.recordCount → 1 ≤ length → length ≤ 60 → start + 1 + length ≤ l.totalLength - 2 →
        exec (.pass2End m) s = .next s))

/-- Pass 2: its records, and its end. -/
def Obligations.Pass2AppliesRecords : Prop :=
  FaultyRecordsAreSkipped ∧ ConfigurationRecords ∧ PortRecords ∧ Pass2EndsTheLoad ∧ InsertionKeepsEntries

/-! ## Management requests: what all have in common -/

/-- The row `c` executes the head request of `s` and comes to a reply with a payload, the rest of the relay as in `b`. -/
def Sys2Proof.Statements.Answers (c : Instr) (s b : State) (h : HeldFrame) (rest : List HeldFrame) (i : SlotId)
    (payload : List Byte) : Prop :=
  ∃ t, exec c s = .next t ∧ Replied s b t h rest i payload

/-- The head request of `s`, ready to be executed, has a payload. -/
def Sys2Proof.Statements.Requested (s : State) (h : HeldFrame) (rest : List HeldFrame) (i : SlotId)
    (payload : List Byte) : Prop :=
  Ready s h rest i ∧ (s.slot h.slot).payload = payload

/-- A request whose source is not in a manager set that holds addresses is DENIED; one with too few arguments is answered
BAD_LENGTH; neither has any effect but its reply. -/
def Sys2Proof.Statements.ChecksComeFirst : Prop :=
  ∀ (c : Instr) (code : Byte) (args : List Byte) (h : HeldFrame) (rest : List HeldFrame) (i : SlotId) (s : State),
    requestCode c = some code → AtHead s h rest i → HasRoom s h.ingress → (s.slot h.slot).payload = code :: args →
    (s.management.managers ≠ [] → (s.slot h.slot).source ∉ s.management.managers →
      Answers c s s h rest i [code, 1]) ∧
    (Ready s h rest i → args.length < argumentCount c args → Answers c s s h rest i [code, 8])

/-- A request that names no command of Table 10-1 is answered UNKNOWN_COMMAND under its own code, an empty one BAD_LENGTH under
code 00h, and either DENIED when the manager check fails. -/
def Sys2Proof.Statements.UnknownCommandsAnswered : Prop :=
  ∀ (h : HeldFrame) (rest : List HeldFrame) (i : SlotId) (s : State), AtHead s h rest i → HasRoom s h.ingress →
    let denied := s.management.managers ≠ [] ∧ (s.slot h.slot).source ∉ s.management.managers
    ((s.slot h.slot).payload = [] →
      (denied → Answers .unknownCommand s s h rest i [0, 1]) ∧
      (¬ denied → Answers .unknownCommand s s h rest i [0, 8])) ∧
    ∀ (code : Byte) (args : List Byte), (s.slot h.slot).payload = code :: args →
      (∀ c : Instr, requestCode c ≠ some code) →
      (denied → Answers .unknownCommand s s h rest i [code, 1]) ∧
      (¬ denied → Answers .unknownCommand s s h rest i [code, 2])

/-- With no slot FREE the head request waits. A row whose code the head request does not carry changes nothing (the model's
choice, log entry 2). -/
def Sys2Proof.Statements.RequestsWait : Prop :=
  ∀ (c : Instr) (code : Byte) (s : State), requestCode c = some code → s.phase = .inService →
    (s.lowestFree = none → exec c s = .next s) ∧
    ∀ (h : HeldFrame) (rest : List HeldFrame), s.management.queue = h :: rest →
      (s.slot h.slot).payload.head? ≠ some code → exec c s = .next s

/-- A reply refused, at a port that is down or at a queue full of PRIORITY entries, leaves its slot FREE again and no trace but the
port's queue-full counter; one offered to a full queue with an ORDINARY entry waiting displaces the youngest of them. The
request is finished all the same. (Said of DENIED replies, which every command can give.) -/
def Sys2Proof.Statements.RepliesRefusedOrDisplacing : Prop :=
  ∀ (c : Instr) (code : Byte) (args : List Byte) (h : HeldFrame) (rest : List HeldFrame) (i : SlotId) (s : State),
    requestCode c = some code → AtHead s h rest i → (s.slot h.slot).payload = code :: args →
    s.management.managers ≠ [] → (s.slot h.slot).source ∉ s.management.managers →
    let x := s.port h.ingress
    (RefusesReply s h.ingress → s.heldOutside i = false → ∃ t, exec c s = .next t ∧ Unanswered s s t h rest i) ∧
    ∀ (before behind : List QueueEntry) (d : QueueEntry), (s.admin h.ingress).isDown = false →
      x.transmitter.queue.length = 16 → x.transmitter.waiting = before ++ d :: behind → d.band = .ordinary →
      (∀ y ∈ behind, y.band = .priority) → d.slot ≠ i → d.slot ≠ h.slot →
      ∃ t, exec c s = .next t ∧
        t = { s with
          slots := t.slots, ports := t.ports, words := announcedWords s h.ingress .displaced d
          management := { s.management with queue := rest } } ∧
        t.slot i = replySlot (s.slot h.slot) s.management.ownAddress [code, 1] ∧ t.slot h.slot = Slot.empty ∧
        (1 < (s.slot d.slot).refs → t.slot d.slot = { s.slot d.slot with refs := (s.slot d.slot).refs - 1 }) ∧
        ((s.slot d.slot).refs = 1 → s.heldOutside d.slot = false → t.slot d.slot = Slot.empty) ∧
        (∀ j : SlotId, j ≠ i → j ≠ h.slot → j ≠ d.slot → t.slot j = s.slot j) ∧
        DisplacedFor x (t.port h.ingress) (generatedEntry i) (before ++ behind) ∧
        ∀ q : Port, q ≠ h.ingress → t.port q = s.port q

/-- The checks, the replies and the waiting that all management requests have in common. -/
def Obligations.RequestsAreCheckedAndAnswered : Prop :=
  ChecksComeFirst ∧ UnknownCommandsAnswered ∧ RequestsWait ∧ RepliesRefusedOrDisplacing

/-! ## Status, counters and exchanges (READ_STATUS, READ_COUNTERS, READ_EXCHANGES, SET_TIMEOUTS, SET_AGING) -/

/-- READ_STATUS answers the nine characters of Table 10-2 as the state stands when the reply is built (with the reply's slot
claimed), clears the reset causes with the flag at 1 and changes nothing else; another flag is BAD_ARGUMENT. A reset of
each of the four sources taken afterwards sets its flag (the pin at a fall of RESET from high). -/
def Obligations.ReadStatusReportsAndClears : Prop :=
  (∀ (h : HeldFrame) (rest : List HeldFrame) (i : SlotId) (flag : Byte) (more : List Byte) (s : State),
    Requested s h rest i (0x01 :: flag :: more) →
    let causes := s.management.causes
    let data : List Byte :=
      [s.management.ownAddress,
       byteOf (causes.power.toNat + 2 * causes.pin.toNat + 4 * causes.cold.toNat + 8 * causes.flush.toNat),
       s.loader.status.code, s.loader.errors, byteOf (s.freeCount - 1), byteOf s.exchanges.length,
       byteOf s.notices.list.length, byteOf s.map.entries.length, byteOf s.relay.rules.length]
    (flag = 0 → Answers .readStatus s s h rest i (0x01 :: 0 :: data)) ∧
    (flag = 1 →
      Answers .readStatus s
        { s with management := { s.management with causes := ⟨false, false, false, false⟩ } } h rest i
        (0x01 :: 0 :: data)) ∧
    (1 < flag.toNat → Answers .readStatus s s h rest i [0x01, 3])) ∧
  ([ImageStatus.notRun, .applied, .appliedWithErrors, .changed, .noImage, .rejectedFormat, .rejectedCheck].map
    ImageStatus.code = [0, 1, 2, 3, 4, 5, 6]) ∧
  ∀ s : State, (∃ t, exec .pinReset s = .next t ∧ (s.pins.resetHigh = true → t.management.causes.pin = true)) ∧
    (∃ t, exec .powerOn s = .next t ∧ t.management.causes.power = true) ∧
    ∀ kind, s.phase = .inService → s.management.pendingRestart = some ⟨kind, 0⟩ →
      ∃ t, exec .restartTimerExpiry s = .next t ∧
        (match kind with | .cold => t.management.causes.cold | .flush => t.management.causes.flush) = true

/-- READ_COUNTERS answers the counters of a selection from the start index, at most 14 of them, four characters each, and with
the clear flag sets those reported to 0 and no other; a selection, flag or index out of range is BAD_ARGUMENT. -/
def Obligations.ReadCountersReportsAndClears : Prop :=
  ∀ (h : HeldFrame) (rest : List HeldFrame) (i : SlotId) (sel flag start : Byte) (more : List Byte) (s : State),
    Requested s h rest i (0x02 :: sel :: flag :: start :: more) →
    let data (l : List Count) : List Byte :=
      start :: byteOf ((l.drop start.toNat).take 14).length ::
        ((l.drop start.toNat).take 14).flatMap fun c =>
          [byteOf (c.toNat / 16777216), byteOf (c.toNat / 65536), byteOf (c.toNat / 256), byteOf c.toNat]
    let cleared (l : List Count) : List Count :=
      l.mapIdx fun k c => if start.toNat ≤ k ∧ k < start.toNat + 14 then 0 else c
    (∀ p : Port, sel = byteOf p.val → start.toNat < 16 →
      (flag = 0 → Answers .readCounters s s h rest i (0x02 :: 0 :: data (s.port p).counters.toList)) ∧
      (flag = 1 → ∃ k : PortCounters, k.toList = cleared (s.port p).counters.toList ∧
        Answers .readCounters s { s with ports := s.ports.set p { s.port p with counters := k } } h rest i
          (0x02 :: 0 :: data (s.port p).counters.toList))) ∧
    (sel = 0x0F → start.toNat < 22 →
      (flag = 0 → Answers .readCounters s s h rest i (0x02 :: 0 :: data s.counters.toList)) ∧
      (flag = 1 → ∃ k : RelayCounters, k.toList = cleared s.counters.toList ∧
        Answers .readCounters s { s with counters := k } h rest i (0x02 :: 0 :: data s.counters.toList))) ∧
    ((3 < sel.toNat ∧ sel ≠ 0x0F) ∨ 1 < flag.toNat ∨ (sel.toNat ≤ 3 ∧ 16 ≤ start.toNat) ∨
        (sel = 0x0F ∧ 22 ≤ start.toNat) →
      Answers .readCounters s s h rest i [0x02, 3])

/-- READ_EXCHANGES answers up to 6 records from the start index in opening order, eight characters each, SET_TIMEOUTS sets the four
class values together in units of 10 ms, and SET_AGING sets the period and restarts the timer. A start index above 15, a
value of 0 and a period outside 10 to 3600 are BAD_ARGUMENT and change nothing. -/
def Obligations.ExchangeAndTimingCommands : Prop :=
  ∀ (h : HeldFrame) (rest : List HeldFrame) (i : SlotId) (s : State),
    (∀ (start : Byte) (more : List Byte), Requested s h rest i (0x40 :: start :: more) →
      let reported := (s.exchanges.drop start.toNat).take 6
      let data : List Byte := byteOf reported.length :: reported.flatMap fun x =>
        [x.key.requester, byteOf x.requesterPort.val, x.key.responder,
         (match x.responderPort with | .port p => byteOf p.val | .flooded => 0x0F),
         byteOf x.key.tag.toNat, byteOf x.attempt,
         (match x.state with | .sendPending => 0 | .awaitReply => 1 | .retryPending => 2 | .retryAwait => 3),
         byteOf x.timeoutClass.val]
      (start.toNat ≤ 15 → Answers .readExchanges s s h rest i (0x40 :: 0 :: data) ∧ data.length ≤ 49 ∧
        (s.exchanges.length ≤ start.toNat → data = [0])) ∧
      (15 < start.toNat → Answers .readExchanges s s h rest i [0x40, 3])) ∧
    (∀ (a b c d : Byte) (more : List Byte), Requested s h rest i (0x41 :: a :: b :: c :: d :: more) →
      (a ≠ 0 → b ≠ 0 → c ≠ 0 → d ≠ 0 →
        Answers .setTimeouts s
          { s with timeoutTable := ⟨10 * a.toNat, 10 * b.toNat, 10 * c.toNat, 10 * d.toNat⟩ } h rest i [0x41, 0]) ∧
      ((a = 0 ∨ b = 0 ∨ c = 0 ∨ d = 0) → Answers .setTimeouts s s h rest i [0x41, 3])) ∧
    ∀ (high low : Byte) (more : List Byte), Requested s h rest i (0x42 :: high :: low :: more) →
      let period := 256 * high.toNat + low.toNat
      (10 ≤ period → period ≤ 3600 →
        Answers .setAging s
          { s with map := { s.map with period := period, timer := some (14745600 * period) } } h rest i [0x42, 0]) ∧
      ((period < 10 ∨ 3600 < period) → Answers .setAging s s h rest i [0x42, 3])

/-! ## Stations (READ_STATION, WRITE_STATION, REMOVE_STATION, LIST_STATIONS, FLUSH_LEARNED) -/

/-- The readings of the map: READ_STATION answers an entry's seven characters or NOT_FOUND, LIST_STATIONS up to 12 entries from
the start address in ascending order, four characters each. -/
def Sys2Proof.Statements.StationReadings : Prop :=
  ∀ (h : HeldFrame) (rest : List HeldFrame) (i : SlotId) (a : Byte) (more : List Byte) (s : State),
    s.map.entries.Pairwise (fun x y => x.address.toNat < y.address.toNat) →
    let origin (e : StationEntry) : Byte := if e.origin = .static then 0 else 1
    let age (e : StationEntry) : Byte := match e.origin with | .static => 0 | .learned n => byteOf n.val
    (Requested s h rest i (0x10 :: a :: more) →
      (∀ e ∈ s.map.entries, e.address = a →
        Answers .readStation s s h rest i
          [0x10, 0, a, byteOf e.port.val, origin e, age e, byteOf e.timeoutClass.val,
           if e.retry = true then 1 else 0, byteOf e.silence.val]) ∧
      ((∀ e ∈ s.map.entries, e.address ≠ a) → Answers .readStation s s h rest i [0x10, 5])) ∧
    (Requested s h rest i (0x13 :: a :: more) →
      let listed := (s.map.entries.filter fun e => decide (a.toNat ≤ e.address.toNat)).take 12
      Answers .listStations s s h rest i
        (0x13 :: 0 :: byteOf listed.length ::
          listed.flatMap fun e => [e.address, byteOf e.port.val, origin e, age e]))

/-- The writings: WRITE_STATION overwrites the entry of its address or creates a STATIC one, in a full map in the place of the oldest
LEARNED entry, REMOVE_STATION removes an entry of
either origin or answers NOT_FOUND, FLUSH_LEARNED removes the LEARNED entries of a port or of all and counts them. Values
out of range are BAD_ARGUMENT. -/
def Sys2Proof.Statements.StationWritings : Prop :=
  ∀ (h : HeldFrame) (rest : List HeldFrame) (i : SlotId) (s : State),
    (∀ (a : Byte) (p : Port) (c : TimeoutClass) (retry : Bool) (more : List Byte),
      Requested s h rest i
        (0x11 :: a :: byteOf p.val :: byteOf c.val :: (if retry = true then 1 else 0) :: more) →
      isStationAddress a = true → a ≠ s.management.ownAddress →
      let e : StationEntry := ⟨a, .static, p, retry, 0, c⟩
      ((∃ x ∈ s.map.entries, x.address = a) →
        Answers .writeStation s
          { s with map := { s.map with entries := s.map.entries.map fun x => if x.address = a then e else x } }
          h rest i [0x11, 0]) ∧
      ((∀ x ∈ s.map.entries, x.address ≠ a) → s.map.entries.length < 96 →
        Answers .writeStation s { s with map := { s.map with entries := insertStation e s.map.entries } } h rest i
          [0x11, 0]) ∧
      ((∀ x ∈ s.map.entries, x.address ≠ a) → ∀ v, Evicted s.map.entries v →
        Answers .writeStation s
          { s with map := { s.map with
            entries := insertStation e (s.map.entries.filter fun x => x.address != v.address) } } h rest i [0x11, 0]) ∧
      ((∀ x ∈ s.map.entries, x.address ≠ a ∧ x.origin = .static) → 96 ≤ s.map.entries.length →
        Answers .writeStation s s h rest i [0x11, 4])) ∧
    (∀ (a p c r : Byte) (more : List Byte), Requested s h rest i (0x11 :: a :: p :: c :: r :: more) →
      (a = 0x00 ∨ a = 0xFF ∨ a = s.management.ownAddress ∨ 3 < p.toNat ∨ 3 < c.toNat ∨ 1 < r.toNat) →
      Answers .writeStation s s h rest i [0x11, 3]) ∧
    (∀ (a : Byte) (more : List Byte), Requested s h rest i (0x12 :: a :: more) →
      ((∃ x ∈ s.map.entries, x.address = a) →
        Answers .removeStation s
          { s with map := { s.map with entries := s.map.entries.filter (·.address != a) } } h rest i [0x12, 0]) ∧
      ((∀ x ∈ s.map.entries, x.address ≠ a) → Answers .removeStation s s h rest i [0x12, 5])) ∧
    ∀ (sel : Byte) (more : List Byte), Requested s h rest i (0x14 :: sel :: more) →
      let gone (e : StationEntry) : Bool := decide (e.origin ≠ .static) && (sel == 0x0F || byteOf e.port.val == sel)
      (sel.toNat ≤ 3 ∨ sel = 0x0F →
        Answers .flushLearned s
          { s with map := { s.map with entries := s.map.entries.filter fun e => !gone e } } h rest i
          [0x14, 0, byteOf (s.map.entries.countP gone)]) ∧
      (3 < sel.toNat → sel ≠ 0x0F → Answers .flushLearned s s h rest i [0x14, 3])

/-- The five station commands. -/
def Obligations.StationCommands : Prop := StationReadings ∧ StationWritings ∧ InsertionKeepsEntries

/-! ## Rules (READ_RULE, INSERT_RULE, DELETE_RULE, REPLACE_RULE, SET_RULE_DEFAULTS) -/

/-- READ_RULE answers the fields and the hit count of the rule at its index, INSERT_RULE puts a rule with hit count 0 there and
moves the rest toward the tail, DELETE_RULE moves them back, REPLACE_RULE overwrites the rule and its hit count, and
SET_RULE_DEFAULTS sets both defaults together. -/
def Sys2Proof.Statements.RuleEffects : Prop :=
  ∀ (h : HeldFrame) (rest : List HeldFrame) (i : SlotId) (s : State),
    let withRules (l : List Rule) : State := { s with relay := { s.relay with rules := l } }
    (∀ (k : Byte) (more : List Byte), Requested s h rest i (0x20 :: k :: more) →
      (∀ r, s.relay.rules[k.toNat]? = some r →
        Answers .readRule s s h rest i
          (0x20 :: 0 :: ruleCharacters r.fields ++
            [byteOf (r.hits.toNat / 16777216), byteOf (r.hits.toNat / 65536), byteOf (r.hits.toNat / 256),
             byteOf r.hits.toNat])) ∧
      (s.relay.rules.length ≤ k.toNat → Answers .readRule s s h rest i [0x20, 5])) ∧
    (∀ (k : Byte) (r : RuleFields) (more : List Byte),
      Requested s h rest i (0x21 :: k :: ruleCharacters r ++ more) →
      (k.toNat ≤ s.relay.rules.length → s.relay.rules.length < 32 →
        Answers .insertRule s
          (withRules (s.relay.rules.take k.toNat ++ ⟨r, 0⟩ :: s.relay.rules.drop k.toNat)) h rest i [0x21, 0]) ∧
      (k.toNat ≤ s.relay.rules.length → 32 ≤ s.relay.rules.length →
        Answers .insertRule s s h rest i [0x21, 4]) ∧
      (s.relay.rules.length < k.toNat → Answers .insertRule s s h rest i [0x21, 3])) ∧
    (∀ (k : Byte) (more : List Byte), Requested s h rest i (0x22 :: k :: more) →
      (k.toNat < s.relay.rules.length →
        Answers .deleteRule s
          (withRules (s.relay.rules.take k.toNat ++ s.relay.rules.drop (k.toNat + 1))) h rest i [0x22, 0]) ∧
      (s.relay.rules.length ≤ k.toNat → Answers .deleteRule s s h rest i [0x22, 5])) ∧
    (∀ (k : Byte) (r : RuleFields) (more : List Byte),
      Requested s h rest i (0x23 :: k :: ruleCharacters r ++ more) →
      (k.toNat < s.relay.rules.length →
        Answers .replaceRule s
          (withRules (s.relay.rules.take k.toNat ++ ⟨r, 0⟩ :: s.relay.rules.drop (k.toNat + 1))) h rest i [0x23, 0]) ∧
      (s.relay.rules.length ≤ k.toNat → Answers .replaceRule s s h rest i [0x23, 5])) ∧
    ∀ (d o : Byte) (more : List Byte), Requested s h rest i (0x24 :: d :: o :: more) →
      (d.toNat ≤ 1 → o.toNat ≤ 1 →
        Answers .setRuleDefaults s
          { s with relay := { s.relay with
            defaultAction := if d = 0 then .pass else .drop, orphanPolicy := if o = 0 then .pass else .drop } }
          h rest i [0x24, 0]) ∧
      (1 < d.toNat ∨ 1 < o.toNat → Answers .setRuleDefaults s s h rest i [0x24, 3])

/-- A kind set or port set with a bit above bit 3, an action above 2 or a redirect port above 3 is BAD_ARGUMENT. -/
def Sys2Proof.Statements.RuleFieldsChecked : Prop :=
  ∀ (h : HeldFrame) (rest : List HeldFrame) (i : SlotId) (k sl sh dl dh kinds ports action port : Byte)
    (more : List Byte) (s : State),
    (15 < kinds.toNat ∨ 15 < ports.toNat ∨ 2 < action.toNat ∨ 3 < port.toNat) →
    (Requested s h rest i (0x21 :: k :: sl :: sh :: dl :: dh :: kinds :: ports :: action :: port :: more) →
      Answers .insertRule s s h rest i [0x21, 3]) ∧
    (Requested s h rest i (0x23 :: k :: sl :: sh :: dl :: dh :: kinds :: ports :: action :: port :: more) →
      Answers .replaceRule s s h rest i [0x23, 3])

/-- The five rule commands. -/
def Obligations.RuleCommands : Prop := RuleEffects ∧ RuleFieldsChecked

/-! ## Ports and rates (READ_PORT, SET_PORT_STATE, SET_PORT_OPTIONS, SET_RATE, CONFIRM_RATE) -/

/-- READ_PORT answers its eight characters, and SET_PORT_OPTIONS sets the three options together, starting or ending the recovery
watch of an ISOLATED port; a port above 3 and an option bit above bit 2 are BAD_ARGUMENT. -/
def Sys2Proof.Statements.PortReadingAndOptions : Prop :=
  ∀ (h : HeldFrame) (rest : List HeldFrame) (i : SlotId) (s : State),
    (∀ (p : Port) (more : List Byte), Requested s h rest i (0x30 :: byteOf p.val :: more) →
      let x := s.port p
      Answers .readPort s s h rest i
        [0x30, 0,
         (match x.record.admin with | .enabled => 0 | .held => 1 | .disabled => 2 | .isolated => 3),
         byteOf x.record.currentRate.val, byteOf x.record.confirmedRate.val,
         (match x.record.ratePhase with
          | .steady => 0
          | .awaitingReply _ w => byteOf w
          | .window _ n => byteOf ((n + 14745599) / 14745600)),
         byteOf (x.record.learn.toNat + 2 * x.record.floodUnknown.toNat + 4 * x.record.autoRecover.toNat),
         byteOf x.transmitter.queue.length,
         (match x.receiver.state with
          | .off => 0 | .hunt => 1 | .header => 2 | .body => 3 | .check => 4 | .resync => 5 | .echo => 6),
         (match x.transmitter.state with
          | .off => 0 | .idle => 1 | .waitGap => 2 | .sending => 3 | .jam => 4 | .backoff => 5)]) ∧
    (∀ (b : Byte) (more : List Byte), 3 < b.toNat → Requested s h rest i (0x30 :: b :: more) →
      Answers .readPort s s h rest i [0x30, 3]) ∧
    (∀ (p : Port) (o : Byte) (more : List Byte), o.toNat < 8 →
      Requested s h rest i (0x34 :: byteOf p.val :: o :: more) →
      Answers .setPortOptions s
        { s with ports := s.ports.set p { s.port p with record := { (s.port p).record with
          learn := o.getLsbD 0, floodUnknown := o.getLsbD 1, autoRecover := o.getLsbD 2
          recovery :=
            if s.admin p = .isolated then
              (if o.getLsbD 2 then some ((s.port p).record.recovery.getD 0) else none)
            else (s.port p).record.recovery } } } h rest i [0x34, 0]) ∧
    ∀ (b o : Byte) (more : List Byte), (3 < b.toNat ∨ 8 ≤ o.toNat) → Requested s h rest i (0x34 :: b :: o :: more) →
      Answers .setPortOptions s s h rest i [0x34, 3]

/-- What the transitions of Table 8-3 do that are no going-down: ENABLED to HELD abandons a quiet gap, its quiet interval kept, or a
backoff, its quiet interval restarting (R60), and keeps a frame being sent; HELD to ENABLED lets a waiting queue begin; a down port comes up with receiver in RESYNC and transmitter in IDLE;
ISOLATED to DISABLED stops the recovery watch; a state it has already changes nothing. -/
def Sys2Proof.Statements.PortTransitions (s : State) (p : Port) (a : AdminState) (y : LinePort) : Prop :=
  let x := s.port p
  (s.admin p = a → y = x) ∧
  (s.admin p = .enabled → a = .held →
    y = { x with
      record := { x.record with admin := .held }
      transmitter :=
        if x.transmitter.state = .waitGap then { x.transmitter with state := .idle }
        else if x.transmitter.state = .backoff then
          { x.transmitter with backoff := none, quietInterval := 0, state := .idle }
        else x.transmitter }) ∧
  (s.admin p = .held → a = .enabled →
    y = { x with
      record := { x.record with admin := .enabled }
      transmitter :=
        if x.transmitter.state = .idle ∧ x.transmitter.queue ≠ [] then { x.transmitter with state := .waitGap }
        else x.transmitter }) ∧
  ((s.admin p).isDown = true → a = .enabled ∨ a = .held →
    y.record = { x.record with admin := a, recovery := none } ∧ y.receiver.state = .resync ∧
    y.receiver.spaceInterval = 0 ∧ y.receiver.markInterval = 0 ∧ y.receiver.stuckRaised = false ∧
    y.transmitter = { x.transmitter with quietInterval := 0, state := .idle } ∧ y.counters = x.counters) ∧
  (s.admin p = .isolated → a = .disabled →
    y = { x with record := { x.record with admin := .disabled, recovery := none } })

/-- SET_PORT_STATE makes the transition of Table 8-3 before its reply is admitted. An ENABLED or HELD port set DISABLED goes down:
both halves OFF, its queue flushed with every departure announced and every slot given up, its LEARNED entries removed, the
port-down word made; if it is the request's own port the reply is refused. A port above 3 and a state above 2 are BAD_ARGUMENT. -/
def Sys2Proof.Statements.PortStateCommand : Prop :=
  ∀ (h : HeldFrame) (rest : List HeldFrame) (i : SlotId) (s : State), PoolConsistent s →
    (∀ (b code : Byte) (more : List Byte), Requested s h rest i (0x31 :: b :: code :: more) →
      3 < b.toNat ∨ 2 < code.toNat → Answers .setPortState s s h rest i [0x31, 3]) ∧
    ∀ (p : Port) (a : AdminState) (more : List Byte), a ≠ .isolated →
      Requested s h rest i
        (0x31 :: byteOf p.val ::
          (match a with | .enabled => 0 | .held => 1 | .disabled => 2 | .isolated => 3) :: more) →
      (a = .disabled → (s.admin p).isDown = false →
        ∃ t, exec .setPortState s = .next t ∧ t.management = { s.management with queue := rest } ∧
          (t.port p).record = { (s.port p).record with admin := .disabled } ∧ (t.port p).receiver.state = .off ∧
          (t.port p).receiver.currentSlot = none ∧ (t.port p).transmitter.state = .off ∧
          (t.port p).transmitter.driverEnable = false ∧ (t.port p).transmitter.queue = [] ∧
          (t.port p).counters = (s.port p).counters ∧
          t.words = { flushedWords s p with portDown := s.words.portDown ++ [p] } ∧ SlotsGivenUp s t p [i, h.slot] ∧
          t.map = { s.map with entries := s.map.entries.filter fun e =>
            !(decide (e.origin ≠ .static) && e.port == p) } ∧
          t.exchanges = s.exchanges ∧ t.relay = s.relay ∧ t.notices = s.notices ∧ t.slot h.slot = Slot.empty ∧
          (p = h.ingress → t.slot i = Slot.empty ∧ ∀ q : Port, q ≠ p → t.port q = s.port q) ∧
          (p ≠ h.ingress → t.slot i = replySlot (s.slot h.slot) s.management.ownAddress [0x31, 0] ∧
            t.port h.ingress = admitted (s.port h.ingress) (generatedEntry i))) ∧
      (¬ (a = .disabled ∧ (s.admin p).isDown = false) →
        ∃ y, PortTransitions s p a y ∧
          Answers .setPortState s { s with ports := s.ports.set p y } h rest i [0x31, 0])

/-- READ_PORT, SET_PORT_OPTIONS and SET_PORT_STATE. -/
def Obligations.PortCommands : Prop := PortReadingAndOptions ∧ PortStateCommand

/-- SET_RATE on a STEADY port: arriving on another port it applies the rate at once and starts the window; arriving on the port
itself it waits for its reply's departure under the departure watch, the rate unchanged; with that reply refused Port Control is
given its word at once, and takes it as its own event (R136). A change that runs makes it PENDING;
values out of range are BAD_ARGUMENT. -/
def Obligations.SetRateAppliesOrWaits : Prop :=
  ∀ (h : HeldFrame) (rest : List HeldFrame) (i : SlotId) (s : State),
    (∀ (p : Port) (c : RateCode) (w : Byte) (more : List Byte), 1 ≤ w.toNat → w.toNat ≤ 30 →
      Requested s h rest i (0x32 :: byteOf p.val :: byteOf c.val :: w :: more) →
      ((s.port p).record.ratePhase = .steady → h.ingress ≠ p →
        ∃ t, exec .setRate s = .next t ∧ t.rate p = c ∧ t.management.queue = rest ∧
          (t.port p).record.ratePhase = .window w.toNat (14745600 * w.toNat) ∧
          (t.port p).record.confirmedRate = (s.port p).record.confirmedRate ∧
          (t.port p).framer = framerAtRate (s.port p).framer) ∧
      ((s.port p).record.ratePhase = .steady → h.ingress ≠ p → AtRest (s.port p) →
        ∃ b, Answers .setRate s b h rest i [0x32, 0] ∧ b = { s with ports := b.ports, timeBase := b.timeBase } ∧
          (∀ q : Port, q ≠ p → b.port q = s.port q) ∧ RateApplied (s.port p) (b.port p) c ∧
          (b.port p).record.ratePhase = .window w.toNat (14745600 * w.toNat)) ∧
      ((s.port p).record.ratePhase = .steady → h.ingress = p →
        Answers .setRate s
          { s with
            ports := s.ports.set p { s.port p with
              record := { (s.port p).record with ratePhase := .awaitingReply c w.toNat } }
            management := { s.management with watch := s.management.watch ++ [⟨i, .setRate p⟩] } } h rest i [0x32, 0]) ∧
      ((s.port p).record.ratePhase ≠ .steady → Answers .setRate s s h rest i [0x32, 6])) ∧
    (∀ (p : Port) (c : RateCode) (w : Byte) (more : List Byte), 1 ≤ w.toNat → w.toNat ≤ 30 →
      Unheard s h rest i (0x32 :: byteOf p.val :: byteOf c.val :: w :: more) → h.ingress = p →
      (s.port p).record.ratePhase = .steady →
      ∃ t, exec .setRate s = .next t ∧
        Unanswered s
          { s with
            ports := s.ports.set p { s.port p with
              record := { (s.port p).record with ratePhase := .awaitingReply c w.toNat } }
            words := { s.words with rateReplies := s.words.rateReplies ++ [p] } } t h rest i) ∧
    ∀ (b c w : Byte) (more : List Byte), (3 < b.toNat ∨ 7 < c.toNat ∨ w = 0 ∨ 30 < w.toNat) →
      Requested s h rest i (0x32 :: b :: c :: w :: more) → Answers .setRate s s h rest i [0x32, 3]

/-- CONFIRM_RATE makes the current rate the confirmed one in WINDOW, is PENDING in AWAITING_REPLY and STALE in STEADY, whatever
port it arrives on, once the manager check has passed; a port above 3 is BAD_ARGUMENT. The reply's departure word taken first leaves WINDOW, taken after a
PENDING starts the window; a window expiry taken first leaves STEADY with RATE_REVERTED, and none happens after the
confirmation. -/
def Obligations.ConfirmRateAnswersByPhase : Prop :=
  (∀ (h : HeldFrame) (rest : List HeldFrame) (i : SlotId) (p : Port) (more : List Byte) (s : State),
    AtHead s h rest i → HasRoom s h.ingress → (s.slot h.slot).payload = 0x33 :: byteOf p.val :: more →
    (s.management.managers ≠ [] → (s.slot h.slot).source ∉ s.management.managers →
      Answers .confirmRate s s h rest i [0x33, 1]) ∧
    (s.management.managers = [] ∨ (s.slot h.slot).source ∈ s.management.managers →
      (∀ w n, (s.port p).record.ratePhase = .window w n →
        Answers .confirmRate s
          { s with ports := s.ports.set p { s.port p with
            record := { (s.port p).record with confirmedRate := s.rate p, ratePhase := .steady } } } h rest i [0x33, 0]) ∧
      (∀ c w, (s.port p).record.ratePhase = .awaitingReply c w → Answers .confirmRate s s h rest i [0x33, 6]) ∧
      ((s.port p).record.ratePhase = .steady → Answers .confirmRate s s h rest i [0x33, 7]))) ∧
  (∀ (h : HeldFrame) (rest : List HeldFrame) (i : SlotId) (b : Byte) (more : List Byte) (s : State), 3 < b.toNat →
    Requested s h rest i (0x33 :: b :: more) → Answers .confirmRate s s h rest i [0x33, 3]) ∧
  ∀ (p : Port) (s : State), s.phase = .inService →
    (∀ c w, (s.port p).record.ratePhase = .awaitingReply c w → p ∈ s.words.rateReplies →
      ∃ t, exec (.rateReplyDeparted p) s = .next t ∧ t.rate p = c ∧
        (t.port p).record.ratePhase = .window w (14745600 * w)) ∧
    (∀ w, (s.port p).record.ratePhase = .window w 0 →
      ∃ t, exec (.windowExpiry p) s = .next t ∧ (t.port p).record.ratePhase = .steady ∧
        t.rate p = (s.port p).record.confirmedRate ∧
        t.words.raised = s.words.raised ++ [⟨.rateReverted, byteOf p.val, byteOf (s.rate p).val⟩]) ∧
    ((s.port p).record.ratePhase = .steady → exec (.windowExpiry p) s = .next s)

/-! ## Managers, own address, notices and restart (SET_MANAGERS, SET_ADDRESS, SET_NOTICE_TARGET, ACK_NOTICE, RESTART) -/

/-- SET_MANAGERS replaces the manager set by the addresses it names, each once, whatever the sender; a count above 4 and an
address of 00h or FFh are BAD_ARGUMENT. -/
def Sys2Proof.Statements.ManagersReplaced : Prop :=
  ∀ (h : HeldFrame) (rest : List HeldFrame) (i : SlotId) (n : Byte) (l : List Byte) (s : State),
    Requested s h rest i (0x50 :: n :: l) →
    (n.toNat ≤ 4 → n.toNat ≤ l.length → (∀ a ∈ l.take n.toNat, a ≠ 0x00 ∧ a ≠ 0xFF) →
      ∃ m : List Byte, m.Nodup ∧ (∀ a, a ∈ m ↔ a ∈ l.take n.toNat) ∧
        Answers .setManagers s { s with management := { s.management with managers := m } } h rest i [0x50, 0]) ∧
    ((4 < n.toNat ∨ (n.toNat ≤ l.length ∧ ∃ a ∈ l.take n.toNat, a = 0x00 ∨ a = 0xFF)) →
      Answers .setManagers s s h rest i [0x50, 3])

/-- SET_ADDRESS: the reply carries the old own address as its source; the new one takes effect in the same event, the map drops
an entry for it and the Notice Unit tests its conditions (its timer running on: log entry 30), whether the reply is admitted or
refused. The current own address changes nothing; 00h and FFh are BAD_ARGUMENT. -/
def Sys2Proof.Statements.OwnAddressChanges : Prop :=
  ∀ (h : HeldFrame) (rest : List HeldFrame) (i : SlotId) (a : Byte) (more : List Byte) (s : State),
    let changed := { s with
      management := { s.management with ownAddress := a }
      map := { s.map with entries := s.map.entries.filter (·.address != a) }
      notices := { s.notices with slotWait := slotWaitAfter s.notices a } }
    (Requested s h rest i (0x51 :: a :: more) →
      (isStationAddress a = true → a ≠ s.management.ownAddress → Answers .setAddress s changed h rest i [0x51, 0]) ∧
      (isStationAddress a = true → a = s.management.ownAddress → Answers .setAddress s s h rest i [0x51, 0]) ∧
      (a = 0x00 ∨ a = 0xFF → Answers .setAddress s s h rest i [0x51, 3])) ∧
    (Unheard s h rest i (0x51 :: a :: more) → isStationAddress a = true → a ≠ s.management.ownAddress →
      ∃ t, exec .setAddress s = .next t ∧ Unanswered s changed t h rest i)

/-- SET_MANAGERS and SET_ADDRESS. -/
def Obligations.ManagerAndAddressCommands : Prop := ManagersReplaced ∧ OwnAddressChanges

/-- SET_NOTICE_TARGET sets target and interval together and stops the timer, 00h setting the target to none; ACK_NOTICE removes
the head whose number it names, returns the lost count to 0, stops the timer and is noted with a notice in flight of that
number (log entry 29), and is STALE otherwise. -/
def Sys2Proof.Statements.NoticeCommands : Prop :=
  ∀ (h : HeldFrame) (rest : List HeldFrame) (i : SlotId) (s : State),
    (∀ (a n : Byte) (more : List Byte), Requested s h rest i (0x52 :: a :: n :: more) →
      (a ≠ 0xFF → 1 ≤ n.toNat → n.toNat ≤ 60 →
        let u : NoticeUnit := { s.notices with
          interval := n.toNat, target := if a = 0 then none else some a, timer := none }
        Answers .setNoticeTarget s
          { s with notices := { u with slotWait := slotWaitAfter u s.management.ownAddress } } h rest i [0x52, 0]) ∧
      (a = 0xFF ∨ n = 0 ∨ 60 < n.toNat → Answers .setNoticeTarget s s h rest i [0x52, 3])) ∧
    ∀ (k : Byte) (more : List Byte), Requested s h rest i (0x53 :: k :: more) →
      (∀ (n : Notice) (behind : List Notice), s.notices.list = n :: behind → n.sequence = k →
        let u : NoticeUnit := { s.notices with
          inFlight := s.notices.inFlight.map fun f =>
            { f with acknowledged := f.acknowledged || decide (f.sequence = k) }
          list := behind, lost := 0, timer := none }
        Answers .ackNotice s
          { s with notices := { u with slotWait := slotWaitAfter u s.management.ownAddress } } h rest i [0x53, 0]) ∧
      ((∀ (n : Notice) (behind : List Notice), s.notices.list = n :: behind → n.sequence ≠ k) →
        Answers .ackNotice s s h rest i [0x53, 7])

/-- RESTART makes a restart pending with its 500 ms timer and puts its reply into the departure watch; while one is pending it is
PENDING, and a kind other than 1 and 2 is BAD_ARGUMENT. Refused at its port, which is down or has counted the refusal at its full
queue, the reply lets the restart take effect at once; a COLD one then waits in reset for its COLD_START (the model's choice, log entry 13; reset values by log entries 6 and 11). -/
def Sys2Proof.Statements.RestartBecomesPending : Prop :=
  ∀ (h : HeldFrame) (rest : List HeldFrame) (i : SlotId) (k : Byte) (more : List Byte) (s : State),
    (Requested s h rest i (0x60 :: k :: more) →
      (∀ kind : RestartKind, k = (match kind with | .flush => 1 | .cold => 2) →
        (s.management.pendingRestart = none →
          Answers .restart s
            { s with management := { s.management with
              pendingRestart := some ⟨kind, 7372800⟩, watch := s.management.watch ++ [⟨i, .restart⟩] } }
            h rest i [0x60, 0]) ∧
        (s.management.pendingRestart ≠ none → Answers .restart s s h rest i [0x60, 6])) ∧
      (k ≠ 1 → k ≠ 2 → Answers .restart s s h rest i [0x60, 3])) ∧
    (AtHead s h rest i → (s.management.managers = [] ∨ (s.slot h.slot).source ∈ s.management.managers) →
      (s.slot h.slot).payload = 0x60 :: k :: more → s.management.pendingRestart = none →
      RefusesReply s h.ingress →
      (k = 1 → ∃ t, exec .restart s = .next t ∧
        FlushBegun { s with ports := s.ports.set h.ingress (refusedAt s h.ingress) } t) ∧
      (k = 2 → ∃ t, exec .restart s = .next t ∧
        t = { State.reset with
          management := { State.reset.management with causes := { s.management.causes with cold := true } }
          pins := { State.reset.pins with resetHigh := true, rxd := s.pins.rxd }, pending := s.pending }))

/-- SET_NOTICE_TARGET, ACK_NOTICE and RESTART. -/
def Obligations.NoticeAndRestartCommands : Prop := NoticeCommands ∧ RestartBecomesPending

/-! ## Invariants that every step keeps -/

/-- The notice list keeps its order through every step: at most 8 notices, no two of one kind and subject, sequence numbers
consecutive modulo 256 up to the next number; a notice in flight that has not been acknowledged is the head of the list (log
entry 29); and no notice is numbered before the IMAGE_RESULT of a start-up (log entry 28). -/
def Obligations.NoticeOrderIsKept : Prop :=
  ∀ s t : State, NoticesInOrder s → step s = .next t → NoticesInOrder t

/-- The exchange table keeps its order through every step: at most 16 records, no two with one key, no attempt above 2. -/
def Obligations.ExchangeOrderIsKept : Prop :=
  ∀ s t : State, ExchangesInOrder s → step s = .next t → ExchangesInOrder t

/-- The Station Map keeps its order through every step: at most 96 entries in ascending address order, none for 00h, FFh or the
own address, which stays a station address. -/
def Obligations.StationOrderIsKept : Prop :=
  ∀ s t : State, StationsInOrder s → step s = .next t → StationsInOrder t

/-- The halves of every port agree with its administrative state and with each other through every step; a port that is down
has an empty queue and its driver enable off. -/
def Obligations.PortCoherenceIsKept : Prop :=
  ∀ s t : State, PortsCoherent s → step s = .next t → PortsCoherent t

/-- The transmit queues keep their order through every step of coherent ports and a consistent Frame Store: at most 16 entries, no
two of one slot, PRIORITY ahead of ORDINARY but for a head in transmission. -/
def Obligations.QueueOrderIsKept : Prop :=
  ∀ s t : State, PortsCoherent s → PoolConsistent s → QueuesInOrder s → step s = .next t → QueuesInOrder t

/-- The Frame Store stays consistent through every step of coherent ports: every slot's count is the number of entries and records
that name it, it is FREE exactly when nothing names or holds it, at most one record names it, and announcements wait for the
tracker only under open exchanges (log entry 7: a closing drops those that would find no record). -/
def Obligations.PoolConsistencyIsKept : Prop :=
  ∀ s t : State, PortsCoherent s → PoolConsistent s → step s = .next t → PoolConsistent t

/-- Through every step: a port's current rate differs from its confirmed rate only while a change runs, no backoff register holds
0000h, every setting stays in its range, the outputs are at rest in reset, and the serial memory's pins follow the load; and with
the ports coherent the echo lists hold at most the character just sent and the one being sent (empty outside SENDING: log entry
23). -/
def Obligations.StandingConditionsAreKept : Prop :=
  ∀ s t : State, step s = .next t →
    (RatesConfirmed s → RatesConfirmed t) ∧ (PortsCoherent s → EchoListsHold s → EchoListsHold t) ∧
    (BackoffNonzero s → BackoffNonzero t) ∧
    (SettingsInRange s → SettingsInRange t) ∧ (QuietInReset s → QuietInReset t) ∧
    (PinsFollowLoader s → PinsFollowLoader t)
end

