-- ==== Sys2Proof/Laws/State.lean ====
section
/-! SUPPORT. What each update of the state does to each field, one theorem per update (its clauses are simp rules), and
what the accessors of ports and slots read after it. No other proof unfolds a record update. -/

namespace Sys2Proof.Machine

variable (s : State)

@[simp] theorem State.modifyPort_fields (p : Port) (f : LinePort → LinePort) :
    (s.modifyPort p f).phase = s.phase ∧ (s.modifyPort p f).pins = s.pins ∧ (s.modifyPort p f).timeBase = s.timeBase ∧
    (s.modifyPort p f).slots = s.slots ∧ (s.modifyPort p f).ports = s.ports.set p (f (s.ports.get p)) ∧
    (s.modifyPort p f).relay = s.relay ∧ (s.modifyPort p f).map = s.map ∧ (s.modifyPort p f).exchanges = s.exchanges ∧
    (s.modifyPort p f).timeoutTable = s.timeoutTable ∧ (s.modifyPort p f).reports = s.reports ∧
    (s.modifyPort p f).management = s.management ∧ (s.modifyPort p f).notices = s.notices ∧
    (s.modifyPort p f).loader = s.loader ∧ (s.modifyPort p f).counters = s.counters ∧
    (s.modifyPort p f).words = s.words ∧ (s.modifyPort p f).pending = s.pending :=
  ⟨rfl, rfl, rfl, rfl, rfl, rfl, rfl, rfl, rfl, rfl, rfl, rfl, rfl, rfl, rfl, rfl⟩

@[simp] theorem State.modifyPorts_fields (f : LinePort → LinePort) :
    (s.modifyPorts f).phase = s.phase ∧ (s.modifyPorts f).pins = s.pins ∧ (s.modifyPorts f).timeBase = s.timeBase ∧
    (s.modifyPorts f).slots = s.slots ∧ (s.modifyPorts f).ports = s.ports.map f ∧ (s.modifyPorts f).relay = s.relay ∧
    (s.modifyPorts f).map = s.map ∧ (s.modifyPorts f).exchanges = s.exchanges ∧
    (s.modifyPorts f).timeoutTable = s.timeoutTable ∧ (s.modifyPorts f).reports = s.reports ∧
    (s.modifyPorts f).management = s.management ∧ (s.modifyPorts f).notices = s.notices ∧
    (s.modifyPorts f).loader = s.loader ∧ (s.modifyPorts f).counters = s.counters ∧
    (s.modifyPorts f).words = s.words ∧ (s.modifyPorts f).pending = s.pending :=
  ⟨rfl, rfl, rfl, rfl, rfl, rfl, rfl, rfl, rfl, rfl, rfl, rfl, rfl, rfl, rfl, rfl⟩

@[simp] theorem State.lineBrings_fields (p : Port) (coming : List Bool) :
    (s.lineBrings p coming).phase = s.phase ∧
    (s.lineBrings p coming).pins = { s.pins with rxd := s.pins.rxd.set p (s.pins.rxd.get p ++ coming) } ∧
    (s.lineBrings p coming).timeBase = s.timeBase ∧ (s.lineBrings p coming).slots = s.slots ∧
    (s.lineBrings p coming).ports = s.ports ∧ (s.lineBrings p coming).relay = s.relay ∧
    (s.lineBrings p coming).map = s.map ∧ (s.lineBrings p coming).exchanges = s.exchanges ∧
    (s.lineBrings p coming).timeoutTable = s.timeoutTable ∧ (s.lineBrings p coming).reports = s.reports ∧
    (s.lineBrings p coming).management = s.management ∧ (s.lineBrings p coming).notices = s.notices ∧
    (s.lineBrings p coming).loader = s.loader ∧ (s.lineBrings p coming).counters = s.counters ∧
    (s.lineBrings p coming).words = s.words ∧ (s.lineBrings p coming).pending = s.pending :=
  ⟨rfl, rfl, rfl, rfl, rfl, rfl, rfl, rfl, rfl, rfl, rfl, rfl, rfl, rfl, rfl, rfl⟩

@[simp] theorem State.modifyFramer_fields (p : Port) (f : Framer → Framer) :
    (s.modifyFramer p f).phase = s.phase ∧ (s.modifyFramer p f).pins = s.pins ∧
    (s.modifyFramer p f).timeBase = s.timeBase ∧ (s.modifyFramer p f).slots = s.slots ∧
    (s.modifyFramer p f).relay = s.relay ∧ (s.modifyFramer p f).map = s.map ∧
    (s.modifyFramer p f).exchanges = s.exchanges ∧ (s.modifyFramer p f).timeoutTable = s.timeoutTable ∧
    (s.modifyFramer p f).reports = s.reports ∧ (s.modifyFramer p f).management = s.management ∧
    (s.modifyFramer p f).notices = s.notices ∧ (s.modifyFramer p f).loader = s.loader ∧
    (s.modifyFramer p f).counters = s.counters ∧ (s.modifyFramer p f).words = s.words ∧
    (s.modifyFramer p f).pending = s.pending :=
  ⟨rfl, rfl, rfl, rfl, rfl, rfl, rfl, rfl, rfl, rfl, rfl, rfl, rfl, rfl, rfl⟩

@[simp] theorem State.modifyReceiver_fields (p : Port) (f : Receiver → Receiver) :
    (s.modifyReceiver p f).phase = s.phase ∧ (s.modifyReceiver p f).pins = s.pins ∧
    (s.modifyReceiver p f).timeBase = s.timeBase ∧ (s.modifyReceiver p f).slots = s.slots ∧
    (s.modifyReceiver p f).relay = s.relay ∧ (s.modifyReceiver p f).map = s.map ∧
    (s.modifyReceiver p f).exchanges = s.exchanges ∧ (s.modifyReceiver p f).timeoutTable = s.timeoutTable ∧
    (s.modifyReceiver p f).reports = s.reports ∧ (s.modifyReceiver p f).management = s.management ∧
    (s.modifyReceiver p f).notices = s.notices ∧ (s.modifyReceiver p f).loader = s.loader ∧
    (s.modifyReceiver p f).counters = s.counters ∧ (s.modifyReceiver p f).words = s.words ∧
    (s.modifyReceiver p f).pending = s.pending :=
  ⟨rfl, rfl, rfl, rfl, rfl, rfl, rfl, rfl, rfl, rfl, rfl, rfl, rfl, rfl, rfl⟩

@[simp] theorem State.modifyTransmitter_fields (p : Port) (f : Transmitter → Transmitter) :
    (s.modifyTransmitter p f).phase = s.phase ∧ (s.modifyTransmitter p f).pins = s.pins ∧
    (s.modifyTransmitter p f).timeBase = s.timeBase ∧ (s.modifyTransmitter p f).slots = s.slots ∧
    (s.modifyTransmitter p f).relay = s.relay ∧ (s.modifyTransmitter p f).map = s.map ∧
    (s.modifyTransmitter p f).exchanges = s.exchanges ∧ (s.modifyTransmitter p f).timeoutTable = s.timeoutTable ∧
    (s.modifyTransmitter p f).reports = s.reports ∧ (s.modifyTransmitter p f).management = s.management ∧
    (s.modifyTransmitter p f).notices = s.notices ∧ (s.modifyTransmitter p f).loader = s.loader ∧
    (s.modifyTransmitter p f).counters = s.counters ∧ (s.modifyTransmitter p f).words = s.words ∧
    (s.modifyTransmitter p f).pending = s.pending :=
  ⟨rfl, rfl, rfl, rfl, rfl, rfl, rfl, rfl, rfl, rfl, rfl, rfl, rfl, rfl, rfl⟩

@[simp] theorem State.modifyRecord_fields (p : Port) (f : PortRecord → PortRecord) :
    (s.modifyRecord p f).phase = s.phase ∧ (s.modifyRecord p f).pins = s.pins ∧
    (s.modifyRecord p f).timeBase = s.timeBase ∧ (s.modifyRecord p f).slots = s.slots ∧
    (s.modifyRecord p f).relay = s.relay ∧ (s.modifyRecord p f).map = s.map ∧
    (s.modifyRecord p f).exchanges = s.exchanges ∧ (s.modifyRecord p f).timeoutTable = s.timeoutTable ∧
    (s.modifyRecord p f).reports = s.reports ∧ (s.modifyRecord p f).management = s.management ∧
    (s.modifyRecord p f).notices = s.notices ∧ (s.modifyRecord p f).loader = s.loader ∧
    (s.modifyRecord p f).counters = s.counters ∧ (s.modifyRecord p f).words = s.words ∧
    (s.modifyRecord p f).pending = s.pending :=
  ⟨rfl, rfl, rfl, rfl, rfl, rfl, rfl, rfl, rfl, rfl, rfl, rfl, rfl, rfl, rfl⟩

@[simp] theorem State.countPort_fields (p : Port) (f : PortCounters → PortCounters) :
    (s.countPort p f).phase = s.phase ∧ (s.countPort p f).pins = s.pins ∧ (s.countPort p f).timeBase = s.timeBase ∧
    (s.countPort p f).slots = s.slots ∧ (s.countPort p f).relay = s.relay ∧ (s.countPort p f).map = s.map ∧
    (s.countPort p f).exchanges = s.exchanges ∧ (s.countPort p f).timeoutTable = s.timeoutTable ∧
    (s.countPort p f).reports = s.reports ∧ (s.countPort p f).management = s.management ∧
    (s.countPort p f).notices = s.notices ∧ (s.countPort p f).loader = s.loader ∧
    (s.countPort p f).counters = s.counters ∧ (s.countPort p f).words = s.words ∧
    (s.countPort p f).pending = s.pending :=
  ⟨rfl, rfl, rfl, rfl, rfl, rfl, rfl, rfl, rfl, rfl, rfl, rfl, rfl, rfl, rfl⟩

@[simp] theorem State.count_fields (f : RelayCounters → RelayCounters) :
    (s.count f).phase = s.phase ∧ (s.count f).pins = s.pins ∧ (s.count f).timeBase = s.timeBase ∧
    (s.count f).slots = s.slots ∧ (s.count f).ports = s.ports ∧ (s.count f).relay = s.relay ∧
    (s.count f).map = s.map ∧ (s.count f).exchanges = s.exchanges ∧ (s.count f).timeoutTable = s.timeoutTable ∧
    (s.count f).reports = s.reports ∧ (s.count f).management = s.management ∧ (s.count f).notices = s.notices ∧
    (s.count f).loader = s.loader ∧ (s.count f).counters = f s.counters ∧ (s.count f).words = s.words ∧
    (s.count f).pending = s.pending :=
  ⟨rfl, rfl, rfl, rfl, rfl, rfl, rfl, rfl, rfl, rfl, rfl, rfl, rfl, rfl, rfl, rfl⟩

@[simp] theorem State.modifyWords_fields (f : Words → Words) :
    (s.modifyWords f).phase = s.phase ∧ (s.modifyWords f).pins = s.pins ∧ (s.modifyWords f).timeBase = s.timeBase ∧
    (s.modifyWords f).slots = s.slots ∧ (s.modifyWords f).ports = s.ports ∧ (s.modifyWords f).relay = s.relay ∧
    (s.modifyWords f).map = s.map ∧ (s.modifyWords f).exchanges = s.exchanges ∧
    (s.modifyWords f).timeoutTable = s.timeoutTable ∧ (s.modifyWords f).reports = s.reports ∧
    (s.modifyWords f).management = s.management ∧ (s.modifyWords f).notices = s.notices ∧
    (s.modifyWords f).loader = s.loader ∧ (s.modifyWords f).counters = s.counters ∧
    (s.modifyWords f).words = f s.words ∧ (s.modifyWords f).pending = s.pending :=
  ⟨rfl, rfl, rfl, rfl, rfl, rfl, rfl, rfl, rfl, rfl, rfl, rfl, rfl, rfl, rfl, rfl⟩

@[simp] theorem State.raise_fields (kind : NoticeKind) (subject detail : Byte) :
    (s.raise kind subject detail).phase = s.phase ∧ (s.raise kind subject detail).pins = s.pins ∧
    (s.raise kind subject detail).timeBase = s.timeBase ∧ (s.raise kind subject detail).slots = s.slots ∧
    (s.raise kind subject detail).ports = s.ports ∧ (s.raise kind subject detail).relay = s.relay ∧
    (s.raise kind subject detail).map = s.map ∧ (s.raise kind subject detail).exchanges = s.exchanges ∧
    (s.raise kind subject detail).timeoutTable = s.timeoutTable ∧ (s.raise kind subject detail).reports = s.reports ∧
    (s.raise kind subject detail).management = s.management ∧ (s.raise kind subject detail).notices = s.notices ∧
    (s.raise kind subject detail).loader = s.loader ∧ (s.raise kind subject detail).counters = s.counters ∧
    (s.raise kind subject detail).words = { s.words with raised := s.words.raised ++ [⟨kind, subject, detail⟩] } ∧
    (s.raise kind subject detail).pending = s.pending :=
  ⟨rfl, rfl, rfl, rfl, rfl, rfl, rfl, rfl, rfl, rfl, rfl, rfl, rfl, rfl, rfl, rfl⟩

@[simp] theorem State.askReport_fields (reason : ReportReason) (key : ExchangeKey) (port : Port) :
    (s.askReport reason key port).phase = s.phase ∧ (s.askReport reason key port).pins = s.pins ∧
    (s.askReport reason key port).timeBase = s.timeBase ∧ (s.askReport reason key port).slots = s.slots ∧
    (s.askReport reason key port).ports = s.ports ∧ (s.askReport reason key port).relay = s.relay ∧
    (s.askReport reason key port).map = s.map ∧ (s.askReport reason key port).exchanges = s.exchanges ∧
    (s.askReport reason key port).timeoutTable = s.timeoutTable ∧
    (s.askReport reason key port).reports = s.reports ++ [⟨reason, key, port⟩] ∧
    (s.askReport reason key port).management = s.management ∧ (s.askReport reason key port).notices = s.notices ∧
    (s.askReport reason key port).loader = s.loader ∧ (s.askReport reason key port).counters = s.counters ∧
    (s.askReport reason key port).words = s.words ∧ (s.askReport reason key port).pending = s.pending :=
  ⟨rfl, rfl, rfl, rfl, rfl, rfl, rfl, rfl, rfl, rfl, rfl, rfl, rfl, rfl, rfl, rfl⟩

@[simp] theorem State.modifyNotices_fields (f : NoticeUnit → NoticeUnit) :
    (s.modifyNotices f).phase = s.phase ∧ (s.modifyNotices f).pins = s.pins ∧
    (s.modifyNotices f).timeBase = s.timeBase ∧ (s.modifyNotices f).slots = s.slots ∧
    (s.modifyNotices f).ports = s.ports ∧ (s.modifyNotices f).relay = s.relay ∧ (s.modifyNotices f).map = s.map ∧
    (s.modifyNotices f).exchanges = s.exchanges ∧ (s.modifyNotices f).timeoutTable = s.timeoutTable ∧
    (s.modifyNotices f).reports = s.reports ∧ (s.modifyNotices f).management = s.management ∧
    (s.modifyNotices f).notices = f s.notices ∧ (s.modifyNotices f).loader = s.loader ∧
    (s.modifyNotices f).counters = s.counters ∧ (s.modifyNotices f).words = s.words ∧
    (s.modifyNotices f).pending = s.pending :=
  ⟨rfl, rfl, rfl, rfl, rfl, rfl, rfl, rfl, rfl, rfl, rfl, rfl, rfl, rfl, rfl, rfl⟩

@[simp] theorem State.modifyManagement_fields (f : ManagementUnit → ManagementUnit) :
    (s.modifyManagement f).phase = s.phase ∧ (s.modifyManagement f).pins = s.pins ∧
    (s.modifyManagement f).timeBase = s.timeBase ∧ (s.modifyManagement f).slots = s.slots ∧
    (s.modifyManagement f).ports = s.ports ∧ (s.modifyManagement f).relay = s.relay ∧
    (s.modifyManagement f).map = s.map ∧ (s.modifyManagement f).exchanges = s.exchanges ∧
    (s.modifyManagement f).timeoutTable = s.timeoutTable ∧ (s.modifyManagement f).reports = s.reports ∧
    (s.modifyManagement f).management = f s.management ∧ (s.modifyManagement f).notices = s.notices ∧
    (s.modifyManagement f).loader = s.loader ∧ (s.modifyManagement f).counters = s.counters ∧
    (s.modifyManagement f).words = s.words ∧ (s.modifyManagement f).pending = s.pending :=
  ⟨rfl, rfl, rfl, rfl, rfl, rfl, rfl, rfl, rfl, rfl, rfl, rfl, rfl, rfl, rfl, rfl⟩

@[simp] theorem State.modifyLoader_fields (f : ImageLoader → ImageLoader) :
    (s.modifyLoader f).phase = s.phase ∧ (s.modifyLoader f).pins = s.pins ∧ (s.modifyLoader f).timeBase = s.timeBase ∧
    (s.modifyLoader f).slots = s.slots ∧ (s.modifyLoader f).ports = s.ports ∧ (s.modifyLoader f).relay = s.relay ∧
    (s.modifyLoader f).map = s.map ∧ (s.modifyLoader f).exchanges = s.exchanges ∧
    (s.modifyLoader f).timeoutTable = s.timeoutTable ∧ (s.modifyLoader f).reports = s.reports ∧
    (s.modifyLoader f).management = s.management ∧ (s.modifyLoader f).notices = s.notices ∧
    (s.modifyLoader f).loader = f s.loader ∧ (s.modifyLoader f).counters = s.counters ∧
    (s.modifyLoader f).words = s.words ∧ (s.modifyLoader f).pending = s.pending :=
  ⟨rfl, rfl, rfl, rfl, rfl, rfl, rfl, rfl, rfl, rfl, rfl, rfl, rfl, rfl, rfl, rfl⟩

@[simp] theorem State.modifyRules_fields (f : List Rule → List Rule) :
    (s.modifyRules f).phase = s.phase ∧ (s.modifyRules f).pins = s.pins ∧ (s.modifyRules f).timeBase = s.timeBase ∧
    (s.modifyRules f).slots = s.slots ∧ (s.modifyRules f).ports = s.ports ∧
    (s.modifyRules f).relay = { s.relay with rules := f s.relay.rules } ∧ (s.modifyRules f).map = s.map ∧
    (s.modifyRules f).exchanges = s.exchanges ∧ (s.modifyRules f).timeoutTable = s.timeoutTable ∧
    (s.modifyRules f).reports = s.reports ∧ (s.modifyRules f).management = s.management ∧
    (s.modifyRules f).notices = s.notices ∧ (s.modifyRules f).loader = s.loader ∧
    (s.modifyRules f).counters = s.counters ∧ (s.modifyRules f).words = s.words ∧
    (s.modifyRules f).pending = s.pending :=
  ⟨rfl, rfl, rfl, rfl, rfl, rfl, rfl, rfl, rfl, rfl, rfl, rfl, rfl, rfl, rfl, rfl⟩

@[simp] theorem State.modifySlot_fields (i : SlotId) (f : Slot → Slot) :
    (s.modifySlot i f).phase = s.phase ∧ (s.modifySlot i f).pins = s.pins ∧ (s.modifySlot i f).timeBase = s.timeBase ∧
    (s.modifySlot i f).slots = s.slots.set i (f s.slots[i]) ∧ (s.modifySlot i f).ports = s.ports ∧
    (s.modifySlot i f).relay = s.relay ∧ (s.modifySlot i f).map = s.map ∧ (s.modifySlot i f).exchanges = s.exchanges ∧
    (s.modifySlot i f).timeoutTable = s.timeoutTable ∧ (s.modifySlot i f).reports = s.reports ∧
    (s.modifySlot i f).management = s.management ∧ (s.modifySlot i f).notices = s.notices ∧
    (s.modifySlot i f).loader = s.loader ∧ (s.modifySlot i f).counters = s.counters ∧
    (s.modifySlot i f).words = s.words ∧ (s.modifySlot i f).pending = s.pending :=
  ⟨rfl, rfl, rfl, rfl, rfl, rfl, rfl, rfl, rfl, rfl, rfl, rfl, rfl, rfl, rfl, rfl⟩

@[simp] theorem State.addRef_fields (i : SlotId) :
    (s.addRef i).phase = s.phase ∧ (s.addRef i).pins = s.pins ∧ (s.addRef i).timeBase = s.timeBase ∧
    (s.addRef i).ports = s.ports ∧ (s.addRef i).relay = s.relay ∧ (s.addRef i).map = s.map ∧
    (s.addRef i).exchanges = s.exchanges ∧ (s.addRef i).timeoutTable = s.timeoutTable ∧
    (s.addRef i).reports = s.reports ∧ (s.addRef i).management = s.management ∧ (s.addRef i).notices = s.notices ∧
    (s.addRef i).loader = s.loader ∧ (s.addRef i).counters = s.counters ∧ (s.addRef i).words = s.words ∧
    (s.addRef i).pending = s.pending :=
  ⟨rfl, rfl, rfl, rfl, rfl, rfl, rfl, rfl, rfl, rfl, rfl, rfl, rfl, rfl, rfl⟩

@[simp] theorem State.addStation_fields (e : StationEntry) :
    (s.addStation e).phase = s.phase ∧ (s.addStation e).pins = s.pins ∧ (s.addStation e).timeBase = s.timeBase ∧
    (s.addStation e).slots = s.slots ∧ (s.addStation e).ports = s.ports ∧ (s.addStation e).relay = s.relay ∧
    (s.addStation e).map = { s.map with entries := insertStation e s.map.entries } ∧
    (s.addStation e).exchanges = s.exchanges ∧ (s.addStation e).timeoutTable = s.timeoutTable ∧
    (s.addStation e).reports = s.reports ∧ (s.addStation e).management = s.management ∧
    (s.addStation e).notices = s.notices ∧ (s.addStation e).loader = s.loader ∧
    (s.addStation e).counters = s.counters ∧ (s.addStation e).words = s.words ∧ (s.addStation e).pending = s.pending :=
  ⟨rfl, rfl, rfl, rfl, rfl, rfl, rfl, rfl, rfl, rfl, rfl, rfl, rfl, rfl, rfl, rfl⟩

@[simp] theorem State.removeStations_fields (gone : StationEntry → Bool) :
    (s.removeStations gone).phase = s.phase ∧ (s.removeStations gone).pins = s.pins ∧
    (s.removeStations gone).timeBase = s.timeBase ∧ (s.removeStations gone).slots = s.slots ∧
    (s.removeStations gone).ports = s.ports ∧ (s.removeStations gone).relay = s.relay ∧
    (s.removeStations gone).map = { s.map with entries := s.map.entries.filter fun e => !gone e } ∧
    (s.removeStations gone).exchanges = s.exchanges ∧ (s.removeStations gone).timeoutTable = s.timeoutTable ∧
    (s.removeStations gone).reports = s.reports ∧ (s.removeStations gone).management = s.management ∧
    (s.removeStations gone).notices = s.notices ∧ (s.removeStations gone).loader = s.loader ∧
    (s.removeStations gone).counters = s.counters ∧ (s.removeStations gone).words = s.words ∧
    (s.removeStations gone).pending = s.pending :=
  ⟨rfl, rfl, rfl, rfl, rfl, rfl, rfl, rfl, rfl, rfl, rfl, rfl, rfl, rfl, rfl, rfl⟩

@[simp] theorem State.modifyStation_fields (a : Byte) (f : StationEntry → StationEntry) :
    (s.modifyStation a f).phase = s.phase ∧ (s.modifyStation a f).pins = s.pins ∧
    (s.modifyStation a f).timeBase = s.timeBase ∧ (s.modifyStation a f).slots = s.slots ∧
    (s.modifyStation a f).ports = s.ports ∧ (s.modifyStation a f).relay = s.relay ∧
    (s.modifyStation a f).map = { s.map with entries := s.map.entries.map fun e => if e.address = a then f e else e } ∧
    (s.modifyStation a f).exchanges = s.exchanges ∧ (s.modifyStation a f).timeoutTable = s.timeoutTable ∧
    (s.modifyStation a f).reports = s.reports ∧ (s.modifyStation a f).management = s.management ∧
    (s.modifyStation a f).notices = s.notices ∧ (s.modifyStation a f).loader = s.loader ∧
    (s.modifyStation a f).counters = s.counters ∧ (s.modifyStation a f).words = s.words ∧
    (s.modifyStation a f).pending = s.pending :=
  ⟨rfl, rfl, rfl, rfl, rfl, rfl, rfl, rfl, rfl, rfl, rfl, rfl, rfl, rfl, rfl, rfl⟩

@[simp] theorem State.startAging_fields :
    (s.startAging).phase = s.phase ∧ (s.startAging).pins = s.pins ∧ (s.startAging).timeBase = s.timeBase ∧
    (s.startAging).slots = s.slots ∧ (s.startAging).ports = s.ports ∧ (s.startAging).relay = s.relay ∧
    (s.startAging).map = { s.map with timer := some (secondCycles s.map.period) } ∧
    (s.startAging).exchanges = s.exchanges ∧ (s.startAging).timeoutTable = s.timeoutTable ∧
    (s.startAging).reports = s.reports ∧ (s.startAging).management = s.management ∧
    (s.startAging).notices = s.notices ∧ (s.startAging).loader = s.loader ∧ (s.startAging).counters = s.counters ∧
    (s.startAging).words = s.words ∧ (s.startAging).pending = s.pending :=
  ⟨rfl, rfl, rfl, rfl, rfl, rfl, rfl, rfl, rfl, rfl, rfl, rfl, rfl, rfl, rfl, rfl⟩

@[simp] theorem State.setPeriod_fields (period : Nat) :
    (s.setPeriod period).phase = s.phase ∧ (s.setPeriod period).pins = s.pins ∧
    (s.setPeriod period).timeBase = s.timeBase ∧ (s.setPeriod period).slots = s.slots ∧
    (s.setPeriod period).ports = s.ports ∧ (s.setPeriod period).relay = s.relay ∧
    (s.setPeriod period).map = { s.map with period := period } ∧ (s.setPeriod period).exchanges = s.exchanges ∧
    (s.setPeriod period).timeoutTable = s.timeoutTable ∧ (s.setPeriod period).reports = s.reports ∧
    (s.setPeriod period).management = s.management ∧ (s.setPeriod period).notices = s.notices ∧
    (s.setPeriod period).loader = s.loader ∧ (s.setPeriod period).counters = s.counters ∧
    (s.setPeriod period).words = s.words ∧ (s.setPeriod period).pending = s.pending :=
  ⟨rfl, rfl, rfl, rfl, rfl, rfl, rfl, rfl, rfl, rfl, rfl, rfl, rfl, rfl, rfl, rfl⟩

@[simp] theorem State.dropRecord_fields (x : Exchange) :
    (s.dropRecord x).phase = s.phase ∧ (s.dropRecord x).pins = s.pins ∧ (s.dropRecord x).timeBase = s.timeBase ∧
    (s.dropRecord x).slots = s.slots ∧ (s.dropRecord x).ports = s.ports ∧ (s.dropRecord x).relay = s.relay ∧
    (s.dropRecord x).map = s.map ∧ (s.dropRecord x).exchanges = s.exchanges.eraseP (·.key == x.key) ∧
    (s.dropRecord x).timeoutTable = s.timeoutTable ∧ (s.dropRecord x).reports = s.reports ∧
    (s.dropRecord x).management = s.management ∧ (s.dropRecord x).notices = s.notices ∧
    (s.dropRecord x).loader = s.loader ∧ (s.dropRecord x).counters = s.counters ∧ (s.dropRecord x).words = s.words ∧
    (s.dropRecord x).pending = s.pending :=
  ⟨rfl, rfl, rfl, rfl, rfl, rfl, rfl, rfl, rfl, rfl, rfl, rfl, rfl, rfl, rfl, rfl⟩

@[simp] theorem State.modifyExchange_fields (k : ExchangeKey) (f : Exchange → Exchange) :
    (s.modifyExchange k f).phase = s.phase ∧ (s.modifyExchange k f).pins = s.pins ∧
    (s.modifyExchange k f).timeBase = s.timeBase ∧ (s.modifyExchange k f).slots = s.slots ∧
    (s.modifyExchange k f).ports = s.ports ∧ (s.modifyExchange k f).relay = s.relay ∧
    (s.modifyExchange k f).map = s.map ∧
    (s.modifyExchange k f).exchanges = s.exchanges.map (fun x => if x.key = k then f x else x) ∧
    (s.modifyExchange k f).timeoutTable = s.timeoutTable ∧ (s.modifyExchange k f).reports = s.reports ∧
    (s.modifyExchange k f).management = s.management ∧ (s.modifyExchange k f).notices = s.notices ∧
    (s.modifyExchange k f).loader = s.loader ∧ (s.modifyExchange k f).counters = s.counters ∧
    (s.modifyExchange k f).words = s.words ∧ (s.modifyExchange k f).pending = s.pending :=
  ⟨rfl, rfl, rfl, rfl, rfl, rfl, rfl, rfl, rfl, rfl, rfl, rfl, rfl, rfl, rfl, rfl⟩

/-! ## Reading a port -/

/-- Every port is among the four. -/
@[simp] theorem mem_allPorts (p : Port) : p ∈ allPorts := by
  match p with
  | 0 | 1 | 2 | 3 => decide

@[simp] theorem State.port_modifyPort_same (p : Port) (f : LinePort → LinePort) :
    (s.modifyPort p f).port p = f (s.port p) := Four.get_set_same ..

@[simp] theorem State.port_modifyPort_other {p q : Port} (f : LinePort → LinePort) (h : q ≠ p) :
    (s.modifyPort p f).port q = s.port q := Four.get_set_other _ _ h

@[simp] theorem State.port_modifyPorts (p : Port) (f : LinePort → LinePort) :
    (s.modifyPorts f).port p = f (s.port p) := Four.get_map ..

@[simp] theorem State.port_modifyFramer_same (p : Port) (f : Framer → Framer) :
    (s.modifyFramer p f).port p = { s.port p with framer := f (s.port p).framer } := Four.get_set_same ..

@[simp] theorem State.port_modifyFramer_other {p q : Port} (f : Framer → Framer) (h : q ≠ p) :
    (s.modifyFramer p f).port q = s.port q := Four.get_set_other _ _ h

@[simp] theorem State.port_modifyReceiver_same (p : Port) (f : Receiver → Receiver) :
    (s.modifyReceiver p f).port p = { s.port p with receiver := f (s.port p).receiver } := Four.get_set_same ..

@[simp] theorem State.port_modifyReceiver_other {p q : Port} (f : Receiver → Receiver) (h : q ≠ p) :
    (s.modifyReceiver p f).port q = s.port q := Four.get_set_other _ _ h

@[simp] theorem State.port_modifyTransmitter_same (p : Port) (f : Transmitter → Transmitter) :
    (s.modifyTransmitter p f).port p = { s.port p with transmitter := f (s.port p).transmitter } := Four.get_set_same ..

@[simp] theorem State.port_modifyTransmitter_other {p q : Port} (f : Transmitter → Transmitter) (h : q ≠ p) :
    (s.modifyTransmitter p f).port q = s.port q := Four.get_set_other _ _ h

@[simp] theorem State.port_modifyRecord_same (p : Port) (f : PortRecord → PortRecord) :
    (s.modifyRecord p f).port p = { s.port p with record := f (s.port p).record } := Four.get_set_same ..

@[simp] theorem State.port_modifyRecord_other {p q : Port} (f : PortRecord → PortRecord) (h : q ≠ p) :
    (s.modifyRecord p f).port q = s.port q := Four.get_set_other _ _ h

@[simp] theorem State.port_countPort_same (p : Port) (f : PortCounters → PortCounters) :
    (s.countPort p f).port p = { s.port p with counters := f (s.port p).counters } := Four.get_set_same ..

@[simp] theorem State.port_countPort_other {p q : Port} (f : PortCounters → PortCounters) (h : q ≠ p) :
    (s.countPort p f).port q = s.port q := Four.get_set_other _ _ h

/-- A port reads alike in two states with the same ports. -/
theorem State.port_congr {s t : State} (h : t.ports = s.ports) (p : Port) : t.port p = s.port p := by
  unfold State.port; rw [h]

/-- Two states have the same ports when every port reads alike. -/
theorem State.ports_ext {s t : State} (h : ∀ p, t.port p = s.port p) : t.ports = s.ports := by
  have e : ∀ v w : Four LinePort, (∀ p, v.get p = w.get p) → v = w := fun v w e => by
    have h0 : v.zero = w.zero := e 0
    have h1 : v.one = w.one := e 1
    have h2 : v.two = w.two := e 2
    have h3 : v.three = w.three := e 3
    cases v; cases w; simp_all
  exact e _ _ h

/-! ## Reading a slot -/

@[simp] theorem State.slot_modifySlot_same (i : SlotId) (f : Slot → Slot) :
    (s.modifySlot i f).slot i = f (s.slot i) := by
  simp [State.slot]

@[simp] theorem State.slot_modifySlot_other {i j : SlotId} (f : Slot → Slot) (h : j ≠ i) :
    (s.modifySlot i f).slot j = s.slot j := by
  have h' : (i : Nat) ≠ j := fun e => h (Fin.ext e.symm)
  simp [State.slot, h']

/-- A slot reads alike in two states with the same slots. -/
theorem State.slot_congr {s t : State} (h : t.slots = s.slots) (i : SlotId) : t.slot i = s.slot i := by
  unfold State.slot; rw [h]

/-- Two states have the same slots when every slot reads alike. -/
theorem State.slots_ext {s t : State} (h : ∀ i, t.slot i = s.slot i) : t.slots = s.slots := by
  apply Vector.ext
  intro i hi
  exact h ⟨i, hi⟩

end Sys2Proof.Machine
end

