-- ==== Sys2Proof/Laws/Pool.lean ====
section
/-! SUPPORT. What the Frame Store's operations can do: which slots change and how (R20 to R25). -/

namespace Sys2Proof.Machine

variable (s : State)

/-! ## Holders outside the count -/

/-- The holders of a slot are read from the receivers, the input list and the input queue alone. -/
theorem State.heldOutside_congr {s t : State} (hp : t.ports = s.ports) (hr : t.relay.input = s.relay.input)
    (hm : t.management.queue = s.management.queue) (i : SlotId) : t.heldOutside i = s.heldOutside i := by
  simp [State.heldOutside, State.receiverHolds, State.port, hp, hr, hm]

@[simp] theorem State.heldOutside_modifySlot (i j : SlotId) (f : Slot → Slot) :
    (s.modifySlot i f).heldOutside j = s.heldOutside j := rfl

/-- A slot is held outside the count exactly when a receiver, the input list or the input queue names it. -/
theorem State.heldOutside_iff (i : SlotId) :
    s.heldOutside i = true ↔
      (∃ p : Port, (s.port p).receiver.currentSlot = some i) ∨ (∃ h ∈ s.relay.input, h.slot = i) ∨
        ∃ h ∈ s.management.queue, h.slot = i := by
  have e : s.receiverHolds i = true ↔ ∃ p : Port, (s.port p).receiver.currentSlot = some i := by
    simp only [State.receiverHolds, allPorts, List.any_cons, List.any_nil, Bool.or_false, Bool.or_eq_true, beq_iff_eq]
    constructor
    · rintro (h | h | h | h)
      exacts [⟨_, h⟩, ⟨_, h⟩, ⟨_, h⟩, ⟨_, h⟩]
    · rintro ⟨p, h⟩
      match p, h with
      | 0, h => exact .inl h
      | 1, h => exact .inr (.inl h)
      | 2, h => exact .inr (.inr (.inl h))
      | 3, h => exact .inr (.inr (.inr h))
  simp [State.heldOutside, e, or_assoc]

/-! ## Letting a slot go -/

/-- Letting a slot go changes slots alone. -/
theorem State.letGo_only (i : SlotId) : s.letGo i = { s with slots := (s.letGo i).slots } := by
  unfold State.letGo
  split <;> rfl

@[simp] theorem State.letGo_fields (i : SlotId) :
    (s.letGo i).phase = s.phase ∧ (s.letGo i).pins = s.pins ∧ (s.letGo i).timeBase = s.timeBase ∧
    (s.letGo i).ports = s.ports ∧ (s.letGo i).relay = s.relay ∧ (s.letGo i).map = s.map ∧
    (s.letGo i).exchanges = s.exchanges ∧ (s.letGo i).timeoutTable = s.timeoutTable ∧
    (s.letGo i).reports = s.reports ∧ (s.letGo i).management = s.management ∧ (s.letGo i).notices = s.notices ∧
    (s.letGo i).loader = s.loader ∧ (s.letGo i).counters = s.counters ∧ (s.letGo i).words = s.words ∧
    (s.letGo i).pending = s.pending := by
  rw [State.letGo_only]; simp

/-- The slot let go is empty when nothing else holds it, and unchanged otherwise. -/
theorem State.slot_letGo_same (i : SlotId) :
    (s.letGo i).slot i = if (s.slot i).refs = 0 ∧ ¬ s.heldOutside i then Slot.empty else s.slot i := by
  unfold State.letGo
  split <;> simp_all

@[simp] theorem State.slot_letGo_other {i j : SlotId} (h : j ≠ i) : (s.letGo i).slot j = s.slot j := by
  unfold State.letGo
  split <;> simp [h]

/-- A slot that an entry or a record still names is not let go. -/
theorem State.letGo_of_refs {i : SlotId} (h : (s.slot i).refs ≠ 0) : s.letGo i = s := by
  simp [State.letGo, h]

/-- A slot that a holder outside the count still names is not let go. -/
theorem State.letGo_of_held {i : SlotId} (h : s.heldOutside i = true) : s.letGo i = s := by
  simp [State.letGo, h]

/-! ## References -/

@[simp] theorem State.slot_addRef_same (i : SlotId) :
    (s.addRef i).slot i = { s.slot i with refs := (s.slot i).refs + 1 } := State.slot_modifySlot_same ..

@[simp] theorem State.slot_addRef_other {i j : SlotId} (h : j ≠ i) : (s.addRef i).slot j = s.slot j :=
  State.slot_modifySlot_other _ _ h

/-- Releasing a reference changes slots alone. -/
theorem State.releaseRef_only (i : SlotId) : s.releaseRef i = { s with slots := (s.releaseRef i).slots } := by
  unfold State.releaseRef; rw [State.letGo_only]; simp [State.modifySlot]

@[simp] theorem State.releaseRef_fields (i : SlotId) :
    (s.releaseRef i).phase = s.phase ∧ (s.releaseRef i).pins = s.pins ∧ (s.releaseRef i).timeBase = s.timeBase ∧
    (s.releaseRef i).ports = s.ports ∧ (s.releaseRef i).relay = s.relay ∧ (s.releaseRef i).map = s.map ∧
    (s.releaseRef i).exchanges = s.exchanges ∧ (s.releaseRef i).timeoutTable = s.timeoutTable ∧
    (s.releaseRef i).reports = s.reports ∧ (s.releaseRef i).management = s.management ∧
    (s.releaseRef i).notices = s.notices ∧ (s.releaseRef i).loader = s.loader ∧
    (s.releaseRef i).counters = s.counters ∧ (s.releaseRef i).words = s.words ∧
    (s.releaseRef i).pending = s.pending := by
  rw [State.releaseRef_only]; simp

/-- The slot whose reference is released: empty at 0 with no holder outside the count, else one reference less. -/
theorem State.slot_releaseRef_same (i : SlotId) :
    (s.releaseRef i).slot i =
      if (s.slot i).refs - 1 = 0 ∧ ¬ s.heldOutside i then Slot.empty
      else { s.slot i with refs := (s.slot i).refs - 1 } := by
  simp [State.releaseRef, State.slot_letGo_same]

@[simp] theorem State.slot_releaseRef_other {i j : SlotId} (h : j ≠ i) : (s.releaseRef i).slot j = s.slot j := by
  simp [State.releaseRef, h]

/-! ## Claims -/

/-- The lowest-numbered FREE slot is FREE. -/
theorem State.lowestFree_free {i : SlotId} (h : s.lowestFree = some i) : (s.slot i).state = .free := by
  simpa using List.find?_some h

/-- No FREE slot has a lower number than the lowest. -/
theorem State.lowestFree_lowest {i j : SlotId} (h : s.lowestFree = some i) (hj : (s.slot j).state = .free) : i ≤ j := by
  obtain ⟨_, as, bs, e, nf⟩ := List.find?_eq_some_iff_append.mp h
  have hm : j ∈ as ++ i :: bs := e ▸ List.mem_finRange j
  rcases List.mem_append.mp hm with ha | hb
  · have := nf j ha
    simp [hj] at this
  · rcases List.mem_cons.mp hb with rfl | hb
    · exact le_rfl
    · have hs : (List.finRange 48).Pairwise (· < ·) := List.pairwise_lt_finRange 48
      rw [e] at hs
      exact le_of_lt ((List.pairwise_cons.mp (List.pairwise_append.mp hs).2.1).1 j hb)

/-- There is a lowest-numbered FREE slot exactly when a slot is FREE. -/
theorem State.lowestFree_none : s.lowestFree = none ↔ ∀ i : SlotId, (s.slot i).state ≠ .free := by
  simp [State.lowestFree]

/-- Taking a FREE slot lowers the free count by one. -/
theorem State.freeCount_take {i : SlotId} (f : Slot → Slot) (h : (s.slot i).state = .free)
    (hf : (f (s.slot i)).state ≠ .free) : (s.modifySlot i f).freeCount + 1 = s.freeCount := by
  have hl : s.slots.toList[(i : Nat)]'(by simp) = s.slot i := by simp [State.slot]
  have hc := List.countP_set (p := fun f : Slot => f.state == .free) (l := s.slots.toList) (i := i) (a := f (s.slot i))
    (by simp)
  have hpos : 0 < s.slots.toList.countP fun f => f.state == .free :=
    List.countP_pos_iff.mpr ⟨s.slot i, hl ▸ List.getElem_mem _, by simp [h]⟩
  have he : (s.modifySlot i f).slots.toList = s.slots.toList.set i (f (s.slot i)) :=
    @Vector.toList_set _ _ _ _ _ i.isLt
  unfold State.freeCount
  rw [he, hc, hl]
  simp only [h, beq_self_eq_true, if_true, beq_iff_eq, hf, if_false]
  omega

/-- A generator's claim takes the lowest-numbered FREE slot. -/
theorem State.claimForGenerator_some {i : SlotId} (h : s.lowestFree = some i) :
    s.claimForGenerator = some (i, s.modifySlot i fun _ => ⟨[], 0, .inUse⟩) := by
  simp [State.claimForGenerator, h]

/-- With no slot FREE a generator's claim is refused. -/
theorem State.claimForGenerator_none (h : s.lowestFree = none) : s.claimForGenerator = none := by
  simp [State.claimForGenerator, h]

/-- A receiver's claim is granted while more than 4 slots are FREE. -/
theorem State.claimForReceiver_some {i : SlotId} (h : s.lowestFree = some i) (hc : 4 < s.freeCount) :
    s.claimForReceiver = some (i, s.modifySlot i fun _ => ⟨[], 0, .filling⟩) := by
  simp [State.claimForReceiver, h, hc]

/-- With 4 or fewer slots FREE a receiver's claim is refused. -/
theorem State.claimForReceiver_none (h : s.freeCount ≤ 4) : s.claimForReceiver = none := by
  simp [State.claimForReceiver, Nat.not_lt.mpr h]

end Sys2Proof.Machine
end

