-- ==== Sys2Proof/Laws/Queue.lean ====
section
/-! SUPPORT. What the transmit queues' operations can do (R30 to R36): which ports, slots and words change. -/

namespace Sys2Proof.Machine

variable (s : State)

/-! ## Operations that touch ports, slots and words alone -/

/-- `t` differs from `s` in ports, slots, words and relay-wide counters at most. -/
def SameButTraffic (s t : State) : Prop :=
  t = { s with ports := t.ports, slots := t.slots, words := t.words, counters := t.counters }

theorem SameButTraffic.refl : SameButTraffic s s := rfl

theorem SameButTraffic.trans {s t u : State} (h : SameButTraffic s t) (k : SameButTraffic t u) : SameButTraffic s u := by
  unfold SameButTraffic at *; rw [k, h]

/-- A fold of operations that touch traffic alone touches traffic alone. -/
theorem SameButTraffic.foldl {α : Type} {f : State → α → State} (h : ∀ s a, SameButTraffic s (f s a)) (l : List α)
    (s : State) : SameButTraffic s (l.foldl f s) := by
  induction l generalizing s with
  | nil => exact .refl s
  | cons a l ih => exact (h s a).trans (ih _)

/-- What stays under an operation that touches traffic alone. -/
theorem SameButTraffic.fields {s t : State} (h : SameButTraffic s t) :
    t.phase = s.phase ∧ t.pins = s.pins ∧ t.timeBase = s.timeBase ∧ t.relay = s.relay ∧ t.map = s.map ∧
    t.exchanges = s.exchanges ∧ t.timeoutTable = s.timeoutTable ∧ t.reports = s.reports ∧
    t.management = s.management ∧ t.notices = s.notices ∧ t.loader = s.loader ∧ t.pending = s.pending := by
  rw [h]; simp

theorem State.count_traffic (f : RelayCounters → RelayCounters) : SameButTraffic s (s.count f) := rfl

theorem State.modifyWords_traffic (f : Words → Words) : SameButTraffic s (s.modifyWords f) := rfl

theorem State.releaseRef_traffic (i : SlotId) : SameButTraffic s (s.releaseRef i) := by
  unfold SameButTraffic; rw [State.releaseRef_only]

theorem State.letGo_traffic (i : SlotId) : SameButTraffic s (s.letGo i) := by
  unfold SameButTraffic; rw [State.letGo_only]

/-! ## Departures -/

/-- An announcement changes the words outstanding alone. -/
theorem State.announce_only (p : Port) (e : QueueEntry) (m : Manner) :
    s.announce p e m = { s with words := (s.announce p e m).words } := by
  unfold State.announce
  split <;> (try split) <;> (try split) <;> rfl

theorem State.announce_traffic (p : Port) (e : QueueEntry) (m : Manner) : SameButTraffic s (s.announce p e m) := by
  unfold SameButTraffic; rw [State.announce_only]

/-- A departure changes slots and words alone. -/
theorem State.depart_only (p : Port) (m : Manner) (e : QueueEntry) :
    s.depart p m e = { s with slots := (s.depart p m e).slots, words := (s.depart p m e).words } := by
  unfold State.depart; rw [State.announce_only, State.releaseRef_only]

theorem State.depart_traffic (p : Port) (m : Manner) (e : QueueEntry) : SameButTraffic s (s.depart p m e) := by
  unfold SameButTraffic; rw [State.depart_only]

@[simp] theorem State.depart_ports (p : Port) (m : Manner) (e : QueueEntry) : (s.depart p m e).ports = s.ports := by
  rw [State.depart_only]

/-- A departure changes the slots as the release of one reference does. -/
theorem State.depart_slots (p : Port) (m : Manner) (e : QueueEntry) :
    (s.depart p m e).slots = (s.releaseRef e.slot).slots := by
  unfold State.depart; rw [State.announce_only]

@[simp] theorem State.slot_depart (p : Port) (m : Manner) (e : QueueEntry) (j : SlotId) :
    (s.depart p m e).slot j = (s.releaseRef e.slot).slot j := State.slot_congr (State.depart_slots ..) j

@[simp] theorem State.depart_foldl_ports (p : Port) (m : Manner) (l : List QueueEntry) :
    (l.foldl (fun s e => State.depart s p m e) s).ports = s.ports := by
  induction l generalizing s with
  | nil => rfl
  | cons e l ih => simp [ih]

/-! ## Admission -/

theorem State.joinQueue_only (p : Port) (e : QueueEntry) :
    s.joinQueue p e = { s with ports := (s.joinQueue p e).ports, slots := (s.joinQueue p e).slots } := rfl

theorem State.joinQueue_traffic (p : Port) (e : QueueEntry) : SameButTraffic s (s.joinQueue p e) := rfl

@[simp] theorem State.port_joinQueue_same (p : Port) (e : QueueEntry) :
    (s.joinQueue p e).port p =
      { s.port p with
        transmitter :=
          wakeTransmitter (s.port p).record.admin
            { (s.port p).transmitter with queue := (s.port p).transmitter.joined e } } :=
  Four.get_set_same ..

@[simp] theorem State.port_joinQueue_other {p q : Port} (e : QueueEntry) (h : q ≠ p) :
    (s.joinQueue p e).port q = s.port q := Four.get_set_other _ _ h

@[simp] theorem State.slot_joinQueue_same (p : Port) (e : QueueEntry) :
    (s.joinQueue p e).slot e.slot = { s.slot e.slot with refs := (s.slot e.slot).refs + 1 } :=
  State.slot_addRef_same ..

@[simp] theorem State.slot_joinQueue_other (p : Port) (e : QueueEntry) {j : SlotId} (h : j ≠ e.slot) :
    (s.joinQueue p e).slot j = s.slot j := State.slot_addRef_other _ h

theorem State.displace_traffic (p : Port) (d : QueueEntry) (rest : List QueueEntry) :
    SameButTraffic s (s.displace p d rest) :=
  .trans (t := (s.modifyTransmitter p _).countPort p _) rfl (State.depart_traffic ..)

/-- A queue with room admits the entry with no displacement (R32). -/
theorem State.offer_room {p : Port} (e : QueueEntry) (h : (s.admin p).isDown = false)
    (hr : (s.port p).transmitter.queue.length < 16) : s.offer p e = (s.joinQueue p e, true) := by
  simp [State.offer, h, hr]

/-- A port that is down admits nothing, and nothing changes (R33). -/
theorem State.offer_down {p : Port} (e : QueueEntry) (h : (s.admin p).isDown = true) : s.offer p e = (s, false) := by
  simp [State.offer, h]

/-- An admission touches traffic alone. -/
theorem State.offer_traffic (p : Port) (e : QueueEntry) : SameButTraffic s (s.offer p e).1 := by
  unfold State.offer
  split
  · exact .refl s
  · split
    · rfl
    · split
      · rfl
      · split
        · exact (State.displace_traffic ..).trans rfl
        · rfl

/-- A frame offered to several ports with room is admitted at each of them, and nowhere else does anything change but its
slot's count. -/
theorem State.offerAll_room (e : QueueEntry) (l : List Port) (hn : l.Nodup)
    (h : ∀ p ∈ l, (s.admin p).isDown = false ∧ (s.port p).transmitter.queue.length < 16) :
    (s.offerAll e l).2 = l.length ∧
    (s.offerAll e l).1 = { s with ports := (s.offerAll e l).1.ports, slots := (s.offerAll e l).1.slots } ∧
    (∀ p ∈ l, (s.offerAll e l).1.port p = { s.port p with
      transmitter := wakeTransmitter (s.port p).record.admin
        { (s.port p).transmitter with queue := (s.port p).transmitter.joined e } }) ∧
    (∀ p, p ∉ l → (s.offerAll e l).1.port p = s.port p) ∧
    (s.offerAll e l).1.slot e.slot = { s.slot e.slot with refs := (s.slot e.slot).refs + l.length } ∧
    ∀ j, j ≠ e.slot → (s.offerAll e l).1.slot j = s.slot j := by
  induction l generalizing s with
  | nil => exact ⟨rfl, rfl, nofun, fun _ _ => rfl, rfl, fun _ _ => rfl⟩
  | cons p l ih =>
    obtain ⟨hp, hn⟩ := List.nodup_cons.mp hn
    have ha := s.offer_room e (h p (by simp)).1 (h p (by simp)).2
    have hother : ∀ q, q ≠ p → (s.joinQueue p e).port q = s.port q := fun q hq => s.port_joinQueue_other e hq
    have hne : ∀ q ∈ l, q ≠ p := fun q hq hqp => hp (hqp ▸ hq)
    obtain ⟨i1, i2, i3, i4, i5, i6⟩ := ih (s.joinQueue p e) hn fun q hq => by
      have := h q (List.mem_cons_of_mem _ hq)
      unfold State.admin at this ⊢
      rwa [hother q (hne q hq)]
    have hstep : s.offerAll e (p :: l) = (((s.joinQueue p e).offerAll e l).1, ((s.joinQueue p e).offerAll e l).2 + 1) := by
      simp only [State.offerAll, ha, if_true]
    rw [hstep]
    refine ⟨by simp [i1], ?_, fun q hq => ?_, fun q hq => ?_, ?_, fun j hj => ?_⟩
    · simp only; rw [i2]; rfl
    · rcases List.mem_cons.mp hq with rfl | hq
      · rw [i4 q hp, State.port_joinQueue_same]
      · rw [i3 q hq, hother q (hne q hq)]
    · rw [i4 q fun hm => hq (List.mem_cons_of_mem _ hm), hother q fun e => hq (e ▸ List.mem_cons_self)]
    · rw [i5, State.slot_joinQueue_same]
      simp only [List.length_cons, Slot.mk.injEq, true_and, and_true]
      omega
    · rw [i6 j hj, State.slot_joinQueue_other _ _ _ hj]

/-- The admissions of one frame to several ports touch traffic alone. -/
theorem State.offerAll_traffic (e : QueueEntry) (l : List Port) : SameButTraffic s (s.offerAll e l).1 := by
  induction l generalizing s with
  | nil => exact .refl s
  | cons p l ih => exact (State.offer_traffic s p e).trans (ih _)

/-- A frame that a generator builds and offers touches traffic alone. -/
theorem State.sendGenerated_traffic (i : SlotId) (frame : List Character) (l : List Port) :
    SameButTraffic s (s.sendGenerated i frame l).1 := by
  refine SameButTraffic.trans (t := s.modifySlot i fun f => { f with chars := frame }) rfl ?_
  exact (State.offerAll_traffic ..).trans (State.letGo_traffic ..)

/-! ## Withdrawal and flush -/

theorem State.withdrawAt_traffic (i : SlotId) (p : Port) : SameButTraffic s (s.withdrawAt i p) := by
  unfold State.withdrawAt
  exact SameButTraffic.trans (t := s.modifyTransmitter p _) rfl (.foldl (fun s e => State.depart_traffic s p _ e) _ _)

/-- A withdrawal touches traffic alone. -/
theorem State.withdraw_traffic (i : SlotId) : SameButTraffic s (s.withdraw i) :=
  .foldl (fun s p => State.withdrawAt_traffic s i p) _ _

/-- A flush of a queue touches traffic alone. -/
theorem State.flushQueue_traffic (p : Port) : SameButTraffic s (s.flushQueue p) := by
  unfold State.flushQueue
  exact SameButTraffic.trans (t := s.modifyTransmitter p _) rfl (.foldl (fun s e => State.depart_traffic s p _ e) _ _)

/-- The withdrawal of a slot at a port leaves the queue's entries in transmission and those of other slots. -/
theorem State.port_withdrawAt_same (i : SlotId) (p : Port) :
    (s.withdrawAt i p).port p =
      { s.port p with
        transmitter :=
          restTransmitter { (s.port p).transmitter with
            queue := (s.port p).transmitter.inTransmission ++ (s.port p).transmitter.waiting.filter (·.slot != i) } } := by
  unfold State.withdrawAt
  simp only [State.port_congr (State.depart_foldl_ports ..), State.port_modifyTransmitter_same]

theorem State.port_withdrawAt_other {p q : Port} (i : SlotId) (h : q ≠ p) : (s.withdrawAt i p).port q = s.port q := by
  unfold State.withdrawAt
  simp only [State.port_congr (State.depart_foldl_ports ..)]
  simp [h]

/-- A flushed queue is empty; nothing else of its port changes. -/
theorem State.port_flushQueue_same (p : Port) :
    (s.flushQueue p).port p = { s.port p with transmitter := { (s.port p).transmitter with queue := [] } } := by
  unfold State.flushQueue
  simp only [State.port_congr (State.depart_foldl_ports ..), State.port_modifyTransmitter_same]

theorem State.port_flushQueue_other {p q : Port} (h : q ≠ p) : (s.flushQueue p).port q = s.port q := by
  unfold State.flushQueue
  simp only [State.port_congr (State.depart_foldl_ports ..)]
  simp [h]

/-- The release of several references on one slot at a time leaves every other slot. -/
theorem State.slot_depart_foldl_other (p : Port) (m : Manner) {i j : SlotId} (h : j ≠ i) (l : List QueueEntry)
    (hl : ∀ e ∈ l, e.slot = i) : (l.foldl (fun s e => State.depart s p m e) s).slot j = s.slot j := by
  induction l generalizing s with
  | nil => rfl
  | cons e l ih =>
    have he : j ≠ e.slot := (hl e (by simp)).symm ▸ h
    simp only [List.foldl_cons]
    rw [ih _ fun x hx => hl x (List.mem_cons_of_mem _ hx)]
    simp [he]

/-- A withdrawal of slot `i` changes no other slot. -/
theorem State.slot_withdraw_other {i j : SlotId} (h : j ≠ i) : (s.withdraw i).slot j = s.slot j := by
  have one : ∀ (s : State) (p : Port), (s.withdrawAt i p).slot j = s.slot j := fun s p => by
    unfold State.withdrawAt
    rw [State.slot_depart_foldl_other _ p _ h]
    · rfl
    · intro e he; simpa using (List.mem_filter.mp he).2
  simp only [State.withdraw, allPorts, List.foldl_cons, List.foldl_nil, one]

/-- What a withdrawal of slot `i` leaves at every port. -/
theorem State.port_withdraw (i : SlotId) (p : Port) :
    (s.withdraw i).port p =
      { s.port p with
        transmitter :=
          restTransmitter { (s.port p).transmitter with
            queue := (s.port p).transmitter.inTransmission ++ (s.port p).transmitter.waiting.filter (·.slot != i) } } := by
  have fold : ∀ (l : List Port) (s : State), l.Nodup →
      (l.foldl (fun s q => s.withdrawAt i q) s).port p =
        if p ∈ l then
          { s.port p with
            transmitter :=
              restTransmitter { (s.port p).transmitter with
                queue := (s.port p).transmitter.inTransmission ++
                  (s.port p).transmitter.waiting.filter (·.slot != i) } }
        else s.port p := by
    intro l
    induction l with
    | nil => intros; rfl
    | cons q l ih =>
      intro s hn
      obtain ⟨hq, hn⟩ := List.nodup_cons.mp hn
      rw [List.foldl_cons, ih _ hn]
      by_cases e : p = q
      · subst e
        simp [hq, State.port_withdrawAt_same]
      · simp [e, State.port_withdrawAt_other s i e]
  rw [State.withdraw, fold _ s (by decide), if_pos (mem_allPorts p)]

/-- The departure of fewer entries of a slot than references stand on it lowers its count by their number. -/
theorem State.slot_depart_foldl_same (p : Port) (m : Manner) {i : SlotId} (l : List QueueEntry)
    (hl : ∀ e ∈ l, e.slot = i) (hr : l.length < (s.slot i).refs) :
    (l.foldl (fun s e => State.depart s p m e) s).slot i = { s.slot i with refs := (s.slot i).refs - l.length } := by
  induction l generalizing s with
  | nil => rfl
  | cons e l ih =>
    have he : e.slot = i := hl e (by simp)
    have hlen : l.length + 1 < (s.slot i).refs := hr
    have hs : (s.depart p m e).slot i = { s.slot i with refs := (s.slot i).refs - 1 } := by
      rw [State.slot_depart, he, State.slot_releaseRef_same, if_neg (by omega)]
    rw [List.foldl_cons, ih _ (fun x hx => hl x (List.mem_cons_of_mem _ hx)) (by rw [hs]; simp only; omega), hs]
    simp only [List.length_cons, Slot.mk.injEq, true_and, and_true]
    omega

/-- A withdrawal announces nothing: the tracker closes nothing at a WITHDRAWN entry, and no generated frame ends with
one. -/
theorem State.depart_withdrawn (p : Port) (e : QueueEntry) : s.depart p .withdrawn e = s.releaseRef e.slot := by
  unfold State.depart State.announce
  cases e.origin <;> simp [Manner.concernsTracker, Manner.endsGenerated]

/-- A withdrawal changes ports and slots alone. -/
theorem State.withdraw_only (i : SlotId) :
    s.withdraw i = { s with ports := (s.withdraw i).ports, slots := (s.withdraw i).slots } := by
  have gone : ∀ (p : Port) (l : List QueueEntry) (s : State),
      l.foldl (fun s e => State.depart s p .withdrawn e) s =
        { s with slots := (l.foldl (fun s e => State.depart s p .withdrawn e) s).slots } := by
    intro p l
    induction l with
    | nil => intro s; rfl
    | cons e l ih =>
      intro s
      rw [List.foldl_cons, ih, State.depart_withdrawn, State.releaseRef_only]
  have one : ∀ (s : State) (p : Port),
      s.withdrawAt i p = { s with ports := (s.withdrawAt i p).ports, slots := (s.withdrawAt i p).slots } := by
    intro s p
    unfold State.withdrawAt
    rw [gone]; rfl
  have all : ∀ (l : List Port) (s : State),
      l.foldl (fun s p => s.withdrawAt i p) s =
        { s with
          ports := (l.foldl (fun s p => s.withdrawAt i p) s).ports
          slots := (l.foldl (fun s p => s.withdrawAt i p) s).slots } := by
    intro l
    induction l with
    | nil => intro s; rfl
    | cons p l ih =>
      intro s
      rw [List.foldl_cons, ih, one]
  exact all allPorts s

/-- A withdrawal of fewer waiting entries than references stand on the slot lowers its count by their number. -/
theorem State.slot_withdraw_same {i : SlotId}
    (h : (allPorts.map fun p => (s.port p).transmitter.waiting.countP (·.slot == i)).sum < (s.slot i).refs) :
    (s.withdraw i).slot i = { s.slot i with
      refs := (s.slot i).refs - (allPorts.map fun p => (s.port p).transmitter.waiting.countP (·.slot == i)).sum } := by
  have one : ∀ (s : State) (p : Port), (s.port p).transmitter.waiting.countP (·.slot == i) < (s.slot i).refs →
      (s.withdrawAt i p).slot i =
        { s.slot i with refs := (s.slot i).refs - (s.port p).transmitter.waiting.countP (·.slot == i) } := by
    intro s p hr
    rw [List.countP_eq_length_filter] at hr ⊢
    unfold State.withdrawAt
    refine State.slot_depart_foldl_same (s.modifyTransmitter p _) p .withdrawn _ (fun e he => ?_) hr
    simpa using (List.mem_filter.mp he).2
  have all : ∀ (l : List Port) (s : State), l.Nodup →
      (l.map fun p => (s.port p).transmitter.waiting.countP (·.slot == i)).sum < (s.slot i).refs →
      (l.foldl (fun s p => s.withdrawAt i p) s).slot i = { s.slot i with
        refs := (s.slot i).refs - (l.map fun p => (s.port p).transmitter.waiting.countP (·.slot == i)).sum } := by
    intro l
    induction l with
    | nil => intro s _ _; rfl
    | cons p l ih =>
      intro s hn hr
      obtain ⟨hp, hn⟩ := List.nodup_cons.mp hn
      have hsum : (l.map fun q => ((s.withdrawAt i p).port q).transmitter.waiting.countP (·.slot == i)) =
          l.map fun q => (s.port q).transmitter.waiting.countP (·.slot == i) :=
        List.map_congr_left fun q hq => by
          have e : q ≠ p := fun e => by subst e; exact hp hq
          rw [State.port_withdrawAt_other s i e]
      rw [List.map_cons, List.sum_cons] at hr ⊢
      have h1 := one s p (by omega)
      rw [List.foldl_cons, ih _ hn (by rw [hsum, h1]; simp only; omega), hsum, h1]
      simp only [Slot.mk.injEq, true_and, and_true]
      omega
  exact all allPorts s (by decide) h

/-! ## Parts of a queue -/

/-- A queue is its entries in transmission and those that wait. -/
theorem Transmitter.inTransmission_append_waiting (t : Transmitter) : t.inTransmission ++ t.waiting = t.queue := by
  unfold Transmitter.inTransmission Transmitter.waiting
  split
  · exact List.take_append_drop 1 t.queue
  · simp

/-- Replacing the waiting entries leaves the ones in transmission. -/
theorem Transmitter.parts_of_waiting (t : Transmitter) (w : List QueueEntry) (h : t.queue ≠ []) :
    Transmitter.inTransmission { t with queue := t.inTransmission ++ w } = t.inTransmission ∧
      Transmitter.waiting { t with queue := t.inTransmission ++ w } = w := by
  unfold Transmitter.inTransmission Transmitter.waiting Transmitter.headInTransmission
  cases hq : t.queue with
  | nil => exact absurd hq h
  | cons x l => cases t.state <;> simp

/-- The youngest ORDINARY entry is the last one. -/
theorem takeYoungestOrdinary_none {l : List QueueEntry} (h : ∀ x ∈ l, x.band = .priority) :
    takeYoungestOrdinary l = none := by
  induction l with
  | nil => rfl
  | cons x l ih => simp [takeYoungestOrdinary, ih fun y hy => h y (List.mem_cons_of_mem _ hy), h x (by simp)]

theorem takeYoungestOrdinary_some (before behind : List QueueEntry) {d : QueueEntry} (hd : d.band = .ordinary)
    (h : ∀ x ∈ behind, x.band = .priority) :
    takeYoungestOrdinary (before ++ d :: behind) = some (d, before ++ behind) := by
  induction before with
  | nil => simp [takeYoungestOrdinary, takeYoungestOrdinary_none h, hd]
  | cons x l ih => simp [takeYoungestOrdinary, ih]

/-- A PRIORITY entry's place keeps every entry. -/
theorem behindPriority_perm (e : QueueEntry) (q : List QueueEntry) : (behindPriority e q).Perm (e :: q) := by
  unfold behindPriority
  refine List.perm_middle.trans ?_
  rw [List.takeWhile_append_dropWhile]

end Sys2Proof.Machine
end

