-- ==== Sys2Proof/Laws/Exchange.lean ====
section
/-! SUPPORT. What the closing of an exchange can do (R114), and the taking of an announcement (R115). -/

namespace Sys2Proof.Machine

variable (s : State)

/-- Everything a closure does between the record's removal and the report touches traffic alone. -/
theorem State.closure_traffic (x : Exchange) (c : Closure) :
    SameButTraffic (s.dropRecord x)
      (((((s.dropRecord x).modifyWords (c.words x)).withdraw x.slot).releaseRef x.slot).count c.count) :=
  (State.modifyWords_traffic ..).trans <|
    (State.withdraw_traffic ..).trans <| (State.releaseRef_traffic ..).trans (State.count_traffic ..)

/-- A closure is its traffic with the report asked for, if any. -/
theorem State.closeExchange_eq (x : Exchange) (c : Closure) :
    ∃ t, SameButTraffic (s.dropRecord x) t ∧ (∀ j ≠ x.slot, t.slot j = s.slot j) ∧
      s.closeExchange x c =
        { t with reports := t.reports ++ (c.report.map fun r => ReportRequest.mk r x.key x.requesterPort).toList } := by
  refine ⟨_, State.closure_traffic s x c, fun j h => ?_, ?_⟩
  · rw [State.slot_congr (State.count_fields ..).2.2.2.1, State.slot_releaseRef_other _ h, State.slot_withdraw_other _ h]
    exact State.slot_congr (by simp) j
  · unfold State.closeExchange
    generalize ((((s.dropRecord x).modifyWords (c.words x)).withdraw x.slot).releaseRef x.slot).count c.count = t
    cases c.report <;> simp [State.askReport]

/-- A closure changes the table, the reports asked for and traffic; nothing else. -/
theorem State.closeExchange_only (x : Exchange) (c : Closure) :
    s.closeExchange x c = { s with
      exchanges := (s.closeExchange x c).exchanges, reports := (s.closeExchange x c).reports
      ports := (s.closeExchange x c).ports, slots := (s.closeExchange x c).slots
      words := (s.closeExchange x c).words, counters := (s.closeExchange x c).counters } := by
  obtain ⟨t, h, _, e⟩ := s.closeExchange_eq x c
  rw [e, h]; rfl

/-- The record leaves the table, and the records behind it move up. -/
@[simp] theorem State.closeExchange_exchanges (x : Exchange) (c : Closure) :
    (s.closeExchange x c).exchanges = s.exchanges.eraseP (·.key == x.key) := by
  obtain ⟨t, h, _, e⟩ := s.closeExchange_eq x c
  rw [e, h]; rfl

/-- The report that a closure asks for joins the Report Generator's pending list. -/
theorem State.closeExchange_reports (x : Exchange) (c : Closure) :
    (s.closeExchange x c).reports =
      s.reports ++ (c.report.map fun r => ReportRequest.mk r x.key x.requesterPort).toList := by
  obtain ⟨t, h, _, e⟩ := s.closeExchange_eq x c
  rw [e, h]; rfl

/-- A closure changes no slot but the exchange's own. -/
theorem State.slot_closeExchange_other (x : Exchange) (c : Closure) {j : SlotId} (h : j ≠ x.slot) :
    (s.closeExchange x c).slot j = s.slot j := by
  obtain ⟨t, _, ht, e⟩ := s.closeExchange_eq x c
  rw [e]; exact ht j h

/-- Everything a taken announcement is: the oldest one for its slot, of the manner asked for, with the record that names
the slot, and gone from the words. -/
theorem State.takeTrackerWord_some {i : SlotId} {m : Manner} {x : Exchange} {age : Nat} {t : State}
    (h : s.takeTrackerWord i m = some (x, age, t)) :
    ∃ d, s.words.tracker.find? (·.slot == i) = some d ∧ d.manner = m ∧ d.age = age ∧ s.exchangeOn i = some x ∧
      t = s.modifyWords fun w => { w with tracker := w.tracker.erase d } := by
  unfold State.takeTrackerWord at h
  split at h
  · next d hd =>
    split at h
    · next hm =>
      obtain ⟨y, hy, e⟩ := Option.map_eq_some_iff.mp h
      cases e
      exact ⟨d, hd, hm, rfl, hy, rfl⟩
    · cases h
  · cases h

/-- The change of one record leaves the state as it was but for the table. -/
theorem State.modifyExchange_only (k : ExchangeKey) (f : Exchange → Exchange) :
    s.modifyExchange k f = { s with exchanges := (s.modifyExchange k f).exchanges } := rfl

end Sys2Proof.Machine
end

