-- ==== Sys2Proof/Laws/Closures.lean ====
section
/-! SUPPORT. Every closure of an exchange is a closure as the statements speak of it (`Closed`, R114). -/

namespace Sys2Proof.Statements

open Sys2Proof.Machine Sys2Proof.Safety

variable (s : State) (x : Exchange) (c : Closure)

/-- A closure as its withdrawal, the release of its own reference, its counter and its report. -/
theorem closeExchange_parts : ∃ t, t = ((s.dropRecord x).modifyWords (c.words x)).withdraw x.slot ∧
    s.closeExchange x c = { (t.releaseRef x.slot).count c.count with
      reports := s.reports ++ (c.report.map fun r => ReportRequest.mk r x.key x.requesterPort).toList } := by
  refine ⟨_, rfl, ?_⟩
  unfold State.closeExchange
  generalize ht : ((s.dropRecord x).modifyWords (c.words x)).withdraw x.slot = t
  have hr : ((t.releaseRef x.slot).count c.count).reports = s.reports := by
    rw [← ht, State.withdraw_only]; simp
  cases c.report with
  | none => simp only [Option.map_none, Option.toList_none, List.append_nil]; rw [← hr]
  | some r => simpa [State.askReport] using hr

/-- A transmitter whose queue may have become empty changes its state at most. -/
theorem restTransmitter_only (t : Transmitter) :
    restTransmitter t = { t with state := (restTransmitter t).state } := by
  unfold restTransmitter
  split <;> rfl

/-- The entries that name a slot, when none of them is in transmission, all wait. -/
theorem entriesNaming_waiting {i : SlotId}
    (h : ∀ p : Port, ∀ e ∈ (s.port p).transmitter.inTransmission, e.slot ≠ i) :
    entriesNaming s i = (allPorts.map fun p => (s.port p).transmitter.waiting.countP (·.slot == i)).sum := by
  unfold entriesNaming
  congr 1
  refine List.map_congr_left fun p _ => ?_
  unfold State.entriesAt
  rw [← (s.port p).transmitter.inTransmission_append_waiting, List.countP_append]
  have : (s.port p).transmitter.inTransmission.countP (·.slot == i) = 0 :=
    List.countP_eq_zero.mpr fun e he => by simpa using h p e he
  rw [this, Nat.zero_add]

/-- Every closure closes its exchange. -/
theorem closed_closeExchange :
    Closed s (s.closeExchange x c) x c.report (c.count s.counters)
      (if c = .noAnswer .timeout then s.words.timeouts ++ [x.key.responder] else s.words.timeouts) := by
  obtain ⟨t, ht, hcl⟩ := closeExchange_parts s x c
  have hto : t = { (s.dropRecord x).modifyWords (c.words x) with ports := t.ports, slots := t.slots } := by
    rw [ht]; exact State.withdraw_only ..
  have hports : ∀ p, (s.closeExchange x c).port p = t.port p := fun p => by
    rw [hcl]; exact State.port_congr (by simp) p
  have hport : ∀ p, (s.closeExchange x c).port p = { s.port p with
      transmitter := (restTransmitter { (s.port p).transmitter with
        queue := (s.port p).transmitter.inTransmission ++
          (s.port p).transmitter.waiting.filter (·.slot != x.slot) }) } := fun p => by
    rw [hports, ht, State.port_withdraw]; rfl
  have hwords : (s.closeExchange x c).words = c.words x s.words := by
    rw [hcl, hto]; simp
  refine ⟨?_, ?_, ?_, ?_, fun j hj => State.slot_closeExchange_other _ _ _ hj, fun p => ?_, fun p => ?_, ?_⟩
  · have hc : (s.closeExchange x c).counters = c.count s.counters := by rw [hcl, hto]; simp
    rw [s.closeExchange_only x c]
    simp [hc, State.closeExchange_reports]
  · rw [hwords]; rfl
  · rw [hwords]; rfl
  · rw [hwords]; rfl
  · rw [hport, restTransmitter_only]
  · rw [hport, restTransmitter_only]
  · intro htr hrefs hheld
    have hbase : ((s.dropRecord x).modifyWords (c.words x)).slot x.slot = s.slot x.slot := rfl
    have hn := entriesNaming_waiting s htr
    have hw := State.slot_withdraw_same ((s.dropRecord x).modifyWords (c.words x)) (i := x.slot)
      (show _ < (s.slot x.slot).refs by rw [hrefs, hn]; exact Nat.lt_succ_self _)
    have hr : (t.slot x.slot).refs = 1 := by
      rw [ht, hw]
      show (s.slot x.slot).refs - _ = 1
      rw [hrefs, hn]
      exact Nat.add_sub_cancel_left ..
    have hh : t.heldOutside x.slot = false := by
      rw [← hheld, Bool.eq_iff_iff, State.heldOutside_iff, State.heldOutside_iff]
      have hcur : ∀ p, (t.port p).receiver = (s.port p).receiver := fun p => by rw [← hports, hport]
      have hin : t.relay = s.relay := by rw [hto]; rfl
      have hq : t.management = s.management := by rw [hto]; rfl
      simp only [hcur, hin, hq]
    have hs : (s.closeExchange x c).slot x.slot = (t.releaseRef x.slot).slot x.slot := by
      rw [hcl]; exact State.slot_congr (by simp) _
    rw [hs, State.slot_releaseRef_same]
    exact if_pos ⟨by omega, by rw [hh]; simp⟩

end Sys2Proof.Statements
end

