-- ==== Sys2Proof/Laws/Request.lean ====
section
/-! SUPPORT. What the execution of a management request does around its command (R149 to R151): the reply built and
admitted, the request finished. -/

namespace Sys2Proof.Machine

variable (s : State)

/-- In service an event of the relay's own units is taken. -/
theorem State.whenInService_inService {s : State} (f : State → State) (h : s.phase = .inService) :
    s.whenInService f = .next (f s) := by
  simp [State.whenInService, h]

/-- Outside service it changes nothing. -/
theorem State.whenInService_outside {s : State} (f : State → State) (h : s.phase ≠ .inService) :
    s.whenInService f = .next s := by
  simp [State.whenInService, h]

/-- The head request that the row's code selects runs in a claimed reply slot. -/
theorem runRequest_claimed (selects : List Byte → Bool) (command : Command) {h : HeldFrame} {rest : List HeldFrame}
    {i : SlotId} (hq : s.management.queue = h :: rest) (hs : selects (s.slot h.slot).payload = true)
    (hf : s.lowestFree = some i) :
    runRequest selects command s = (s.modifySlot i fun _ => ⟨[], 0, .inUse⟩).executeRequest h i command := by
  simp [runRequest, hq, hs, s.claimForGenerator_some hf]

/-- With no FREE slot the head waits. -/
theorem runRequest_waits (selects : List Byte → Bool) (command : Command) (hf : s.lowestFree = none) :
    runRequest selects command s = s := by
  unfold runRequest
  split
  · rfl
  · simp [s.claimForGenerator_none hf]

/-- A request that the row's code does not select waits for its own row. -/
theorem runRequest_unselected (selects : List Byte → Bool) (command : Command) {h : HeldFrame} {rest : List HeldFrame}
    (hq : s.management.queue = h :: rest) (hs : selects (s.slot h.slot).payload = false) :
    runRequest selects command s = s := by
  simp [runRequest, hq, hs]

/-- A reply offered to a port with room stands in its slot with one reference and joins the port's queue. -/
theorem State.sendReply_room {i : SlotId} {p : Port} (request : Slot) (payload : List Byte)
    (hd : (s.admin p).isDown = false) (hr : (s.port p).transmitter.queue.length < 16) :
    s.sendReply i request p payload =
      (((s.modifySlot i fun f =>
        { f with
          chars :=
            frameCharacters request.source s.management.ownAddress (controlOf .reply 0 request.tag) payload }).joinQueue p
        ⟨.priority, 0, .generated, i⟩), true) := by
  have ha := State.offer_room
    (s.modifySlot i fun f => { f with
      chars := frameCharacters request.source s.management.ownAddress (controlOf .reply 0 request.tag) payload })
    (p := p) ⟨.priority, 0, .generated, i⟩ hd hr
  simp only [State.sendReply, State.sendGenerated, State.offerAll, ha]
  refine Prod.ext ?_ (by simp)
  refine State.letGo_of_refs _ ?_
  have hs := State.slot_joinQueue_same
    (s.modifySlot i fun f => { f with
      chars := frameCharacters request.source s.management.ownAddress (controlOf .reply 0 request.tag) payload })
    p ⟨.priority, 0, .generated, i⟩
  simp only at hs
  rw [hs]; simp

/-- Changing a slot twice leaves the second change. -/
theorem State.modifySlot_modifySlot (i : SlotId) (f g : Slot → Slot) :
    (s.modifySlot i f).modifySlot i g = s.modifySlot i fun x => g (f x) := by
  simp [State.modifySlot]

/-- A request whose command comes to the state `b` (with the reply slot claimed in it), a result and data, on a port
with room after it: the reply is admitted, the request finished, and what waits on the reply recorded or taken. -/
theorem runRequest_replied {s b : State} {h : HeldFrame} {rest : List HeldFrame} {i : SlotId} {code : Byte}
    {args : List Byte} (command : Command) {r : Result} {data : List Byte} {w : Waiting}
    (hq : s.management.queue = h :: rest) (hf : s.lowestFree = some i) (hi : h.slot ≠ i)
    (hp : (s.slot h.slot).payload = code :: args) (ha : s.accepts (s.slot h.slot).source = true)
    (hc : command h.ingress args (s.modifySlot i fun _ => ⟨[], 0, .inUse⟩) =
      ⟨b.modifySlot i fun _ => ⟨[], 0, .inUse⟩, r, data, w⟩)
    (hd : (b.admin h.ingress).isDown = false) (hr : (b.port h.ingress).transmitter.queue.length < 16) :
    runRequest (namesCode code) command s =
      ((((b.modifySlot i fun _ =>
        ⟨frameCharacters (s.slot h.slot).source b.management.ownAddress (controlOf .reply 0 (s.slot h.slot).tag)
          (replyPayload code r data), 0, .inUse⟩).joinQueue h.ingress ⟨.priority, 0, .generated, i⟩).finishRequest
        h).settle w i true) := by
  rw [runRequest_claimed s (namesCode code) command hq (by simp [namesCode, hp]) hf]
  have ha' : (s.modifySlot i fun _ => ⟨[], 0, .inUse⟩).accepts (s.slot h.slot).source = true := ha
  simp only [State.executeRequest, State.slot_modifySlot_other _ _ hi, State.perform, ha', if_true, hp, List.drop_one,
    List.tail_cons, hc, Slot.code, List.headD_cons]
  rw [State.sendReply_room (b.modifySlot i fun _ => ⟨[], 0, .inUse⟩) _ _ hd hr]
  simp only [State.modifySlot_modifySlot]
  rfl

end Sys2Proof.Machine
end

