-- ==== Sys2Proof/Laws/Decision.lean ====
section
/-! SUPPORT. The steps of a relay decision as the statements speak of them (`Deciding`, `Continues`, `Dropped`): what the
map update touches, how a decision unfolds, and how a frame dropped frees its slot. -/

namespace Sys2Proof.Statements

open Sys2Proof.Machine

variable {s u z : State} {h : HeldFrame} {rest : List HeldFrame}

/-- `s` with the frame taken out of its input list. -/
def withInput (s : State) (rest : List HeldFrame) : State := { s with relay := { s.relay with input := rest } }

/-- A map update reads nothing of the input list. -/
theorem updateMap_withInput (s : State) (rest : List HeldFrame) (a : Byte) (p : Port) :
    (withInput s rest).updateMap a p = (withInput (s.updateMap a p).1 rest, (s.updateMap a p).2) := by
  unfold State.updateMap
  have h1 : (withInput s rest).lookup a = s.lookup a := rfl
  have h2 : (withInput s rest).admin p = s.admin p := rfl
  have h3 : (withInput s rest).port p = s.port p := rfl
  have h4 : (withInput s rest).mapHasRoom = s.mapHasRoom := rfl
  rw [h1, h2]
  cases s.lookup a with
  | none =>
    simp only
    split
    · rfl
    · unfold State.learnNew
      rw [h3, h4]
      split
      · split <;> rfl
      · rfl
  | some e =>
    simp only
    split
    · rfl
    · split
      · rfl
      · split
        · rfl
        · unfold State.moveStation
          rw [h3]
          split <;> rfl

/-- A map update changes the map, the counters and the words alone. -/
theorem updateMap_only (s : State) (a : Byte) (p : Port) :
    (s.updateMap a p).1 = { s with
      map := (s.updateMap a p).1.map, counters := (s.updateMap a p).1.counters
      words := (s.updateMap a p).1.words } := by
  unfold State.updateMap
  split
  · split
    · rfl
    · unfold State.learnNew
      split
      · split <;> rfl
      · rfl
  · split
    · rfl
    · split
      · rfl
      · split
        · rfl
        · unfold State.moveStation
          split <;> rfl

/-- What a decision that continues after the map update still finds as it was. -/
theorem Continues.same (c : Continues s u h) :
    u.slots = s.slots ∧ u.ports = s.ports ∧ u.management = s.management ∧ u.relay = s.relay ∧
    u.exchanges = s.exchanges ∧ u.reports = s.reports ∧ u.phase = s.phase := by
  have e := updateMap_only s (s.slot h.slot).source h.ingress
  rw [c.update] at e
  simp only at e
  rw [e]
  simp

/-- Nothing but the decision holds the frame's slot once it has left the input list. -/
theorem Deciding.released (d : Deciding s h rest) (hp : z.ports = s.ports) (hr : z.relay.input = rest)
    (hm : z.management = s.management) : z.heldOutside h.slot = false := by
  rw [Bool.eq_false_iff]
  intro held
  rcases (State.heldOutside_iff z _).mp held with ⟨p, hc⟩ | ⟨x, hx, e⟩ | ⟨x, hx, e⟩
  · have : s.receiverHolds h.slot = true := by
      rw [State.port_congr hp] at hc
      simp only [State.receiverHolds, List.any_eq_true, beq_iff_eq]
      exact ⟨p, mem_allPorts p, hc⟩
    rw [d.noReceiver] at this
    cases this
  · exact d.once x (hr ▸ hx) e
  · exact d.notQueued x (hm ▸ hx) e

/-- A decision that ends with counters and words alone changed drops its frame. -/
theorem Deciding.dropped {k : RelayCounters} (d : Deciding s h rest) (hs : u.slots = s.slots)
    (hp : u.ports = s.ports) (hm : u.management = s.management)
    (hz : z = { u with relay := { u.relay with input := rest }, counters := k }) :
    Dropped u (z.letGo h.slot) h rest k := by
  have hheld : z.heldOutside h.slot = false := d.released (by rw [hz]; exact hp) (by rw [hz]) (by rw [hz]; exact hm)
  have hslot : ∀ j, z.slot j = u.slot j := fun j => by rw [hz]; rfl
  have hrefs : (z.slot h.slot).refs = 0 := by rw [hslot, State.slot_congr hs]; exact d.refs
  refine ⟨?_, ?_, fun j hj => ?_⟩
  · rw [State.letGo_only, hz]
  · rw [State.slot_letGo_same]
    exact if_pos ⟨hrefs, by rw [hheld]; simp⟩
  · rw [State.slot_letGo_other _ hj, hslot]

/-- A decision in service runs the steps on the frame taken and lets its slot go. -/
theorem Deciding.exec_eq (d : Deciding s h rest) :
    exec .relayDecision s = .next (((withInput s rest).judgeFrame h (s.slot h.slot)).letGo h.slot) := by
  simp only [exec, execRelayDecision, State.whenInService_inService _ d.inService, takeDecision, d.input]
  rfl

/-- A frame whose source passes goes on to the destination check with the map updated. -/
theorem Continues.judgeFrame_eq (c : Continues s u h) :
    (withInput s rest).judgeFrame h (s.slot h.slot) = (withInput u rest).judgeDestination h (s.slot h.slot) := by
  have hsrc : ¬ ((s.slot h.slot).source = 0x00 ∨ (s.slot h.slot).source = 0xFF) := by
    have hs := c.source
    rintro (e | e) <;> rw [e] at hs <;> simp [isStationAddress] at hs
  unfold State.judgeFrame
  rw [if_neg hsrc, if_neg (show ¬ (s.slot h.slot).source = (withInput s rest).management.ownAddress from c.notOwn),
    updateMap_withInput, c.update]

end Sys2Proof.Statements
end

