-- ==== Sys2Proof/Laws/Image.lean ====
section
/-! SUPPORT. What the bits of the serial memory read as, the level of its chip select, and what the passes change. -/

namespace Sys2Proof.Machine

/-! ## Bytes, most significant bit first (R167) -/

/-- Eight bits put together into a byte are its bits from the most significant one on. -/
theorem eightBits : ∀ b0 b1 b2 b3 b4 b5 b6 b7 : Bool,
    let v : Byte := byteOf ([b0, b1, b2, b3, b4, b5, b6, b7].foldl (fun value k => 2 * value + k.toNat) 0)
    v.getMsbD 0 = b0 ∧ v.getMsbD 1 = b1 ∧ v.getMsbD 2 = b2 ∧ v.getMsbD 3 = b3 ∧ v.getMsbD 4 = b4 ∧
      v.getMsbD 5 = b5 ∧ v.getMsbD 6 = b6 ∧ v.getMsbD 7 = b7 := by decide

/-- Bit `k` of a byte put together from eight bits. -/
theorem byteOf_bits (bit : Nat → Bool) (k : Nat) (h : k < 8) :
    (byteOf ((List.range 8).foldl (fun value k => 2 * value + (bit k).toNat) 0)).getMsbD k = bit k := by
  have e := eightBits (bit 0) (bit 1) (bit 2) (bit 3) (bit 4) (bit 5) (bit 6) (bit 7)
  obtain ⟨e0, e1, e2, e3, e4, e5, e6, e7⟩ := e
  match k, h with
  | 0, _ => exact e0
  | 1, _ => exact e1
  | 2, _ => exact e2
  | 3, _ => exact e3
  | 4, _ => exact e4
  | 5, _ => exact e5
  | 6, _ => exact e6
  | 7, _ => exact e7

/-- Bit `k` of the byte at offset `n` is the level of SDI at that bit, its pull where the memory does not answer. -/
theorem memoryByte_getMsbD (m : SerialMemory) (n k : Nat) (h : k < 8) :
    (memoryByte m n).getMsbD k = m.bits.getD (8 * n + k) m.pullUp := by
  unfold memoryByte
  refine (byteOf_bits (fun k => (m.bits.drop (8 * n)).getD k m.pullUp) k h).trans ?_
  simp [List.getD_eq_getElem?_getD, List.getElem?_drop]

@[simp] theorem byteBits_length (b : Byte) : (byteBits b).length = 8 := by simp [byteBits]

/-- Bytes laid out as bits, read at bit `k` of byte `n`. -/
theorem getD_flatMap_byteBits (bytes : List Byte) (up : Bool) (n k : Nat) (h : k < 8) :
    (bytes.flatMap byteBits).getD (8 * n + k) up = (bytes.getD n (if up then 0xFF else 0)).getMsbD k := by
  induction bytes generalizing n with
  | nil =>
    have : ∀ up : Bool, ∀ k : Fin 8, up = (if up then (0xFF : Byte) else 0).getMsbD k := by decide
    simpa using this up ⟨k, h⟩
  | cons b rest ih =>
    rw [List.flatMap_cons]
    cases n with
    | zero =>
      rw [List.getD_append _ _ _ _ (by simp [byteBits_length]; omega)]
      simp [byteBits, List.getD_eq_getElem?_getD, h]
    | succ n =>
      rw [List.getD_append_right _ _ _ _ (by simp [byteBits_length]; omega)]
      rw [byteBits_length, show 8 * (n + 1) + k - 8 = 8 * n + k by omega, ih]
      simp

/-- A memory that answers bytes is read as those bytes. -/
theorem memoryByte_of_bytes (bytes : List Byte) (up : Bool) (n : Nat) :
    memoryByte ⟨bytes.flatMap byteBits, up⟩ n = bytes.getD n (if up then 0xFF else 0) := by
  apply BitVec.eq_of_getMsbD_eq
  intro k h
  rw [memoryByte_getMsbD _ _ _ h, getD_flatMap_byteBits _ _ _ _ h]

/-! ## Chip select (R167, R172) -/

/-- The level of chip select is the last it was driven to. -/
@[simp] theorem Pins.scsHigh_append (x : Pins) (l : List Bool) (b : Bool) :
    ({ x with scs := l ++ [b] } : Pins).scsHigh = b := by
  simp [Pins.scsHigh]

/-! ## The passes of the loader (R167) -/

variable (s : State)

@[simp] theorem State.beginPass_fields (pass : LoadState) :
    (s.beginPass pass).phase = s.phase ∧
    (s.beginPass pass).pins = { s.pins with scs := s.pins.scs ++ [false], sclkRuns := true, sdo := passCommand } ∧
    (s.beginPass pass).timeBase = s.timeBase ∧ (s.beginPass pass).slots = s.slots ∧ (s.beginPass pass).ports = s.ports ∧
    (s.beginPass pass).relay = s.relay ∧ (s.beginPass pass).map = s.map ∧ (s.beginPass pass).exchanges = s.exchanges ∧
    (s.beginPass pass).timeoutTable = s.timeoutTable ∧ (s.beginPass pass).reports = s.reports ∧
    (s.beginPass pass).management = s.management ∧ (s.beginPass pass).notices = s.notices ∧
    (s.beginPass pass).loader =
      { s.loader with position := 0, recordsRead := 0, runningCheck := 0xFFFF, state := pass } ∧
    (s.beginPass pass).counters = s.counters ∧ (s.beginPass pass).words = s.words ∧
    (s.beginPass pass).pending = s.pending :=
  ⟨rfl, rfl, rfl, rfl, rfl, rfl, rfl, rfl, rfl, rfl, rfl, rfl, rfl, rfl, rfl, rfl⟩

@[simp] theorem State.endPass_fields :
    s.endPass.phase = s.phase ∧ s.endPass.pins = { s.pins with scs := s.pins.scs ++ [true], sdo := [] } ∧
    s.endPass.timeBase = s.timeBase ∧ s.endPass.slots = s.slots ∧ s.endPass.ports = s.ports ∧
    s.endPass.relay = s.relay ∧ s.endPass.map = s.map ∧ s.endPass.exchanges = s.exchanges ∧
    s.endPass.timeoutTable = s.timeoutTable ∧ s.endPass.reports = s.reports ∧ s.endPass.management = s.management ∧
    s.endPass.notices = s.notices ∧ s.endPass.loader = s.loader ∧ s.endPass.counters = s.counters ∧
    s.endPass.words = s.words ∧ s.endPass.pending = s.pending :=
  ⟨rfl, rfl, rfl, rfl, rfl, rfl, rfl, rfl, rfl, rfl, rfl, rfl, rfl, rfl, rfl, rfl⟩

end Sys2Proof.Machine
end

