-- ==== Sys2Proof/Laws/Line.lean ====
section
/-! SUPPORT. What the framer's operations, the two line commands and an echo can do, one lemma per case. -/

namespace Sys2Proof.Machine

/-! ## The framer (R2, R3) -/

variable (f : Framer) (high : Bool)

/-- A sample becomes the most recent one. -/
@[simp] theorem Framer.sample_recent : (f.sample high).recent = ⟨f.recent.second, f.recent.third, high⟩ := by
  unfold Framer.sample; dsimp only; split <;> rfl

/-- A sample leaves the judged level, which JUDGED_LINE_LEVEL_CHANGE moves. -/
@[simp] theorem Framer.sample_level : (f.sample high).level = f.level := by
  unfold Framer.sample; dsimp only; split <;> rfl

/-- Whether the framer waits for mark after a sample: not where the line is judged at mark, else where it waited before or
completes a character, whose stop bit is then at space. -/
theorem Framer.sample_waitsForMark : (f.sample high).waitsForMark =
    ((f.waitsForMark || (f.assembling && f.clock == 168)) &&
      judgedLevel ⟨f.recent.second, f.recent.third, high⟩ == .space) := by
  unfold Framer.sample; dsimp only; split <;> simp [Framer.markAwaited, Config.lastSampleOf, Config.samplesPerBit, Config.firstCentreSample]

/-- A framer that waits for a start edge keeps the sample as the most recent one, and may end its wait for mark. -/
theorem Framer.sample_of_waiting (h : f.assembling = false) :
    f.sample high =
      { f with
        recent := ⟨f.recent.second, f.recent.third, high⟩, waitsForMark := (f.sample high).waitsForMark } := by
  simp [Framer.sample, h]

/-- A framer that holds a whole character keeps the sample as the most recent one, and may end its wait for mark. -/
theorem Framer.sample_of_whole (h : 169 ≤ f.clock) :
    f.sample high =
      { f with
        recent := ⟨f.recent.second, f.recent.third, high⟩, waitsForMark := (f.sample high).waitsForMark } := by
  have h' : ¬ f.clock < 169 := Nat.not_lt.mpr h
  simp [Framer.sample, Config.lastSampleOf, Config.samplesPerBit, Config.firstCentreSample, h']

/-- A framer in a character, past its start bit or before that is judged, takes the sample at its place. -/
theorem Framer.sample_of_assembling (h : f.assembling = true) (hc : f.clock < 169) (hs : f.clock ≠ 8) :
    f.sample high =
      { f with
        recent := ⟨f.recent.second, f.recent.third, high⟩
        clock := f.clock + 1
        samples := f.samples.take (f.clock + 1) high
        waitsForMark := (f.sample high).waitsForMark } := by
  simp [Framer.sample, Config.lastSampleOf, Config.samplesPerBit, Config.firstCentreSample, h, hc, hs]

/-- At sample 9 after the start edge the start bit is judged: with its majority at mark the framer waits again. -/
theorem Framer.sample_judges_start (h : f.assembling = true) (hc : f.clock = 8) :
    f.sample high =
      { f with
        recent := ⟨f.recent.second, f.recent.third, high⟩
        clock := 9
        samples := f.samples.take 9 high
        assembling := !(sampledBits (f.samples.take 9 high)).getLsbD 0
        waitsForMark := (f.sample high).waitsForMark } := by
  simp [Framer.sample, Config.lastSampleOf, Config.samplesPerBit, Config.firstCentreSample, h, hc]

/-- A start edge leaves the judged level, the recent samples and a wait for mark. -/
@[simp] theorem Framer.startEdge_keeps : f.startEdge.level = f.level ∧ f.startEdge.recent = f.recent ∧
    f.startEdge.waitsForMark = f.waitsForMark := by
  unfold Framer.startEdge; split <;> simp

/-- A framer that waits for mark takes no start edge. -/
theorem Framer.startEdge_of_waitsForMark (h : f.waitsForMark = true) : f.startEdge = f := by
  simp [Framer.startEdge, h]

/-- A framer that waits for a start edge begins a character at one. -/
theorem Framer.startEdge_of_waiting (h : f.assembling = false) (hm : f.waitsForMark = false) :
    f.startEdge = { f with assembling := true, clock := 0, samples := .blank } := by
  simp [Framer.startEdge, h, hm]

/-- Before the centre of the stop bit there is no character to deliver. -/
theorem Framer.complete_of_early (h : f.clock < 169) : f.complete = none := by
  simp [Framer.complete, Config.lastSampleOf, Config.samplesPerBit, Config.firstCentreSample, Nat.not_le.mpr h]

/-- A framer that waits has no character to deliver. -/
theorem Framer.complete_of_waiting (h : f.assembling = false) : f.complete = none := by
  simp [Framer.complete, h]

/-! ## The line commands (R3, R4) -/

variable (s : State) (p : Port)

/-- Nothing brought changes nothing. -/
@[simp] theorem State.lineBrings_nil : s.lineBrings p [] = s := by
  unfold State.lineBrings
  match p with
  | 0 | 1 | 2 | 3 => simp [Four.get, Four.set]

/-- With no character in hand a delivery changes nothing. -/
theorem deliverCharacter_of_none (h : (s.port p).framer.complete = none) : deliverCharacter p s = s := by
  simp [deliverCharacter, h]

/-- A delivery leaves the framer waiting and is then the receiver's. -/
theorem deliverCharacter_of_some {c : Delivered} (h : (s.port p).framer.complete = some c) :
    deliverCharacter p s = (s.modifyFramer p fun f => { f with assembling := false }).receive p c := by
  simp [deliverCharacter, h]

/-- Out of reset the two line commands act after what they bring. -/
theorem exec_line_of_running (h : s.phase ≠ .inReset) (coming : List Bool) :
    exec (.characterDelivered p coming) s = .next (deliverCharacter p (s.lineBrings p coming)) ∧
    exec (.judgedLineLevelChange p coming) s = .next (judgeLevel p (s.lineBrings p coming)) := by
  simp [exec, execCharacterDelivered, execJudgedLineLevelChange, State.whenFramersRun, h]

/-! ## Echoes and characters sent (R63, R64) -/

/-- The echoes of anything but a frame being sent are not judged. -/
theorem State.echoCharacter_of_not_sending (c : Delivered) (h : (s.port p).transmitter.state ≠ .sending) :
    s.echoCharacter p c = s := by
  simp [State.echoCharacter, h]

/-- An echo that comes when an echo deadline has passed is a collision. -/
theorem State.echoCharacter_of_missing (c : Delivered) (h : (s.port p).transmitter.state = .sending)
    (hm : (s.port p).transmitter.echoMissing = true) : s.echoCharacter p c = s.collide p := by
  simp [State.echoCharacter, h, hm]

/-- The end of a character sent when an echo deadline has passed is a collision. -/
theorem finishCharacter_of_missing (h : (s.port p).transmitter.state = .sending)
    (hd : (s.port p).transmitter.driverEnable = true) (hc : s.charTime p ≤ (s.port p).transmitter.charTime)
    (hm : (s.port p).transmitter.echoMissing = true) : finishCharacter p s = s.collide p := by
  simp [finishCharacter, h, hd, hc, hm]

/-- The end of a character sent with no echo missing starts the next one. -/
theorem finishCharacter_of_none_missing {e : QueueEntry} {rest : List QueueEntry}
    (h : (s.port p).transmitter.state = .sending) (hd : (s.port p).transmitter.driverEnable = true)
    (hc : s.charTime p ≤ (s.port p).transmitter.charTime) (hq : (s.port p).transmitter.queue = e :: rest)
    (hm : (s.port p).transmitter.echoMissing = false) :
    finishCharacter p s = s.modifyTransmitter p fun t =>
      ({ t with echoList := setLastDeadline (s.charTime p) t.echoList }).sendNext (s.slot e.slot) := by
  simp [finishCharacter, h, hd, hc, hq, hm]

/-- An echo is missing exactly when a deadline of the echo list has run out. -/
theorem Transmitter.echoMissing_iff (t : Transmitter) : t.echoMissing = true ↔ ∃ e ∈ t.echoList, e.deadline = some 0 := by
  simp [Transmitter.echoMissing]

end Sys2Proof.Machine
end

