-- ==== Sys2Proof/Laws/Notice.lean ====
section
/-! SUPPORT. What the end of a send and an acknowledgment can do to the Notice Unit (R142 to R145). -/

namespace Sys2Proof.Machine

variable (u : NoticeUnit) (f : InFlight)

/-! ## The end of a send -/

/-- The end of a send removes the in-flight record and touches nothing else but the interval timer. -/
@[simp] theorem NoticeUnit.endSend_fields (sequence : Byte) (acknowledged : Bool) :
    (u.endSend sequence acknowledged).inFlight = none ∧ (u.endSend sequence acknowledged).interval = u.interval ∧
    (u.endSend sequence acknowledged).list = u.list ∧ (u.endSend sequence acknowledged).lost = u.lost ∧
    (u.endSend sequence acknowledged).next = u.next ∧ (u.endSend sequence acknowledged).slotWait = u.slotWait ∧
    (u.endSend sequence acknowledged).target = u.target :=
  ⟨rfl, rfl, rfl, rfl, rfl, rfl, rfl⟩

/-- No timer is started for a notice that has been acknowledged meanwhile, whatever stands at the head. -/
@[simp] theorem NoticeUnit.endSend_timer_acknowledged (sequence : Byte) : (u.endSend sequence true).timer = none := by
  simp [NoticeUnit.endSend]

/-- The timer starts for a notice still at the head. -/
theorem NoticeUnit.endSend_timer_atHead {sequence : Byte} (h : u.list.head?.map (·.sequence) = some sequence) :
    (u.endSend sequence false).timer = some (secondCycles u.interval) := by
  simp [NoticeUnit.endSend, h]

/-- With the notice in flight at the head until acknowledged, the mark alone says whether the timer starts. -/
theorem NoticeUnit.endSend_timer {u : NoticeUnit} {f : InFlight} (h : Safety.CarriedAtHead u) (hf : u.inFlight = some f) :
    (u.endSend f.sequence f.acknowledged).timer =
      if f.acknowledged then none else some (secondCycles u.interval) := by
  cases ha : f.acknowledged
  · simpa using u.endSend_timer_atHead (h f hf ha)
  · simp

/-! ## An acknowledgment -/

/-- An acknowledgment changes the mark of the in-flight record and nothing else in it. -/
@[simp] theorem InFlight.afterAck_fields (sequence : Byte) :
    (f.afterAck sequence).slot = f.slot ∧ (f.afterAck sequence).sequence = f.sequence ∧
    (f.afterAck sequence).copies = f.copies ∧
    (f.afterAck sequence).acknowledged = (f.acknowledged || f.sequence == sequence) :=
  ⟨rfl, rfl, rfl, rfl⟩

/-- A test of slot wait changes slot wait alone. -/
theorem State.retestSlotWait_only (s : State) :
    s.retestSlotWait = s.modifyNotices fun u => { u with slotWait := s.retestSlotWait.notices.slotWait } := by
  unfold State.retestSlotWait
  split <;> rfl

/-- Everything a matching acknowledgment does: the head had the number named and leaves the list, the lost count returns to
0, the timer stops, and the notice in flight is marked if it is the one acknowledged. -/
theorem State.acknowledge_some {s t : State} {sequence : Byte} (h : s.acknowledge sequence = some t) :
    ∃ n rest, s.notices.list = n :: rest ∧ n.sequence = sequence ∧
      t = s.modifyNotices fun u => { u with
        inFlight := u.inFlight.map (·.afterAck sequence), list := rest, lost := 0
        slotWait := t.notices.slotWait, timer := none } := by
  unfold State.acknowledge at h
  split at h
  · next n rest hl =>
    split at h
    · next hn =>
      cases h
      refine ⟨n, rest, hl, hn, ?_⟩
      rw [State.retestSlotWait_only]; rfl
    · cases h
  · cases h

/-- An acknowledgment keeps the notice in flight at the head until it has been acknowledged. -/
theorem State.acknowledge_carriedAtHead {s t : State} {sequence : Byte} (hs : Safety.CarriedAtHead s.notices)
    (h : s.acknowledge sequence = some t) : Safety.CarriedAtHead t.notices := by
  obtain ⟨n, rest, hl, hn, e⟩ := State.acknowledge_some h
  rw [e]
  intro f hf ha
  obtain ⟨g, hg, rfl⟩ := Option.map_eq_some_iff.mp hf
  simp only [InFlight.afterAck_fields, Bool.or_eq_false_iff, beq_eq_false_iff_ne] at ha
  have hd := hs g hg ha.1
  rw [hl, List.head?_cons, Option.map_some, hn] at hd
  exact absurd (Option.some.inj hd).symm ha.2

end Sys2Proof.Machine
end

