-- ==== Sys2Proof/Laws/Replies.lean ====
section
/-! SUPPORT. From the execution of a request to the vocabulary of the statements: when a command's row answers with a reply
(`Answers`). -/

namespace Sys2Proof.Statements

open Sys2Proof.Machine

variable {s b : State} {h : HeldFrame} {rest : List HeldFrame} {i : SlotId}

/-- The slot of the request at the head is not the one its reply will take. -/
theorem AtHead.slot_ne (r : AtHead s h rest i) : h.slot ≠ i := by
  intro e
  have := s.lowestFree_free r.free
  rw [← e, r.inUse] at this
  cases this

/-- A request that is ready passes the manager check. -/
theorem Ready.accepts (r : Ready s h rest i) : s.accepts (s.slot h.slot).source = true := by
  rcases r.accepted with h | h <;> simp [State.accepts, h]

/-- Once the request has left the input queue nothing holds its slot outside the count. -/
theorem AtHead.released {t : State} (r : AtHead s h rest i) (hm : t.management.queue = rest)
    (hin : t.relay.input = s.relay.input)
    (hc : ∀ p, (t.port p).receiver.currentSlot = (s.port p).receiver.currentSlot) :
    t.heldOutside h.slot = false := by
  rw [Bool.eq_false_iff]
  intro held
  obtain ⟨a1, a2, a3⟩ := r.alone
  rcases (State.heldOutside_iff t _).mp held with ⟨p, hp⟩ | ⟨x, hx, e⟩ | ⟨x, hx, e⟩
  · have hs : s.receiverHolds h.slot = true := by
      rw [hc] at hp
      simp only [State.receiverHolds, List.any_eq_true, beq_iff_eq]
      refine ⟨p, ?_, hp⟩
      match p with
      | 0 | 1 | 2 | 3 => decide
    simp [hs] at a1
  · exact a2 x (hin ▸ hx) e
  · exact a3 x (hm ▸ hx) e

/-- The reply stands as `Replied` says once it has been built, admitted, and the request finished. -/
theorem AtHead.replied {payload : List Byte} (r : AtHead s h rest i) (hb : b.management.queue = h :: rest)
    (hin : b.relay.input = s.relay.input)
    (hc : ∀ p, (b.port p).receiver.currentSlot = (s.port p).receiver.currentSlot)
    (hr : (b.slot h.slot).refs = 0) :
    Replied s b (((b.modifySlot i fun _ =>
      ⟨frameCharacters (s.slot h.slot).source s.management.ownAddress (controlOf .reply 0 (s.slot h.slot).tag) payload,
        0, .inUse⟩).joinQueue h.ingress ⟨.priority, 0, .generated, i⟩).finishRequest h) h rest i payload := by
  have hne := r.slot_ne
  generalize hn : (⟨frameCharacters (s.slot h.slot).source s.management.ownAddress
    (controlOf .reply 0 (s.slot h.slot).tag) payload, 0, .inUse⟩ : Slot) = new
  generalize hj : (b.modifySlot i fun _ => new).joinQueue h.ingress ⟨.priority, 0, .generated, i⟩ = joined
  have hport : joined.port h.ingress = admitted (b.port h.ingress) (generatedEntry i) := by
    have hq : (b.port h.ingress).transmitter.joined ⟨.priority, 0, .generated, i⟩ ≠ [] := by
      simp [Transmitter.joined, behindPriority]
    rw [← hj, State.port_joinQueue_same]
    show _ = admitted (b.port h.ingress) _
    have e : (b.modifySlot i fun _ => new).port h.ingress = b.port h.ingress := rfl
    rw [e]
    unfold admitted wakeTransmitter generatedEntry
    split <;> split <;> simp_all
  have hother : ∀ q, q ≠ h.ingress → joined.port q = b.port q := fun q hq => by
    rw [← hj, State.port_joinQueue_other _ _ hq]; rfl
  have hslot : joined.slot i = { new with refs := new.refs + 1 } := by
    have := State.slot_joinQueue_same (b.modifySlot i fun _ => new) h.ingress ⟨.priority, 0, .generated, i⟩
    rw [← hj]; simpa using this
  have hslots : ∀ j, j ≠ i → joined.slot j = b.slot j := fun j e => by
    rw [← hj, State.slot_joinQueue_other _ _ _ e, State.slot_modifySlot_other _ _ e]
  have honly : joined = { b with ports := joined.ports, slots := joined.slots } := by rw [← hj]; rfl
  have hheld : (joined.modifyManagement fun m => { m with queue := m.queue.drop 1 }).heldOutside h.slot = false := by
    refine r.released (by rw [honly]; simp [hb]) (by rw [honly]; exact hin) fun p => ?_
    rw [State.port_congr (State.modifyManagement_fields ..).2.2.2.2.1]
    by_cases e : p = h.ingress
    · rw [e, hport]; exact hc _
    · rw [hother p e, hc]
  have hmp : ∀ q, (joined.finishRequest h).port q = joined.port q := fun q => by
    unfold State.finishRequest
    rw [State.port_congr (State.letGo_fields ..).2.2.2.1]; rfl
  refine ⟨?_, ?_, ?_, ?_, ?_, ?_⟩
  · unfold State.finishRequest
    rw [State.letGo_only, honly]
    simp [State.modifyManagement, hb]
  · unfold State.finishRequest
    rw [State.slot_letGo_other _ hne.symm]
    show joined.slot i = _
    rw [hslot, ← hn]; rfl
  · unfold State.finishRequest
    rw [State.slot_letGo_same]
    have e : ((joined.modifyManagement fun m => { m with queue := m.queue.drop 1 }).slot h.slot).refs = 0 :=
      (congrArg Slot.refs (hslots _ hne)).trans hr
    exact if_pos ⟨e, by rw [hheld]; simp⟩
  · intro j hj' hjh
    unfold State.finishRequest
    rw [State.slot_letGo_other _ hjh]
    exact hslots j hj'
  · rw [hmp, hport]
  · intro q hq
    rw [hmp, hother q hq]

/-- A ready request whose command comes to `b`, touching neither slots nor receivers and neither the input list nor the own
address, with nothing waiting on its reply, is answered. `b` is given without the reply's slot, which the command finds
claimed. -/
theorem answers_of_command {c : Instr} {code : Byte} {args payload data : List Byte} {r : Result} (command : Command)
    (hr : Requested s h rest i (code :: args)) (hx : exec c s = s.whenInService (runRequest (namesCode code) command))
    (hcmd : command h.ingress args (s.modifySlot i fun _ => ⟨[], 0, .inUse⟩) =
      ⟨b.modifySlot i fun _ => ⟨[], 0, .inUse⟩, r, data, .nothing⟩)
    (hp : payload = replyPayload code r data) (hm : b.management.queue = s.management.queue)
    (ho : b.management.ownAddress = s.management.ownAddress) (hin : b.relay.input = s.relay.input)
    (hs : b.slots = s.slots) (hc : ∀ p, (b.port p).receiver.currentSlot = (s.port p).receiver.currentSlot)
    (hroom : HasRoom b h.ingress) : Answers c s b h rest i payload := by
  obtain ⟨hr, hpl⟩ := hr
  refine ⟨_, ?_, hr.toAtHead.replied (payload := payload) (hm.trans hr.queue) hin hc
    (by rw [State.slot_congr hs, hr.refs])⟩
  rw [hx, State.whenInService_inService _ hr.inService,
    runRequest_replied command hr.queue hr.free hr.toAtHead.slot_ne hpl hr.accepts hcmd hroom.1 hroom.2, ho, hp]
  rfl

end Sys2Proof.Statements
end

