-- ==== Sys2Proof/Tests/Slice0.lean ====
section
/-! SUPPORT. Tests: worked values of the spec, the well-formedness checks, one answer of every management request, and for every
statement with hypotheses a state and operands that meet them (`test_meets_…`), clause by clause and at the boundaries of
their ranges. -/

open Sys2Proof Sys2Proof.Machine Sys2Proof.Safety Sys2Proof.Statements

namespace Sys2Proof.Tests

set_option maxRecDepth 100000

/-! ## Builders -/

/-- The state that a command leads to, none where it stops. -/
def after (c : Instr) (s : State) : Option State :=
  match exec c s with
  | .next t => some t
  | _ => none

/-- A command ends in `t`: what the tests decide says what the statements say. -/
theorem exec_of_after {c : Instr} {s t : State} (h : after c s = some t) : exec c s = .next t := by
  unfold after at h
  split at h <;> simp_all

/-- The relay in service after a release of reset with CFGEN low: every port ENABLED, receivers in RESYNC. -/
def serving : State := (after (.coldStart false) State.reset).getD State.reset

/-- A good frame of a kind, hop count 0 and tag 1, as a slot in use. -/
def frame (destination source : Byte) (k : Kind) (payload : List Byte) : Slot :=
  ⟨frameCharacters destination source (controlOf k 0 1) payload, 0, .inUse⟩

/-- The samples of a character taken at its bits' centres, and those of one whose stop bit is at space. -/
def clean (c : Character) : CharacterSamples := ⟨c.lineBits, c.lineBits, c.lineBits⟩
def broken (c : Character) : CharacterSamples :=
  let b := c.lineBits &&& 0x3FF
  ⟨b, b, b⟩

/-- `s` with port 1 changed. -/
def on1 (f : LinePort → LinePort) (s : State) : State := s.modifyPort 1 f

/-- `s` with a character completed in the framer of port 1 and its receiver changed. -/
def hearing (f : Receiver → Receiver) (s : State) : State :=
  on1 (fun x => { x with framer := { x.framer with assembling := true, clock := 169 }, receiver := f x.receiver }) s

/-- `s` with a character completed in the framer of port 1 that has these samples; only the framer differs. -/
def heard (x : CharacterSamples) (s : State) : State :=
  on1 (fun p => { p with framer := { p.framer with assembling := true, clock := 169, samples := x } }) s

/-- The state after a character with these samples has been delivered at port 1. -/
def delivers (x : CharacterSamples) (s : State) : Option State := after (.characterDelivered 1 []) (heard x s)

/-- The characters of the tests arrive as the statements ask. -/
theorem arrives {x : CharacterSamples} {c : Delivered} {s : State} (h : s.phase ≠ .inReset)
    (j : judgedCharacter x = some c) : Arrives (heard x s) 1 c := ⟨h, rfl, Nat.le_refl 169, j⟩

/-- `s` with slot `i` replaced. -/
def holding (i : SlotId) (f : Slot) (s : State) : State := s.modifySlot i fun _ => f

/-- `s` with `n` slots FREE, the last ones. -/
def withFree (n : Nat) (s : State) : State :=
  { s with slots := Vector.ofFn fun i : SlotId => if i.val + n < 48 then frame 2 3 .datagram [] else Slot.empty }

/-- A stored frame in progress at port 1 in slot 0: its first `n` characters have come. -/
def filling (n : Nat) (st : ReceiverState) (l : Option Nat) (chars : List Character) (s : State) : State :=
  holding 0 ⟨chars.take n, 0, .filling⟩ (hearing (fun r => { r with
    state := st, position := n, currentSlot := some 0, length := l
    checkRegister := checkOf ((chars.take (min n (chars.length - 2))).map (·.value)) }) s)

/-- `s` with the entries `q` in the queue of port 1, in slots 0 upward from one frame, and its halves changed. -/
def queueing (q : List QueueEntry) (refs : Nat) (f : Transmitter → Transmitter) (r : ReceiverState) (s : State) : State :=
  holding 0 { frame 2 3 .datagram [] with refs := refs } (on1 (fun x => { x with
    transmitter := f { x.transmitter with queue := q }, receiver := { x.receiver with state := r } }) s)

/-- An ordinary and a priority entry of slot 0. -/
def entryO (n : Nat) : QueueEntry := ⟨.ordinary, n, .relayed, 0⟩
def entryP : QueueEntry := ⟨.priority, 0, .relayed, 0⟩
abbrev entryO0 : QueueEntry := entryO 0

/-- A character time at the reset rate, 19200 bits per second. -/
abbrev ct : Nat := 11 * 16 * 48

/-! ## Worked values of the spec -/

/-- Table 1-2 and the relayed copy of section 1.2.2. -/
theorem test_worked_check :
    checkTake 0xFFFF 0x3A = 0x76E9 ∧ checkTake 0x76E9 0x12 = 0xC522 ∧ checkTake 0xC522 0x45 = 0xB388 ∧
    checkOf [0x3A, 0x12, 0x45, 0x00] = 0x1FB8 ∧ checkOf [0x3A, 0x12, 0x55, 0x00] = 0x1CCB := by decide

/-- The frame of section 1.2.2, and its hop rewrite. -/
theorem test_worked_frame :
    let f : Slot := ⟨frameCharacters 0x3A 0x12 (controlOf .request 0 5) [], 0, .inUse⟩
    f.values = [0x3A, 0x12, 0x45, 0x00, 0x1F, 0xB8] ∧ f.raiseHop.values = [0x3A, 0x12, 0x55, 0x00, 0x1C, 0xCB] := by
  decide

/-- Table 4-5, events V3, V9 and V11: registers and intervals drawn. -/
theorem test_worked_backoff :
    (backoffAdvance 0xACE1, backoffInterval (backoffAdvance 0xACE1)) = (0x59C3, 4) ∧
    (backoffAdvance 0x59C3, backoffInterval (backoffAdvance 0x59C3)) = (0xB387, 8) ∧
    (backoffAdvance 0xB387, backoffInterval (backoffAdvance 0xB387)) = (0x670F, 8) := by decide

/-- A character's bits on the line (R1): start bit, eight bits least significant first, mark bit, stop bit. -/
theorem test_line_bits : (Character.mk 0x3A true).lineBits = 0b11001110100#11 := by decide

/-- The false start, the break mark and the noise mark of the framer (R2, R3). -/
theorem test_framer_marks :
    judgedCharacter ⟨0x7FF, 0x7FF, 0#11⟩ = none ∧
    judgedCharacter ⟨0, 0, 0⟩ = some ⟨0, false, false, true⟩ ∧ (Delivered.mk 0 false false true).isBreak = true ∧
    judgedCharacter ⟨0x400, 0x400, 0x401⟩ = some ⟨0, false, true, false⟩ := by decide

/-! ## Well-formedness: every check refuses an ill-formed term -/

theorem test_wf_memory :
    (Instr.pass1End ⟨List.replicate 32768 false, true⟩).wf = true ∧ (Instr.pass1End ⟨List.replicate 32769 false, true⟩).wf = false ∧
    (Instr.imageRecord ⟨List.replicate 32769 false, true⟩).wf = false ∧
    (Instr.pass2End ⟨List.replicate 32769 false, true⟩).wf = false := by
  simp only [Instr.wf, SerialMemory.wf, List.length_replicate]
  decide

theorem test_wf_keys :
    (Instr.firstExpiry ⟨0x01, 0xFE, 0⟩).wf = true ∧ (Instr.firstExpiry ⟨0x00, 0x05, 1⟩).wf = false ∧
    (Instr.firstExpiry ⟨0x05, 0xFF, 1⟩).wf = false ∧ (Instr.secondExpiry ⟨0xFF, 0x05, 1⟩).wf = false ∧
    (Instr.secondExpiry ⟨0x05, 0x00, 1⟩).wf = false ∧ (Instr.timeoutWord 0x00).wf = false ∧
    (Instr.timeoutWord 0xFF).wf = false ∧ (Instr.timeoutWord 0xFE).wf = true := by decide

theorem test_wf_notices :
    (Instr.noticeRaise ⟨.portIsolated, 4, 0⟩).wf = false ∧ (Instr.noticeRaise ⟨.portIsolated, 3, 2⟩).wf = false ∧
    (Instr.noticeRaise ⟨.portRestored, 4, 0⟩).wf = false ∧ (Instr.noticeRaise ⟨.portRestored, 3, 8⟩).wf = false ∧
    (Instr.noticeRaise ⟨.stationMoved, 0, 1⟩).wf = false ∧ (Instr.noticeRaise ⟨.stationMoved, 1, 4⟩).wf = false ∧
    (Instr.noticeRaise ⟨.stationSilent, 0xFF, 1⟩).wf = false ∧ (Instr.noticeRaise ⟨.stationSilent, 1, 4⟩).wf = false ∧
    (Instr.noticeRaise ⟨.sourceConflict, 0, 1⟩).wf = false ∧ (Instr.noticeRaise ⟨.sourceConflict, 1, 4⟩).wf = false ∧
    (Instr.noticeRaise ⟨.mapFull, 4, 1⟩).wf = false ∧ (Instr.noticeRaise ⟨.mapFull, 3, 0⟩).wf = false ∧
    (Instr.noticeRaise ⟨.rateReverted, 4, 0⟩).wf = false ∧ (Instr.noticeRaise ⟨.rateReverted, 0, 8⟩).wf = false ∧
    (Instr.noticeRaise ⟨.imageResult, 1, 1⟩).wf = false ∧ (Instr.noticeRaise ⟨.imageResult, 0, 0⟩).wf = false ∧
    (Instr.noticeRaise ⟨.imageResult, 0, 7⟩).wf = false ∧ (Instr.noticeRaise ⟨.imageResult, 0, 6⟩).wf = true := by decide

/-- The table gives its rows no bits, so no word spells a command. -/
theorem test_no_word_spells_a_command :
    decodeTableWord 8 0 = none ∧ serving.withFetchWord 8 0 = serving := ⟨rfl, rfl⟩

/-! ## Time and the queue of commands -/

/-- A step from reset with COLD_START queued releases reset; the next finds an empty queue. -/
theorem test_meets_step :
    ({ State.reset with pending := [.coldStart false] } : State).pending = .coldStart false :: [] ∧
    step { State.reset with pending := [.coldStart false] } = .next serving ∧ serving.pending = [] ∧
    State.reset.pending = [] := ⟨rfl, rfl, rfl, rfl⟩

/-- Port 1 with a recovery timer at a level, the aging timer and a window at their boundaries. -/
def timed (l : LineLevel) (n : Nat) : State :=
  { on1 (fun x => { x with
      framer := { x.framer with level := l }
      record := { x.record with admin := .isolated, recovery := some n, ratePhase := .window 30 n } }) serving with
    map := { serving.map with timer := some n } }

theorem test_meets_cycle :
    (timed .mark 0).phase ≠ .inReset ∧ ((timed .mark 0).port 1).record.recovery = some 0 ∧
    ((timed .space 5).port 1).record.recovery = some 5 ∧ (timed .mark 0).map.timer = some 0 ∧
    ((timed .mark 0).port 1).record.ratePhase = .window 30 0 ∧
    ((tick (timed .mark 0)).port 1).record.recovery = some 1 ∧
    ((tick (timed .space 5)).port 1).record.recovery = some 5 ∧ (tick (timed .mark 0)).map.timer = some 0 ∧
    ((tick (timed .space 5)).port 1).record.ratePhase = .window 30 4 := by decide

/-- A state in which every further interval and timer runs: a character being sent with an echo outstanding on port 1, a jam on
port 2, a backoff on port 3, a notice interval, an exchange, a pending restart, and an announcement for the tracker. -/
def ticking : State :=
  { ((on1 (fun x => { x with transmitter := { x.transmitter with
        state := .sending, driverEnable := true, charTime := 5, echoList := [⟨⟨2, true⟩, some 3⟩, ⟨⟨3, false⟩, none⟩] } })
      serving).modifyTransmitter 2 fun t => { t with state := .jam, jamTime := 7 }).modifyTransmitter 3 fun t =>
        { t with state := .backoff, backoff := some ⟨8, 9⟩ } with
    notices := { serving.notices with timer := some 2 }
    exchanges := [⟨1, some 4, ⟨0x21, 0x48, 3⟩, 2, .port 0, true, 12, .awaitReply, 1⟩]
    management := { serving.management with pendingRestart := some ⟨.flush, 6⟩ }
    words := { Words.none with tracker := [⟨⟨0, 12, .completed⟩, 8⟩] } }

theorem test_meets_ticking :
    ticking.pending = [] ∧ ticking.phase ≠ .inReset ∧ timeless (tick ticking) = timeless ticking ∧
    (let t := tick ticking
     ((t.port 1).transmitter.charTime, (t.port 1).transmitter.echoList.map (·.deadline)) = (6, [some 2, none]) ∧
     ((t.port 2).transmitter.jamTime, (t.port 3).transmitter.backoff) = (8, some ⟨8, 10⟩) ∧
     (t.notices.timer, t.exchanges.map (·.deadline)) = (some 1, [some 3]) ∧
     (t.management.pendingRestart, t.words.tracker.map (·.age)) = (some ⟨.flush, 5⟩, [9])) ∧
    (let f : State := { serving with phase := .flushing false, timeBase := ⟨14745, 0, .fill 0⟩ }
     (tick f).phase = .flushing true ∧ timeless (tick f) = timeless f) := by decide

/-- The last cycle of a tick of 14745 cycles and the one before it, and the last tick of the five. -/
theorem test_meets_clocks :
    (14743 + 1 < tickCycles 1 ∧ (TimeBase.next ⟨14743, 1, .fill 0⟩ (.fill 1)).cycle = 14744) ∧
    (tickCycles 1 ≤ 14744 + 1 ∧ (TimeBase.next ⟨14744, 1, .fill 0⟩ (.fill 1)).tick = 2) ∧
    (tickCycles 4 ≤ 14745 + 1 ∧ (TimeBase.next ⟨14745, 4, .fill 0⟩ (.fill 1)).tick = 0) := by decide

/-! ## Frames -/

theorem test_meets_frames :
    (List.replicate 60 (0x55 : Byte)).length ≤ 60 ∧
    (let f := frame 0x20 0x10 .request (List.replicate 60 0x55)
     f.payloadLength ≤ 60 ∧ f.length = 6 + f.payloadLength ∧ f.hop ≠ 3 ∧ f.payloadLength = 60) ∧
    (let f : Slot := ⟨frameCharacters 0x20 0x10 (controlOf .reply 2 15) [], 0, .inUse⟩
     f.payloadLength ≤ 60 ∧ f.length = 6 + f.payloadLength ∧ f.hop ≠ 3 ∧ f.raiseHop.hop = 3) := by decide

/-! ## The line level and the receiver -/

theorem test_meets_level :
    let s (l : LineLevel) (x : LevelSamples) (busy : Bool) : State :=
      on1 (fun p => { p with framer := { p.framer with level := l, recent := x, assembling := busy, clock := 100 } }) serving
    (∀ x ∈ [s .mark ⟨true, true, false⟩ false, s .space ⟨true, false, true⟩ true, s .mark ⟨false, true, false⟩ false,
      s .mark ⟨false, false, true⟩ true], x.phase ≠ .inReset) ∧
    after (.judgedLineLevelChange 1 []) (s .mark ⟨true, true, false⟩ false) = some (s .mark ⟨true, true, false⟩ false) ∧
    (after (.judgedLineLevelChange 1 []) (s .space ⟨true, false, true⟩ true)).map (fun t => (t.port 1).framer.level) =
      some .mark ∧
    (after (.judgedLineLevelChange 1 []) (s .mark ⟨false, true, false⟩ false)).map (fun t =>
      ((t.port 1).framer.level, (t.port 1).framer.assembling, (t.port 1).framer.clock)) = some (.space, true, 0) ∧
    (after (.judgedLineLevelChange 1 []) (s .mark ⟨false, false, true⟩ true)).map (fun t =>
      ((t.port 1).framer.level, (t.port 1).framer.clock)) = some (.space, 100) ∧
    (after (.judgedLineLevelChange 1 [false, true]) (s .mark ⟨true, true, false⟩ false)).map (fun t => t.pins.rxd) =
      some ⟨[], [false, true], [], []⟩ := by decide

/-- The level of the line at sample clock `k` after the start edge of a character (R1). -/
def waveform (c : Character) (k : Nat) : Bool := c.lineBits.getLsbD (k / 16)

/-- A framer that has seen a start edge and then `n` samples of a waveform. -/
def sampled (x : Nat → Bool) (n : Nat) : Framer :=
  ((List.range n).map fun k => x (k + 1)).foldl Framer.sample { Framer.reset with assembling := true }

/-- A character sampled off the line from its start edge: complete at sample 169 and not before; a waveform at space for 6 samples
is a false start. A bad sample in a bit is noise, one between the centres is not. -/
theorem test_meets_framer_samples :
    [waveform ⟨0x3A, true⟩ 7, waveform ⟨0x3A, true⟩ 8, waveform ⟨0x3A, true⟩ 9].count true < 2 ∧
    (sampled (waveform ⟨0x3A, true⟩) 169).complete = some ⟨0x3A, true, false, false⟩ ∧
    (sampled (waveform ⟨0x3A, true⟩) 168).complete = none ∧
    (sampled (fun k => waveform ⟨0x3A, true⟩ k ^^ (k == 24)) 170).complete = some ⟨0x3A, true, true, false⟩ ∧
    (sampled (fun k => waveform ⟨0x3A, true⟩ k ^^ (k == 22)) 170).complete = some ⟨0x3A, true, false, false⟩ ∧
    (2 ≤ [decide (6 < 7), decide (6 < 8), decide (6 < 9)].count true) ∧
    (sampled (fun k => decide (6 < k)) 8).assembling = true ∧ (sampled (fun k => decide (6 < k)) 9).assembling = false := by
  decide

/-- A stop bit sampled mark, space, space is a framing error: the framer waits for mark, and takes no start edge when the change to
space comes after the delivery. Two samples at mark end the wait, one does not. -/
theorem test_meets_wait_for_mark :
    let stop (k : Nat) : Bool := if k < 168 then waveform ⟨0x3A, true⟩ k else false
    let f := sampled stop 169
    let s : State := on1 (fun x => { x with framer := f }) serving
    let delivered := ((after (.characterDelivered 1 []) s).bind (after (.judgedLineLevelChange 1 []))).getD serving
    [stop 167, stop 168, stop 169].count true < 2 ∧ f.complete = some ⟨0x3A, true, true, true⟩ ∧ f.level = .mark ∧
    f.waitsForMark = true ∧ (sampled (waveform ⟨0x3A, true⟩) 169).waitsForMark = false ∧
    ((delivered.port 1).framer.level, (delivered.port 1).framer.assembling) = (.space, false) ∧
    (f.sample true).waitsForMark = true ∧ ((f.sample true).sample true).waitsForMark = false := by decide

/-- A sample taken at a sample clock of port 1 (divider at 47 of 48), none a cycle earlier, and mark with nothing to come. -/
theorem test_meets_sample_clock :
    let s (phase : Nat) (l : List Bool) : State :=
      { serving with timeBase := ⟨5, 0, .fill phase⟩, pins := { serving.pins with rxd := .fill l } }
    (s 47 []).phase ≠ .inReset ∧ (47 + 1) % sampleDivisor ((s 47 []).rate 1) = 0 ∧
    (46 + 1) % sampleDivisor ((s 46 []).rate 1) ≠ 0 ∧
    (((tick (s 47 [false, true])).port 1).framer.recent, (tick (s 47 [false, true])).pins.rxd.get 1) =
      (⟨true, true, false⟩, [true]) ∧
    ((tick (s 47 [])).port 1).framer.recent = ⟨true, true, true⟩ ∧
    (((tick (s 46 [false])).port 1).framer.recent, (tick (s 46 [false])).pins.rxd.get 1) = (⟨true, true, true⟩, [false]) := by
  decide

/-- Nothing is delivered to a framer that waits, before the stop bit's last sample, or in reset. -/
theorem test_meets_nothing_delivered :
    let s (busy : Bool) (n : Nat) := on1 (fun x => { x with framer := { x.framer with assembling := busy, clock := n } }) serving
    ((s false 169).port 1).framer.assembling = false ∧ ((s true 168).port 1).framer.clock < 169 ∧
    after (.characterDelivered 1 []) (s false 169) = some (s false 169) ∧
    after (.characterDelivered 1 []) (s true 168) = some (s true 168) := by decide

/-- In HUNT with 5 slots FREE a mark character begins a frame in slot 43; with 4 it is shed. -/
theorem test_meets_mark_character :
    let s := hearing (fun r => { r with state := .hunt }) (withFree 5 serving)
    let u := hearing (fun r => { r with state := .hunt }) (withFree 4 serving)
    (s.phase ≠ .inReset ∧ (s.port 1).framer.assembling = true ∧
      judgedCharacter (clean ⟨0x3A, true⟩) = some ⟨0x3A, true, false, false⟩) ∧
    (s.port 1).receiver.state = .hunt ∧ 4 < s.freeCount ∧ s.freeCount = 5 ∧ s.lowestFree = some 43 ∧
    (u.phase ≠ .inReset ∧ (u.port 1).framer.assembling = true) ∧ (u.port 1).receiver.state = .hunt ∧ u.freeCount ≤ 4 ∧
    u.freeCount = 4 := by decide

/-- A shed frame in progress, as `ShedInProgress` asks, at a position with a length. -/
def shed (st : ReceiverState) (pos : Nat) (l : Option Nat) (s : State) : State :=
  hearing (fun r => { r with state := st, position := pos, length := l, shedding := true }) s

theorem shedInProgress {s : State} {p : Port} (h : (s.port p).receiver.state.frameInProgress = true ∧
    (s.port p).receiver.currentSlot = none ∧ (s.port p).receiver.shedding = true) : ShedInProgress s p := ⟨h.1, h.2.1, h.2.2⟩

/-- In a shed frame a mark character claims afresh: granted with 5 slots FREE, refused with 4; no abort is counted. -/
theorem test_meets_mark_in_shed_frame :
    let s (free : Nat) := shed .body 5 (some 2) (withFree free serving)
    (∀ n ∈ [4, 5], ClaimsAtMark (s n) 1) ∧
    (∀ n ∈ [4, 5], (s n).phase ≠ .inReset ∧ ((s n).port 1).framer.assembling = true ∧ (s n).freeCount = n) ∧
    (s 5).lowestFree = some 43 ∧
    ([4, 5].map fun n => (delivers (clean ⟨0x3A, true⟩) (s n)).map fun t =>
      ((t.port 1).receiver.currentSlot, (t.port 1).receiver.state, (t.port 1).counters.shed,
        (t.port 1).counters.abortMark, (t.port 1).receiver.checkRegister == 0xFFFF)) =
      [some (none, .header, 1, 0, true), some (some 43, .header, 0, 0, false)] := by
  refine ⟨?_, by decide, by decide, by decide⟩
  simp only [List.mem_cons, List.not_mem_nil, or_false]
  rintro n (e | e) <;> subst e <;> exact .inr ⟨shedInProgress (by decide), show _ < _ by decide⟩

/-- Ignored characters: without the mark bit and with a framing error in HUNT, any in OFF and in RESYNC. -/
theorem test_meets_ignored :
    let s (st : ReceiverState) := hearing (fun r => { r with state := st }) serving
    (judgedCharacter (clean ⟨0x3A, false⟩) = some ⟨0x3A, false, false, false⟩ ∧
      judgedCharacter (broken ⟨0x3A, true⟩) = some ⟨0x3A, true, false, true⟩) ∧
    (∀ st ∈ [ReceiverState.hunt, .off, .resync],
      (s st).phase ≠ .inReset ∧ ((s st).port 1).framer.assembling = true ∧ ((s st).port 1).receiver.state = st) ∧
    (delivers (clean ⟨0x3A, false⟩) (s .hunt)).map (fun t => (t.port 1).counters.stray) = some 1 ∧
    (delivers (clean ⟨0x3A, false⟩) (s .resync)).map (fun t => (t.port 1).counters.stray) = some 0 := by
  decide

/-- A shed frame at the boundaries of its positions and lengths: the receiver's state, position and shedding after a character. -/
theorem test_meets_shed :
    let cases : List (State × Byte × ReceiverState × Nat × Bool) :=
      [(shed .header 1 none serving, 9, .header, 2, true), (shed .header 2 none serving, 9, .header, 3, true),
       (shed .header 3 none serving, 0, .check, 4, true), (shed .header 3 none serving, 60, .body, 4, true),
       (shed .header 3 none serving, 61, .resync, 0, false), (shed .body 4 (some 2) serving, 9, .body, 5, true),
       (shed .body 5 (some 2) serving, 9, .check, 6, true), (shed .check 6 (some 2) serving, 9, .check, 7, true),
       (shed .check 7 (some 2) serving, 9, .hunt, 0, false)]
    (∀ x ∈ cases, x.1.phase ≠ .inReset ∧ (x.1.port 1).framer.assembling = true ∧
      (x.1.port 1).receiver.gap < 2 * x.1.charTime 1 ∧
      ((x.1.port 1).receiver.state.frameInProgress = true ∧ (x.1.port 1).receiver.currentSlot = none ∧
        (x.1.port 1).receiver.shedding = true) ∧
      judgedCharacter (clean ⟨x.2.1, false⟩) = some ⟨x.2.1, false, false, false⟩) ∧
    (∀ x ∈ cases, (delivers (clean ⟨x.2.1, false⟩) x.1).map (fun t =>
      ((t.port 1).receiver.state, (t.port 1).receiver.position, (t.port 1).receiver.shedding)) = some x.2.2) := by
  decide

/-- A shed frame aborted by framing and by gap: no counter rises. -/
theorem test_meets_shed_aborts :
    let s := shed .body 5 (some 2) serving
    let late := on1 (fun x => { x with receiver := { x.receiver with gap := 2 * ct } }) s
    (s.phase ≠ .inReset ∧ (s.port 1).framer.assembling = true ∧ (s.port 1).receiver.gap < 2 * s.charTime 1 ∧
      judgedCharacter (broken ⟨7, true⟩) = some ⟨7, true, false, true⟩) ∧ ShedInProgress s 1 ∧
    (late.phase = .inService ∧ ¬ (late.port 1).receiver.gap < 2 * late.charTime 1) ∧ ShedInProgress late 1 ∧
    ([delivers (broken ⟨7, true⟩) s, after (.abortGap 1) late].map fun t => t.map fun t =>
      ((t.port 1).receiver.state, (t.port 1).counters == (s.port 1).counters)) =
      [some (.resync, true), some (.hunt, true)] := by
  refine ⟨by decide, shedInProgress (by decide), by decide, shedInProgress (by decide), by decide⟩

/-- A slot that a receiver alone holds, as `ReceiversAlone` asks. -/
theorem receiversAlone {s : State} {p : Port} {i : SlotId}
    (h : (s.slot i).refs = 0 ∧ (∀ q : Port, q ≠ p → (s.port q).receiver.currentSlot ≠ some i) ∧
      (∀ h ∈ s.relay.input, h.slot ≠ i) ∧ ∀ h ∈ s.management.queue, h.slot ≠ i) : ReceiversAlone s p i := h

/-- The characters of a REQUEST with a payload. -/
def sample (payload : List Byte) : List Character := (frame 0x20 0x10 .request payload).chars

/-- A character that comes to a stored frame after a gap of 2 character times, ABORT_GAP not yet taken: the frame is aborted by
gap, and the character is stray, or begins the next frame. One cycle earlier it is taken into the frame. -/
theorem test_meets_late_character :
    let s (gap : Nat) := on1 (fun x => { x with receiver := { x.receiver with gap := gap } })
      (filling 5 .body (some 2) (sample [7, 8]) serving)
    ((s (2 * ct)).phase = .inService ∧ ((s (2 * ct)).port 1).framer.assembling = true ∧
      ((s (2 * ct)).port 1).receiver.state.frameInProgress = true ∧
      ¬ ((s (2 * ct)).port 1).receiver.gap < 2 * (s (2 * ct)).charTime 1) ∧
    (delivers (clean ⟨8, false⟩) (s (2 * ct))).map (fun t =>
      (t.slot 0, (t.port 1).receiver.state, (t.port 1).counters.abortGap, (t.port 1).counters.stray)) =
      some (Slot.empty, .hunt, 1, 1) ∧
    (after (.abortGap 1) (heard (clean ⟨8, false⟩) (s (2 * ct)))).bind (after (.characterDelivered 1 [])) =
      delivers (clean ⟨8, false⟩) (s (2 * ct)) ∧
    (delivers (clean ⟨8, true⟩) (s (2 * ct))).map (fun t =>
      ((t.slot 0).chars, (t.port 1).receiver.state)) = some ([⟨8, true⟩], .header) ∧
    (delivers (clean ⟨8, false⟩) (s (2 * ct - 1))).map (fun t =>
      ((t.slot 0).length, (t.port 1).receiver.state)) = some (6, .check) := by decide

/-- A header at positions 2 and 3: lengths 0 and 60 are taken, 61 aborts. -/
theorem test_meets_header :
    let s := filling 2 .header none (sample []) serving
    let u := filling 3 .header none (sample []) serving
    (∀ x ∈ [s, u], x.phase ≠ .inReset ∧ (x.port 1).framer.assembling = true ∧ (x.port 1).receiver.state = .header ∧
      (x.port 1).receiver.gap < 2 * x.charTime 1 ∧
      (x.port 1).receiver.currentSlot = some 0) ∧
    (s.port 1).receiver.position < 3 ∧ (u.port 1).receiver.position = 3 ∧
    judgedCharacter (clean ⟨61, false⟩) = some ⟨61, false, false, false⟩ ∧ ReceiversAlone u 1 0 ∧
    (delivers (clean ⟨0, false⟩) u).map (fun t => (t.port 1).receiver.state) = some .check ∧
    (delivers (clean ⟨60, false⟩) u).map (fun t => (t.port 1).receiver.state) = some .body ∧
    (delivers (clean ⟨61, false⟩) u).map (fun t => (t.slot 0, (t.port 1).counters.abortLength)) =
      some (Slot.empty, 1) := by
  refine ⟨by decide, by decide, by decide, by decide, receiversAlone (by decide), by decide, by decide, by decide⟩

/-- Payload characters, the last one and one before it, and the first check character. -/
theorem test_meets_body :
    let s := filling 4 .body (some 2) (sample [7, 8]) serving
    let u := filling 5 .body (some 2) (sample [7, 8]) serving
    let v := filling 6 .check (some 2) (sample [7, 8]) serving
    (∀ x ∈ [s, u, v], x.phase ≠ .inReset ∧ (x.port 1).framer.assembling = true ∧
      (x.port 1).receiver.gap < 2 * x.charTime 1 ∧
      (x.port 1).receiver.currentSlot = some 0 ∧ (x.port 1).receiver.length = some 2) ∧
    (s.port 1).receiver.state = .body ∧ (u.port 1).receiver.state = .body ∧ (v.port 1).receiver.state = .check ∧
    (v.port 1).receiver.position = 4 + 2 ∧
    (delivers (clean ⟨7, false⟩) s).map (fun t => (t.port 1).receiver.state) = some .body ∧
    (delivers (clean ⟨8, false⟩) u).map (fun t => (t.port 1).receiver.state) = some .check := by
  decide

/-- The second check character of frames with payloads of 0 and 60 characters: good, and with a bit wrong. -/
theorem test_meets_second_check :
    let s (l : Nat) := filling (5 + l) .check (some l) (sample (List.replicate l 7)) serving
    let last (l : Nat) : Character := (sample (List.replicate l 7)).getD (5 + l) ⟨0, false⟩
    (∀ l ∈ [0, 60], (s l).phase ≠ .inReset ∧ ((s l).port 1).framer.assembling = true ∧
      ((s l).port 1).receiver.gap < 2 * (s l).charTime 1 ∧
      ((s l).port 1).receiver.state = .check ∧ ((s l).port 1).receiver.currentSlot = some 0 ∧
      ((s l).port 1).receiver.length = some l ∧ ((s l).port 1).receiver.position = 5 + l ∧ (last l).mark = false) ∧
    ReceiversAlone (s 0) 1 0 ∧ ReceiversAlone (s 60) 1 0 ∧
    (∀ l ∈ [0, 60],
      (delivers (clean (last l)) (s l)).map (fun t => (t.relay.input, (t.port 1).counters.goodFrames)) =
        some ([⟨0, 1⟩], 1)) ∧
    (delivers (clean ⟨(last 0).value ^^^ 1, false⟩) (s 0)).map
      (fun t => (t.relay.input, (t.port 1).counters.checkErrors)) = some ([], 1) := by
  refine ⟨by decide, receiversAlone (by decide), receiversAlone (by decide), by decide, by decide⟩

/-- A framing error and a mark character in the middle of a stored frame. -/
theorem test_meets_aborts :
    let s := filling 5 .body (some 2) (sample [7, 8]) serving
    (s.phase ≠ .inReset ∧ (s.port 1).framer.assembling = true ∧ (s.port 1).receiver.state.frameInProgress = true ∧
      (s.port 1).receiver.gap < 2 * s.charTime 1 ∧ (s.port 1).receiver.currentSlot = some 0) ∧ ReceiversAlone s 1 0 ∧
    judgedCharacter (broken ⟨7, true⟩) = some ⟨7, true, false, true⟩ ∧
    judgedCharacter (clean ⟨7, true⟩) = some ⟨7, true, false, false⟩ ∧
    (delivers (broken ⟨7, true⟩) s).map (fun t => (t.slot 0, (t.port 1).receiver.state)) =
      some (Slot.empty, .resync) ∧
    (delivers (clean ⟨7, true⟩) s).map (fun t => ((t.slot 0).chars, (t.port 1).receiver.state)) =
      some ([⟨7, true⟩], .header) := by
  refine ⟨by decide, receiversAlone (by decide), by decide, by decide, by decide, by decide⟩

/-- The receiver's timed events at exactly their times. -/
theorem test_meets_receiver_times :
    let s := on1 (fun x => { x with receiver := { x.receiver with gap := 2 * ct } }) (filling 5 .body (some 2) (sample [7, 8]) serving)
    let u := on1 (fun x => { x with receiver := { x.receiver with
      state := .resync, markInterval := ct, spaceInterval := 64 * ct } }) serving
    (s.phase = .inService ∧ (s.port 1).receiver.state.frameInProgress = true ∧ (s.port 1).receiver.currentSlot = some 0 ∧
      2 * s.charTime 1 ≤ (s.port 1).receiver.gap) ∧ ReceiversAlone s 1 0 ∧
    ((u.port 1).receiver.state = .resync ∧ u.charTime 1 ≤ (u.port 1).receiver.markInterval ∧
      64 * u.charTime 1 ≤ (u.port 1).receiver.spaceInterval ∧ (u.port 1).receiver.stuckRaised = false) ∧
    (after (.abortGap 1) s).map (fun t => (t.slot 0, (t.port 1).counters.abortGap)) = some (Slot.empty, 1) ∧
    (after (.endOfResync 1) u).map (fun t => (t.port 1).receiver.state) = some .hunt ∧
    (after (.lineStuck 1) u).map (fun t => t.words.stuckLine) = some [1] := by
  refine ⟨by decide, receiversAlone (by decide), by decide, by decide, by decide, by decide⟩

/-- The same one cycle early: nothing changes; nor do the transmitter's timed events before their time. -/
theorem test_meets_early_events :
    let s := on1 (fun x => { x with receiver := { x.receiver with gap := 2 * ct - 1 } }) (filling 5 .body (some 2) (sample [7, 8]) serving)
    let u := on1 (fun x => { x with receiver := { x.receiver with
      state := .resync, markInterval := ct - 1, spaceInterval := 64 * ct - 1 } }) serving
    let v (st : TransmitterState) := queueing [entryO 0] 1 (fun t => { t with
      state := st, charTime := ct - 1, jamTime := 2 * ct - 1, driverEnable := true, echoList := [⟨⟨2, true⟩, some 1⟩] }) .echo serving
    ((s.port 1).receiver.gap < 2 * s.charTime 1 ∧ (u.port 1).receiver.markInterval < u.charTime 1 ∧
      (u.port 1).receiver.spaceInterval < 64 * u.charTime 1) ∧
    (((v .sending).port 1).transmitter.charTime < (v .sending).charTime 1 ∧
      ((v .jam).port 1).transmitter.jamTime < 2 * (v .jam).charTime 1 ∧
      ∀ y ∈ ((v .sending).port 1).transmitter.echoList, y.deadline ≠ some 0) ∧
    (after (.abortGap 1) s, after (.endOfResync 1) u, after (.lineStuck 1) u) = (some s, some u, some u) ∧
    (after (.characterSent 1) (v .sending), after (.missingEcho 1) (v .sending), after (.jamEnd 1) (v .jam)) =
      (some (v .sending), some (v .sending), some (v .jam)) := by decide

/-! ## The transmitter -/

/-- BEGIN_SENDING after exactly 3 character times of quiet, and one cycle earlier. -/
theorem test_meets_begin_sending :
    let s (n : Nat) := queueing [entryO 0] 1 (fun t => { t with state := .waitGap, quietInterval := n }) .hunt serving
    (∀ n ∈ [3 * ct, 3 * ct - 1], (s n).phase = .inService ∧ ((s n).port 1).transmitter.state ≠ .sending ∧
      ((s n).port 1).transmitter.state = .waitGap ∧ (s n).admin 1 = .enabled ∧
      ((s n).port 1).transmitter.queue = entryO 0 :: [] ∧ ((s n).port 1).receiver.state = .hunt) ∧
    3 * (s (3 * ct)).charTime 1 ≤ ((s (3 * ct)).port 1).transmitter.quietInterval ∧
    ((s 0).slot (entryO 0).slot).chars[0]? = some ⟨2, true⟩ ∧
    (after (.beginSending 1) (s (3 * ct))).map (fun t => (t.port 1).receiver.state) = some .echo ∧
    after (.beginSending 1) (s (3 * ct - 1)) = some (s (3 * ct - 1)) := by decide

/-- A sender at the end of a character: the next one follows, or was the last. -/
def sender (next : Nat) (echo : List SentCharacter) (refs : Nat) : State :=
  hearing id (queueing [entryO 1] refs (fun t => { t with
    state := .sending, driverEnable := decide (next < 6), charTime := ct, nextPosition := next, echoList := echo }) .echo serving)

theorem test_meets_character_sent :
    let s (n : Nat) : State := on1 (fun x => { x with transmitter := { x.transmitter with driverEnable := true } }) (sender n [⟨⟨2, true⟩, none⟩] 1)
    (∀ n ∈ [1, 6], (s n).phase = .inService ∧ ((s n).port 1).transmitter.state = .sending ∧
      ((s n).port 1).transmitter.driverEnable = true ∧ (s n).charTime 1 ≤ ((s n).port 1).transmitter.charTime ∧
      ((s n).port 1).transmitter.queue = entryO 1 :: []) ∧
    ((s 1).slot 0).chars[1]? = some ⟨3, false⟩ ∧ ((s 6).slot 0).chars[6]? = none ∧
    (after (.characterSent 1) (s 1)).map (fun t => (t.port 1).transmitter.echoList) =
      some [⟨⟨2, true⟩, some ct⟩, ⟨⟨3, false⟩, none⟩] ∧
    (after (.characterSent 1) (s 6)).map (fun t => (t.port 1).transmitter.driverEnable) = some false := by decide

/-- The stop bit of a second character ends as the deadline of the first one's echo runs out: a collision, whichever is taken
first; with a cycle left the first echo is still awaited. The list meets its bound before. -/
theorem test_meets_echo_deadline_at_character_sent :
    let s (d c : Nat) : State := on1 (fun x => { x with transmitter := { x.transmitter with charTime := c } })
      (sender 2 [⟨⟨2, true⟩, some d⟩, ⟨⟨3, false⟩, none⟩] 1)
    ((s 0 ct).phase = .inService ∧ ((s 0 ct).port 1).transmitter.driverEnable = true ∧
      (s 0 ct).charTime 1 ≤ ((s 0 ct).port 1).transmitter.charTime ∧ EchoListsHold (s 0 ct) ∧ EchoListsHold (s 1 (ct - 1))) ∧
    ((tick (s 1 (ct - 1))).port 1).transmitter.echoList.map (·.deadline) = [some 0, none] ∧
    [Instr.characterSent 1, .missingEcho 1].map (fun c => (after c (s 0 ct)).map fun t =>
      ((t.port 1).transmitter.state, (t.port 1).transmitter.echoList)) = List.replicate 2 (some (.jam, [])) ∧
    after (.characterSent 1) (s 1 (ct - 1)) = some (s 1 (ct - 1)) := by decide

/-- Good echoes: of a character in the middle, and of the last one with 2 references and with 1 on the slot. -/
theorem test_meets_good_echo :
    let s := sender 1 [⟨⟨2, true⟩, none⟩] 1
    let u (refs : Nat) := sender 6 [⟨⟨2, true⟩, some 5⟩] refs
    (∀ x ∈ [s, u 1, u 2], x.phase ≠ .inReset ∧ (x.port 1).framer.assembling = true ∧ (x.port 1).receiver.state = .echo ∧
      (x.port 1).transmitter.state = .sending ∧ (x.port 1).transmitter.queue = entryO 1 :: []) ∧
    (s.port 1).transmitter.echoList = [⟨⟨2, true⟩, none⟩] ∧ (s.port 1).transmitter.nextPosition < (s.slot 0).length ∧
    ((u 1).slot 0).length ≤ ((u 1).port 1).transmitter.nextPosition ∧
    judgedCharacter (clean ⟨2, true⟩) = some ⟨2, true, false, false⟩ ∧
    (1 < ((u 2).slot 0).refs ∧ ((u 1).slot 0).refs = 1 ∧ (u 1).heldOutside 0 = false) ∧
    (delivers (clean ⟨2, true⟩) (u 1)).map (fun t => (t.slot 0, (t.port 1).counters.framesSent)) =
      some (Slot.empty, 1) := by decide

/-- Collisions: a wrong echo, an unexpected one, a missing one; with collision counts 1 and 2. -/
theorem test_meets_collision :
    let s (n : Nat) (l : List SentCharacter) := on1 (fun x => { x with
      transmitter := { x.transmitter with queue := [entryO n] } }) (sender 1 l 1)
    (∀ x ∈ [s 1 [⟨⟨2, true⟩, some 0⟩], s 2 []], x.phase = .inService ∧ (x.port 1).transmitter.state = .sending ∧
      (x.port 1).receiver.state = .echo ∧ (x.port 1).framer.assembling = true) ∧
    ((s 1 []).port 1).transmitter.queue = entryO 1 :: [] ∧ ((s 2 []).port 1).transmitter.queue = entryO 2 :: [] ∧
    ((s 2 []).port 1).transmitter.echoList.head? = none ∧
    ((s 1 [⟨⟨2, true⟩, some 0⟩]).port 1).transmitter.echoList = [⟨⟨2, true⟩, some 0⟩] ∧
    (delivers (clean ⟨9, false⟩) (s 1 [⟨⟨2, true⟩, some 0⟩])).map
      (fun t => ((t.port 1).transmitter.state, t.txd 1)) = some (.jam, .space) ∧
    (after (.missingEcho 1) (s 2 [⟨⟨2, true⟩, some 0⟩])).map (fun t => (t.port 1).transmitter.discardAtJamEnd) = some true := by decide

/-- The right echo after its deadline has passed is a collision, one cycle earlier it is good; the echo of the jam is not judged. -/
theorem test_meets_late_echo :
    let s (n : Nat) := sender 1 [⟨⟨2, true⟩, some n⟩] 1
    let jam := hearing id (queueing [entryO 1] 1 (fun t => { t with state := .jam, driverEnable := true }) .echo serving)
    ((s 1).phase ≠ .inReset ∧ ∀ y ∈ ((s 1).port 1).transmitter.echoList, y.deadline ≠ some 0) ∧
    ((jam.port 1).receiver.state = .echo ∧ (jam.port 1).transmitter.state = .jam ∧
      judgedCharacter (broken ⟨0, false⟩) = some ⟨0, false, false, true⟩) ∧
    ([0, 1].map fun n => (delivers (clean ⟨2, true⟩) (s n)).map fun t => (t.port 1).transmitter.state) =
      [some .jam, some .sending] ∧
    (delivers (broken ⟨0, false⟩) jam).map (fun t => ((t.port 1).transmitter, (t.port 1).counters)) =
      some ((jam.port 1).transmitter, (jam.port 1).counters) := by decide

/-- The end of a jam of exactly 2 character times: below the third collision and at it, on an ENABLED and a HELD port. -/
theorem test_meets_jam_end :
    let s (third : Bool) (a : AdminState) (e : QueueEntry) (refs : Nat) := on1 (fun x => { x with record := { x.record with admin := a } })
      (queueing [e, entryP, entryO 0] refs
        (fun t => { t with state := .jam, jamTime := 2 * ct, driverEnable := true, discardAtJamEnd := third }) .echo serving)
    (∀ x ∈ [s false .enabled (entryO 1) 3, s true .held (entryO 2) 3, s false .held entryP 3],
      x.phase = .inService ∧ (x.port 1).transmitter.state = .jam ∧ 2 * x.charTime 1 ≤ (x.port 1).transmitter.jamTime ∧
      1 < (x.slot 0).refs) ∧
    bandsInOrder [entryP, entryO 0] ∧ (entryO 1).band = .ordinary ∧ entryP.band = .priority ∧
    (s false .enabled (entryO 1) 3).admin 1 = .enabled ∧ (s true .held (entryO 2) 3).admin 1 = .held ∧
    (after (.jamEnd 1) (s false .enabled (entryO 1) 3)).map (fun t => (t.port 1).transmitter.queue) =
      some [entryP, entryO 1, entryO 0] ∧
    (((s true .enabled (entryO 2) 1).slot 0).refs = 1 ∧ (s true .enabled (entryO 2) 1).heldOutside 0 = false) ∧
    (after (.jamEnd 1) (s true .enabled (entryO 2) 1)).map (fun t => t.slot 0) = some Slot.empty ∧
    (after (.jamEnd 1) (s true .held (entryO 2) 3)).map (fun t => ((t.port 1).counters.discards, (t.slot 0).refs)) =
      some (1, 2) := by decide

/-- A backoff at its end, and one cycle before it. -/
theorem test_meets_backoff_end :
    let s (n : Nat) := queueing [entryO 0] 1 (fun t => { t with state := .backoff, backoff := some ⟨8, n⟩ }) .hunt serving
    (∀ n ∈ [8 * ct, 8 * ct - 1], (s n).phase = .inService ∧ ((s n).port 1).transmitter.state = .backoff ∧
      ((s n).port 1).transmitter.backoff = some ⟨8, n⟩ ∧ (s n).admin 1 = .enabled) ∧
    8 * (s 0).charTime 1 ≤ 8 * ct ∧ 8 * ct - 1 < 8 * (s 0).charTime 1 ∧
    (after (.backoffEnd 1) (s (8 * ct))).map (fun t => (t.port 1).transmitter.state) = some .waitGap := by decide

/-! ## Port Control and the Station Map -/

/-- A stuck-line event to be taken, on ports in each state. -/
theorem test_meets_stuck_line :
    let s (a : AdminState) : State := { on1 (fun x => { x with record := { x.record with admin := a } }) serving with
      words := { Words.none with stuckLine := [1] } }
    (∀ a ∈ [AdminState.enabled, .held, .isolated, .disabled], (s a).phase = .inService ∧ 1 ∈ (s a).words.stuckLine ∧
      ((s a).admin 1).isDown = (a == .isolated || a == .disabled)) ∧
    (after (.stuckLineEvent 1) (s .held)).map (fun t => (t.words.portDown, t.words.raised, t.admin 1)) =
      some ([1], [⟨.portIsolated, 1, 1⟩], .isolated) ∧
    after (.stuckLineEvent 1) (s .disabled) = some { s .disabled with words := Words.none } := by decide

/-- A port that is isolated with a stored frame in progress in slot 9 and two entries queued, of a slot with one reference and of one
with two. -/
theorem test_meets_slots_given_up :
    let s : State := { holding 9 ⟨[⟨2, true⟩], 0, .filling⟩ (holding 8 { frame 2 3 .datagram [] with refs := 2 }
        (holding 7 { frame 2 3 .datagram [] with refs := 1 } (on1 (fun x => { x with
          receiver := { x.receiver with state := .header, currentSlot := some 9 }
          transmitter := { x.transmitter with
            state := .waitGap, queue := [⟨.ordinary, 0, .relayed, 7⟩, ⟨.ordinary, 0, .relayed, 8⟩] } }) serving))) with
      words := { Words.none with stuckLine := [1] } }
    (((s.port 1).transmitter.queue.map (·.slot)).Nodup ∧ s.heldOutside 7 = false ∧ s.heldOutside 8 = false ∧
      (s.slot 7).refs = 1 ∧ (s.slot 8).refs = 2 ∧ (s.port 1).receiver.currentSlot = some 9) ∧ ReceiversAlone s 1 9 ∧
    (after (.stuckLineEvent 1) s).map (fun t => (t.slot 7, (t.slot 8).refs, t.slot 9)) = some (Slot.empty, 1, Slot.empty) := by
  refine ⟨by decide, receiversAlone (by decide), by decide⟩

/-- A recovery watch of exactly 1000 ms and one cycle less. -/
theorem test_meets_recovery :
    let s (n : Nat) := on1 (fun x => { x with record := { x.record with admin := .isolated, recovery := some n } }) serving
    (∀ n ∈ [14745600, 14745599], (s n).phase = .inService ∧ (s n).admin 1 = .isolated ∧
      ((s n).port 1).record.recovery = some n) ∧ 14745599 < 14745600 ∧
    (after (.recoveryExpiry 1) (s 14745600)).map (fun t => (t.admin 1, t.words.raised)) =
      some (.enabled, [⟨.portRestored, 1, 1⟩]) ∧
    after (.recoveryExpiry 1) (s 14745599) = some (s 14745599) := by decide

/-- A rate phase on port 1 with the line at rest in RESYNC and IDLE. -/
def changing (r : RatePhase) (s : State) : State :=
  { on1 (fun x => { x with record := { x.record with ratePhase := r, currentRate := 7 } }) s with
    words := { Words.none with rateReplies := [1] } }

theorem test_meets_rate_events :
    let s := changing (.awaitingReply 4 30) serving
    let u := changing (.window 30 0) serving
    (∀ x ∈ [s, u, changing .steady serving, changing (.window 1 1) serving],
      x.phase = .inService ∧ 1 ∈ x.words.rateReplies) ∧
    (∀ x ∈ [s, u], ((x.port 1).receiver.state = .off ∨ (x.port 1).receiver.state = .hunt ∨ (x.port 1).receiver.state = .resync) ∧
      ((x.port 1).transmitter.state = .off ∨ (x.port 1).transmitter.state = .idle ∨
        (x.port 1).transmitter.state = .waitGap ∨ (x.port 1).transmitter.state = .backoff)) ∧
    (s.port 1).record.ratePhase = .awaitingReply 4 30 ∧ (u.port 1).record.ratePhase = .window 30 0 ∧
    ((changing (.window 1 1) serving).port 1).record.ratePhase = .window 1 (0 + 1) ∧
    (after (.rateReplyDeparted 1) s).map (fun t => (t.rate 1, (t.port 1).record.ratePhase)) =
      some (4, .window 30 (14745600 * 30)) ∧
    (after (.windowExpiry 1) u).map (fun t => (t.rate 1, t.words.raised)) = some (1, [⟨.rateReverted, 1, 7⟩]) ∧
    [true, false].map (fun l => (after (.windowExpiry 1)
      (on1 (fun x => { x with framer := { x.framer with recent := ⟨true, l, false⟩ } }) u)).map fun t =>
        (t.port 1).framer.waitsForMark) = [some false, some true] ∧
    (after (.windowExpiry 1) u).map (fun t => (t.port 1).framer.waitsForMark) = some false := by decide

/-- A rate application with a stored frame in progress, and with a frame being sent. -/
theorem test_meets_rate_in_traffic :
    let s := filling 5 .body (some 2) (sample [7, 8]) serving
    ((s.port 1).receiver.state.frameInProgress = true ∧ (s.port 1).receiver.currentSlot = some 0 ∧
      (s.port 1).transmitter.state ≠ .sending) ∧ ReceiversAlone s 1 0 ∧
    (((sender 1 [] 1).port 1).receiver.state = .echo ∧ ((sender 1 [] 1).port 1).transmitter.state = .sending) ∧
    ((s.applyRate 1 3).port 1).counters.abortRate = 1 ∧ (((sender 1 [] 1).applyRate 1 3).port 1).counters.collisions = 1 := by
  refine ⟨by decide, receiversAlone (by decide), by decide, by decide, by decide⟩

/-- The rate events themselves with a stored frame in progress, and with a frame being sent. -/
theorem test_meets_rate_events_in_traffic :
    let s (r : RatePhase) := changing r (filling 5 .body (some 2) (sample [7, 8]) serving)
    ((s (.awaitingReply 4 30)).phase = .inService ∧ 1 ∈ (s (.awaitingReply 4 30)).words.rateReplies ∧
      ((s (.window 30 0)).port 1).record.ratePhase = .window 30 0) ∧ ReceiversAlone (s (.window 30 0)) 1 0 ∧
    (after (.rateReplyDeparted 1) (s (.awaitingReply 4 30))).map (fun t => (t.slot 0, (t.port 1).counters.abortRate, t.rate 1)) =
      some (Slot.empty, 1, 4) ∧
    (after (.windowExpiry 1) (s (.window 30 0))).map (fun t => (t.slot 0, (t.port 1).counters.abortRate, t.rate 1)) =
      some (Slot.empty, 1, 1) ∧
    (after (.windowExpiry 1) (changing (.window 30 0) (sender 1 [] 1))).map (fun t => (t.port 1).transmitter.state) =
      some .jam := by
  refine ⟨by decide, receiversAlone (by decide), by decide, by decide, by decide⟩

/-- A rate application in a shed frame, in JAM and in BACKOFF. -/
theorem test_meets_rate_in_jam_and_backoff :
    let jam := queueing [entryO 1] 1 (fun t => { t with state := .jam, jamTime := ct, quietInterval := 4, driverEnable := true })
      .echo serving
    let wait := queueing [entryO 1] 1 (fun t => { t with state := .backoff, backoff := some ⟨8, ct⟩, quietInterval := 4 })
      .hunt serving
    ShedInProgress (shed .check 6 (some 2) serving) 1 ∧
    ((shed .check 6 (some 2) serving).port 1).transmitter.state ≠ .sending ∧
    ((jam.port 1).receiver.state = .echo ∧ (jam.port 1).transmitter.state = .jam) ∧
    ((wait.port 1).transmitter.state = .backoff ∧ (wait.port 1).transmitter.backoff = some ⟨8, ct⟩) ∧
    (((shed .check 6 (some 2) serving).applyRate 1 3).port 1).receiver.state = .resync ∧
    (((jam.applyRate 1 3).port 1).transmitter.jamTime, ((jam.applyRate 1 3).port 1).transmitter.state) = (0, .jam) ∧
    (((wait.applyRate 1 3).port 1).transmitter.backoff, ((wait.applyRate 1 3).port 1).transmitter.quietInterval) =
      (some ⟨8, 0⟩, 0) := by
  refine ⟨shedInProgress (by decide), by decide, by decide, by decide, by decide, by decide, by decide⟩

/-- `s` with these entries in the Station Map. -/
def knowing (l : List StationEntry) (s : State) : State := { s with map := { s.map with entries := l } }

/-- An entry for an address on port 0. -/
def entry (a : Byte) (o : StationOrigin) : StationEntry := ⟨a, o, 0, true, 2, 1⟩

/-- A full map of entries of an origin. -/
def fullMap (o : Nat → StationOrigin) : List StationEntry := (List.range 96).map fun n => entry (byteOf (n + 1)) (o n)

theorem test_meets_timeout_word :
    let s (n : Fin 4) : State := { knowing [{ entry 0x48 .static with silence := n }] serving with
      words := { Words.none with timeouts := [0x48, 0x49] } }
    (∀ n ∈ [(2 : Fin 4), 3], (s n).phase = .inService ∧ 0x48 ∈ (s n).words.timeouts ∧ 0x49 ∈ (s n).words.timeouts ∧
      (s n).map.entries.Pairwise (fun x y => x.address ≠ y.address) ∧ (∀ e ∈ (s n).map.entries, e.address ≠ 0x49)) ∧
    (∃ e ∈ (s 2).map.entries, e.address = 0x48) ∧
    (after (.timeoutWord 0x48) (s 2)).map (fun t => t.words.raised) = some [⟨.stationSilent, 0x48, 0⟩] ∧
    (after (.timeoutWord 0x48) (s 3)).map (fun t => (t.words.raised, t.map)) = some ([], (s 3).map) := by decide

theorem test_meets_aging :
    let s (n : Nat) : State := { serving with
      map := ⟨[entry 1 .static, entry 2 (.learned 0), entry 3 (.learned 2), entry 4 (.learned 3)], 10, some n⟩ }
    ((s 0).phase = .inService ∧ (s 0).map.timer = some 0 ∧ (s 1).map.timer = some (0 + 1)) ∧
    (after .agingExpiry (s 0)).map (fun t => t.map.entries) =
      some [entry 1 .static, entry 2 (.learned 1), entry 3 (.learned 3)] ∧
    after .agingExpiry (s 1) = some (s 1) := by decide

/-- The five cases of a map update, the full map, and learning off. -/
theorem test_meets_map_update :
    let s (l : List StationEntry) := knowing l serving
    ((serving.admin 0).isDown = false ∧ (serving.port 0).record.learn = true) ∧
    ((s []).lookup 0x48 = none ∧ (s []).map.entries.length < 96) ∧
    (s [entry 0x48 (.learned 3)]).lookup 0x48 = some (entry 0x48 (.learned 3)) ∧
    (s [entry 0x48 .static]).lookup 0x48 = some (entry 0x48 .static) ∧ (entry 0x48 .static).port ≠ 1 ∧
    ((s [entry 0x48 (.learned 3)]).updateMap 0x48 1).1.words.raised = [⟨.stationMoved, 0x48, 0⟩] ∧
    ((s [entry 0x48 .static]).updateMap 0x48 1).2 = .drop ∧
    (s (fullMap fun _ => .static)).lookup 0xC0 = none ∧ 96 ≤ (s (fullMap fun _ => .static)).map.entries.length ∧
    ((s (fullMap fun _ => .static)).updateMap 0xC0 1).1.counters.learnRefusals = 1 ∧
    ((on1 (fun x => { x with record := { x.record with learn := false } }) serving).port 1).record.learn = false := by
  decide

/-- An entry that exists, with the learn option off (L3 among the cases) and with the ingress port down. -/
theorem test_meets_map_update_without_learning :
    let off (l : List StationEntry) := knowing l (serving.modifyPorts fun x => { x with record := { x.record with learn := false } })
    let down (l : List StationEntry) := knowing l (serving.modifyPorts fun x => { x with record := { x.record with admin := .disabled } })
    let e := entry 0x48 (.learned 3)
    ((off [e]).lookup 0x48 = some e ∧ (down [entry 0x48 .static]).lookup 0x48 = some (entry 0x48 .static)) ∧
    ((off [e]).admin 1).isDown = false ∧ ((off [e]).port 1).record.learn = false ∧ ((down [e]).admin 1).isDown = true ∧
    ([(0 : Port), 1].map fun p => ((off [e]).updateMap 0x48 p).1.map.entries) =
      [[{ e with origin := .learned 0, silence := 0 }], [{ e with silence := 0 }]] ∧
    (down [e]).updateMap 0x48 1 = (down [e], .goOn) ∧ (down [entry 0x48 .static]).updateMap 0x48 0 = (down [entry 0x48 .static], .goOn) ∧
    ([off, down].map fun f => ((f [entry 0x48 .static]).updateMap 0x48 1).2) = [.drop, .drop] := by decide

theorem test_meets_static_write :
    let s := knowing (fullMap fun n => if n = 7 ∨ n = 30 then .learned 2 else if n = 3 then .learned 1 else .static) serving
    let v := entry 8 (.learned 2)
    s.map.entries.Pairwise (fun x y => x.address.toNat < y.address.toNat) ∧ s.map.entries.length = 96 ∧
    s.lookup (entry 0xC0 .static).address = none ∧ v ∈ s.map.entries ∧ v.isLearned = true ∧
    (∀ x ∈ s.map.entries, x.isLearned = true →
      x.age < v.age ∨ (x.age = v.age ∧ v.address.toNat ≤ x.address.toNat)) ∧
    (∀ x ∈ (knowing (fullMap fun _ => .static) serving).map.entries, x.origin = .static) ∧
    ((knowing (fullMap fun _ => .static) serving).writeStatic (entry 0xC0 .static)) = none ∧
    (∀ x ∈ [entry 2 .static, entry 9 .static], x.address ≠ (entry 5 .static).address) ∧
    insertStation (entry 5 .static) [entry 2 .static, entry 9 .static] =
      [entry 2 .static, entry 5 .static, entry 9 .static] := by decide

/-! ## Admissions -/

theorem test_meets_admissions :
    let s := queueing [entryP, entryO 0] 2 (fun t => { t with state := .waitGap }) .hunt serving
    let u (q : List QueueEntry) := queueing q 16 (fun t => { t with state := .sending }) .echo serving
    let full := ⟨.ordinary, 0, .relayed, 5⟩ :: List.replicate 13 entryO0 ++ [⟨.ordinary, 0, .relayed, 5⟩, entryP]
    ((s.admin 1).isDown = false ∧ (s.port 1).transmitter.queue.length < 16 ∧ bandsInOrder (s.port 1).transmitter.waiting) ∧
    (s.offer 1 entryP).1.port 1 = admitted (s.port 1) entryP ∧
    ((u full).port 1).transmitter.queue.length = 16 ∧ ((u full).admin 1).isDown = false ∧
    ((u full).port 1).transmitter.waiting = List.replicate 13 entryO0 ++ ⟨.ordinary, 0, .relayed, 5⟩ :: [entryP] ∧
    (∀ x ∈ ((u (entryO 0 :: List.replicate 15 entryP)).port 1).transmitter.waiting, x.band = .priority) ∧
    ((u full).offer 1 ⟨.priority, 0, .generated, 7⟩).2 = true ∧ ((u full).offer 1 (entryO 0)).2 = false ∧
    (((on1 (fun x => { x with record := { x.record with admin := .disabled } }) serving).admin 1).isDown = true) := by
  decide

/-- A displacement from a queue whose bands stand in order: the new entry stands behind the PRIORITY entries that wait. -/
theorem test_meets_displacement :
    let d : QueueEntry := ⟨.ordinary, 0, .relayed, 5⟩
    let e : QueueEntry := ⟨.priority, 0, .generated, 7⟩
    let s := queueing (entryO 1 :: entryP :: List.replicate 13 entryO0 ++ [d]) 16 (fun t => { t with state := .sending }) .echo
      serving
    ((s.port 1).transmitter.waiting = (entryP :: List.replicate 13 entryO0) ++ d :: [] ∧
      bandsInOrder (s.port 1).transmitter.waiting ∧ d.slot ≠ e.slot) ∧
    ((s.offer 1 e).1.port 1).transmitter.queue = entryO 1 :: entryP :: e :: List.replicate 13 entryO0 := by decide

/-- Departures announced to the tracker, to the Notice Unit and to the Management Unit, and to none. -/
theorem test_meets_announcements :
    let open_ : State := { queueing [entryO 0] 2 id .hunt serving with
      exchanges := [⟨1, none, ⟨0x21, 0x48, 3⟩, 2, .port 0, true, 0, .sendPending, 1⟩] }
    let noted : State := { queueing [] 2 id .hunt serving with
      notices := { serving.notices with inFlight := some ⟨0, 3, 2, false⟩ } }
    let watched : State := { queueing [] 1 id .hunt serving with
      management := { serving.management with watch := [⟨0, .setRate 1⟩] } }
    let generated : QueueEntry := ⟨.priority, 0, .generated, 0⟩
    ((1 < (open_.slot 0).refs) ∧ (watched.slot 0).refs = 1 ∧ watched.heldOutside 0 = false) ∧
    (open_.depart 1 .completed (entryO 0)).words.tracker = [⟨⟨1, 0, .completed⟩, 0⟩] ∧
    (open_.depart 1 .withdrawn (entryO 0)).words = Words.none ∧ (serving.depart 1 .completed (entryO 0)).words = Words.none ∧
    (noted.depart 1 .discarded generated).words.noticeCopies = [⟨1, 0, .discarded⟩] ∧
    (watched.depart 1 .flushed generated).words.watchedReplies = [⟨1, 0, .flushed⟩] ∧
    (serving.depart 1 .completed generated).words = Words.none := by decide

/-! ## Relay decisions -/

/-- `s` with a frame in slot 0 at the head of the input list, arrived on port `p`. -/
def offered (f : Slot) (p : Port) (s : State) : State :=
  holding 0 f { s with relay := { s.relay with input := [⟨0, p⟩] } }

theorem deciding {s : State} {h : HeldFrame} {rest : List HeldFrame}
    (hs : s.phase = .inService ∧ s.relay.input = h :: rest ∧ (s.slot h.slot).refs = 0 ∧ s.receiverHolds h.slot = false ∧
      (∀ x ∈ rest, x.slot ≠ h.slot) ∧ ∀ x ∈ s.management.queue, x.slot ≠ h.slot) : Deciding s h rest := by
  obtain ⟨a, b, c, d, e, f⟩ := hs
  exact ⟨a, b, c, d, e, f⟩

theorem continues {s : State} {h : HeldFrame}
    (hs : isStationAddress (s.slot h.slot).source = true ∧ (s.slot h.slot).source ≠ s.management.ownAddress ∧
      (s.updateMap (s.slot h.slot).source h.ingress).2 = .goOn) :
    Continues s (s.updateMap (s.slot h.slot).source h.ingress).1 h :=
  ⟨hs.1, hs.2.1, Prod.ext rfl hs.2.2⟩

theorem reachesRules {s : State} {h : HeldFrame} {rest : List HeldFrame} (d : Deciding s h rest)
    (c : Continues s (s.updateMap (s.slot h.slot).source h.ingress).1 h)
    (hs : (s.slot h.slot).destination ≠ 0x00 ∧ (s.slot h.slot).destination ≠ s.management.ownAddress ∧
      (s.slot h.slot).kind ≠ .reply) :
    ReachesRules s (s.updateMap (s.slot h.slot).source h.ingress).1 h rest :=
  ⟨d, hs.1, hs.2.1, _, c, .inl ⟨hs.2.2, rfl⟩⟩

theorem passesRules {s : State} {h : HeldFrame} {rest : List HeldFrame}
    (r : ReachesRules s (s.updateMap (s.slot h.slot).source h.ingress).1 h rest)
    (hs : (∀ r ∈ s.relay.rules, r.fields.matchesFrame h (s.slot h.slot) = false) ∧ s.relay.defaultAction = .pass ∧
      (s.slot h.slot).hop ≠ 3) :
    PassesRules s (s.updateMap (s.slot h.slot).source h.ingress).1 (s.updateMap (s.slot h.slot).source h.ingress).1 h
      rest .normal := ⟨r, .inl ⟨hs.1, hs.2.1, rfl, rfl⟩, hs.2.2⟩

theorem firstMatch {rules : List Rule} {h : HeldFrame} {f : Slot} {before : List Rule} {r : Rule} {behind : List Rule}
    (hs : rules = before ++ r :: behind ∧ (∀ x ∈ before, x.fields.matchesFrame h f = false) ∧
      (r.fields.sourceLow.toNat ≤ f.source.toNat ∧ f.source.toNat ≤ r.fields.sourceHigh.toNat) ∧
      (r.fields.destinationLow.toNat ≤ f.destination.toNat ∧ f.destination.toNat ≤ r.fields.destinationHigh.toNat) ∧
      r.fields.kinds.getLsbD f.kind.code.toNat = true ∧ r.fields.ingressPorts.getLsbD h.ingress.val = true) :
    FirstMatch rules h f before r behind := by
  obtain ⟨a, b, c, d, e, g⟩ := hs
  exact ⟨a, b, c, d, e, g⟩

/-- A frame from station 10h on port 2. -/
def from10 (destination : Byte) (k : Kind) : State := offered (frame destination 0x10 k [1]) 2 serving

/-- Every address a decision judges: 00h and FFh as source, the own address, a static conflict, and as destination 00h and the
own address with each kind, with 3 and with 4 requests queued. -/
theorem test_meets_address_checks :
    (∀ a ∈ [(0x00 : Byte), 0xFF, 0xFE], Deciding (offered (frame 0x20 a .request []) 2 serving) ⟨0, 2⟩ []) ∧
    (Deciding (knowing [entry 0x10 .static] (from10 0x20 .request)) ⟨0, 2⟩ [] ∧
      ((knowing [entry 0x10 .static] (from10 0x20 .request)).updateMap 0x10 2).2 = .drop) ∧
    (∀ s ∈ [from10 0x00 .datagram, from10 0xFE .reply, from10 0xFE .request], Deciding s ⟨0, 2⟩ [] ∧
      ∃ u, Continues s u ⟨0, 2⟩) ∧
    ((after .relayDecision (from10 0x00 .datagram)).map fun t => (t.counters.badAddress, t.slot 0)) = some (1, Slot.empty) ∧
    ((after .relayDecision (from10 0xFE .reply)).map fun t => t.counters.notARequest) = some 1 ∧
    ((after .relayDecision (from10 0xFE .request)).map fun t => t.management.queue) = some [⟨0, 2⟩] ∧
    ((after .relayDecision { from10 0xFE .request with
        management := { serving.management with queue := [⟨1, 2⟩, ⟨2, 2⟩, ⟨3, 2⟩, ⟨4, 2⟩] } }).map
      fun t => t.counters.managementOverflow) = some 1 := by
  refine ⟨?_, ⟨deciding (by decide), by decide⟩, ?_, by decide, by decide, by decide, by decide⟩
  · simp only [List.mem_cons, List.not_mem_nil, or_false]
    rintro a (e | e | e) <;> subst e <;> exact deciding (by decide)
  · simp only [List.mem_cons, List.not_mem_nil, or_false]
    rintro a (e | e | e) <;> subst e <;> exact ⟨deciding (by decide), _, continues (by decide)⟩

/-- Frames carried and dropped: a broadcast to three ports, to an unknown station with flooding off, to a station on the ingress
port, and a request that opens an exchange, is a duplicate, or finds the table full. -/
theorem test_meets_carrying :
    let quiet (s : State) := s.modifyRecord 2 fun r => { r with floodUnknown := false }
    let near := knowing [{ entry 0x20 .static with port := 2 }] (from10 0x20 .datagram)
    let open16 := { from10 0x20 .request with exchanges := (List.range 16).map fun n =>
      ⟨1, none, ⟨0x30, byteOf (n + 1), 0⟩, 1, .port 0, true, 9, .awaitReply, 0⟩ }
    (∃ u, PassesRules (from10 0xFF .datagram) u u ⟨0, 2⟩ [] .normal) ∧ (∃ u, PassesRules (quiet (from10 0x20 .datagram)) u u ⟨0, 2⟩ [] .normal) ∧
    (∃ u, PassesRules near u u ⟨0, 2⟩ [] .normal) ∧ (∃ u, PassesRules (from10 0x20 .request) u u ⟨0, 2⟩ [] .normal) ∧
    (∃ u, PassesRules open16 u u ⟨0, 2⟩ [] .normal) ∧
    outputPorts (from10 0xFF .datagram) ⟨0, 2⟩ 0xFF .normal = [0, 1, 3] ∧
    (∀ q ∈ [(0 : Port), 1, 3], (serving.admin q).isDown = false ∧ (serving.port q).transmitter.queue.length < 16) ∧
    ((after .relayDecision (from10 0xFF .datagram)).map fun t => (t.slot 0).refs) = some 3 ∧
    ((after .relayDecision (quiet (from10 0x20 .datagram))).map fun t => t.counters.unknown) = some 1 ∧
    ((after .relayDecision near).map fun t => t.counters.localDrops) = some 1 ∧
    ((after .relayDecision (from10 0x20 .request)).map fun t => ((t.slot 0).refs, t.exchanges.map (·.responderPort))) =
      some (4, [.flooded]) ∧
    ((after .relayDecision open16).map fun t => (t.counters.exchangesFull, t.reports.map (·.port))) = some (1, [2]) := by
  refine ⟨⟨_, passesRules (reachesRules (deciding (by decide)) (continues (by decide)) (by decide)) (by decide)⟩,
    ⟨_, passesRules (reachesRules (deciding (by decide)) (continues (by decide)) (by decide)) (by decide)⟩,
    ⟨_, passesRules (reachesRules (deciding (by decide)) (continues (by decide)) (by decide)) (by decide)⟩,
    ⟨_, passesRules (reachesRules (deciding (by decide)) (continues (by decide)) (by decide)) (by decide)⟩,
    ⟨_, passesRules (reachesRules (deciding (by decide)) (continues (by decide)) (by decide)) (by decide)⟩,
    by decide, by decide, by decide, by decide, by decide, by decide, by decide⟩

/-- A REQUEST dropped as unknown and as local, no exchange opened. -/
theorem test_meets_request_dropped :
    let quiet := (from10 0x20 .request).modifyRecord 2 fun r => { r with floodUnknown := false }
    let near := knowing [{ entry 0x20 .static with port := 2 }] (from10 0x20 .request)
    (∃ u, PassesRules quiet u u ⟨0, 2⟩ [] .normal) ∧ (∃ u, PassesRules near u u ⟨0, 2⟩ [] .normal) ∧
    outputPorts near ⟨0, 2⟩ 0x20 .normal = [] ∧
    ((after .relayDecision quiet).map fun t => (t.counters.unknown, t.slot 0, t.exchanges)) = some (1, Slot.empty, []) ∧
    ((after .relayDecision near).map fun t => (t.counters.localDrops, t.slot 0, t.exchanges)) = some (1, Slot.empty, []) := by
  refine ⟨⟨_, passesRules (reachesRules (deciding (by decide)) (continues (by decide)) (by decide)) (by decide)⟩,
    ⟨_, passesRules (reachesRules (deciding (by decide)) (continues (by decide)) (by decide)) (by decide)⟩,
    by decide, by decide, by decide⟩

/-- Admissions refused: a broadcast with port 1 full, a datagram and a request to a station behind a full port. -/
theorem test_meets_refused_admissions :
    let full (s : State) := s.modifyTransmitter 1 fun t => { t with
      queue := List.replicate 16 ⟨.ordinary, 0, .relayed, 5⟩, state := .waitGap }
    let near (k : Kind) := full (knowing [{ entry 0x20 .static with port := 1 }] (from10 0x20 k))
    (∃ u, PassesRules (full (from10 0xFF .datagram)) u u ⟨0, 2⟩ [] .normal) ∧
    (∃ u, PassesRules (near .datagram) u u ⟨0, 2⟩ [] .normal) ∧
    (∃ u, PassesRules (near .request) u u ⟨0, 2⟩ [] .normal) ∧
    (portsWithRoom (full (from10 0xFF .datagram)) [0, 1, 3] = [0, 3] ∧ portsWithRoom (near .request) [1] = [] ∧
      outputPorts (near .request) ⟨0, 2⟩ 0x20 .normal = [1]) ∧
    (∀ q ∈ allPorts, ((near .request).port q).transmitter.queue.length ≤ 16 ∧
      (∀ e ∈ ((near .request).port q).transmitter.queue, e.slot ≠ 0) ∧
      (((near .request).port q).transmitter.state = .waitGap → ((near .request).port q).transmitter.queue ≠ [])) ∧
    ((after .relayDecision (full (from10 0xFF .datagram))).map fun t => ((t.slot 0).refs, (t.port 1).counters.queueFull)) =
      some (2, 1) ∧
    ((after .relayDecision (near .datagram)).map fun t => (t.slot 0, (t.port 1).counters.queueFull)) =
      some (Slot.empty, 1) ∧
    ((after .relayDecision (near .request)).map fun t =>
      (t.slot 0, t.exchanges, t.reports.map (·.reason), t.counters.queueFullClosures)) =
      some (Slot.empty, [], [.busy .queueFull], 1) := by
  refine ⟨⟨_, passesRules (reachesRules (deciding (by decide)) (continues (by decide)) (by decide)) (by decide)⟩,
    ⟨_, passesRules (reachesRules (deciding (by decide)) (continues (by decide)) (by decide)) (by decide)⟩,
    ⟨_, passesRules (reachesRules (deciding (by decide)) (continues (by decide)) (by decide)) (by decide)⟩,
    by decide, by decide, by decide, by decide, by decide⟩

/-- A rule for requests and datagrams of station 10h to 20h that arrive on port 2. -/
def ruleFrom10 (a : RuleAction) : Rule := ⟨⟨0x10, 0x10, 0x20, 0x20, 3, 4, a, 1⟩, 7⟩

/-- Frames that pass by a rule: a datagram by PASS, and a request by REDIRECT, whose exchange names the redirect port; and at
hop count 3 the default PASS drops. -/
theorem test_meets_passing_rules :
    let s (k : Kind) (a : RuleAction) : State := { from10 0x20 k with relay := { (from10 0x20 k).relay with rules := [ruleFrom10 a] } }
    let tired : State := holding 0 ⟨frameCharacters 0x20 0x10 (controlOf .datagram 3 1) [], 0, .inUse⟩ (from10 0x20 .datagram)
    (∃ u v, PassesRules (s .datagram .pass) u v ⟨0, 2⟩ [] .normal) ∧
    (∃ u v, PassesRules (s .request .redirect) u v ⟨0, 2⟩ [] (.redirect 1)) ∧
    outputPorts (s .request .redirect) ⟨0, 2⟩ 0x20 (.redirect 1) = [1] ∧
    ((after .relayDecision (s .datagram .pass)).map fun t => ((t.slot 0).refs, t.relay.rules.map (·.hits))) = some (3, [8]) ∧
    ((after .relayDecision (s .request .redirect)).map fun t => ((t.slot 0).refs, t.exchanges.map (·.responderPort))) =
      some (2, [.port 1]) ∧
    (∃ u, ReachesRules tired u ⟨0, 2⟩ []) ∧ (tired.slot 0).hop = 3 ∧ tired.relay.defaultAction = .pass ∧
    ((after .relayDecision tired).map fun t => (t.counters.hopLimit, t.slot 0)) = some (1, Slot.empty) := by
  refine ⟨⟨_, _, ⟨reachesRules (deciding (by decide)) (continues (by decide)) (by decide),
      .inr ⟨[], ruleFrom10 .pass, [], firstMatch (by decide), rfl, .inl (by decide)⟩, by decide⟩⟩,
    ⟨_, _, ⟨reachesRules (deciding (by decide)) (continues (by decide)) (by decide),
      .inr ⟨[], ruleFrom10 .redirect, [], firstMatch (by decide), rfl, .inr (by decide)⟩, by decide⟩⟩,
    by decide, by decide, by decide, ⟨_, reachesRules (deciding (by decide)) (continues (by decide)) (by decide)⟩,
    by decide, by decide, by decide⟩

/-- A rule that matches at the ends of its ranges, with each action; a redirect to the ingress port; and a default of DROP. -/
theorem test_meets_rules :
    let r (a : RuleAction) (p : Port) : Rule := ⟨⟨0x10, 0x10, 0x20, 0xFF, 1, 4, a, p⟩, 0⟩
    let s (a : RuleAction) (p : Port) : State := { from10 0x20 .datagram with
      relay := { (from10 0x20 .datagram).relay with rules := [⟨⟨0x11, 0xFF, 0, 0xFF, 15, 15, .drop, 0⟩, 5⟩, r a p] } }
    (∀ a ∈ [RuleAction.pass, .drop, .redirect], ∃ u, ReachesRules (s a 1) u ⟨0, 2⟩ []) ∧
    RuleFields.matchesFrame ⟨0x11, 0xFF, 0, 0xFF, 15, 15, .drop, 0⟩ ⟨0, 2⟩ (frame 0x20 0x10 .datagram [1]) = false ∧
    (∀ a ∈ [RuleAction.pass, .drop, .redirect], FirstMatch (s a 1).relay.rules ⟨0, 2⟩ ((s a 1).slot 0)
      [⟨⟨0x11, 0xFF, 0, 0xFF, 15, 15, .drop, 0⟩, 5⟩] (r a 1) []) ∧
    ((after .relayDecision (s .drop 1)).map fun t => (t.counters.ruleDrops, t.relay.rules.map (·.hits))) = some (1, [5, 1]) ∧
    ((after .relayDecision (s .redirect 1)).map fun t => (t.port 1).transmitter.queue.length) = some 1 ∧
    ((after .relayDecision (s .redirect 2)).map fun t => t.counters.localDrops) = some 1 := by
  refine ⟨?_, by decide, ?_, by decide, by decide, by decide⟩
  · simp only [List.mem_cons, List.not_mem_nil, or_false]
    rintro a (e | e | e) <;> subst e <;>
      exact ⟨_, reachesRules (deciding (by decide)) (continues (by decide)) (by decide)⟩
  · simp only [List.mem_cons, List.not_mem_nil, or_false]
    rintro a (e | e | e) <;> subst e <;> exact firstMatch (by decide)

/-- One field of a rule outside the frame keeps it from matching: a range a step beside the address or empty, the kind, the port. -/
theorem test_meets_rule_fields :
    let m (sl sh dl dh : Byte) (k p : BitVec 4) : Bool :=
      RuleFields.matchesFrame ⟨sl, sh, dl, dh, k, p, .drop, 0⟩ ⟨0, 2⟩ (frame 0x20 0x10 .reply [1])
    m 0x10 0x10 0x20 0x20 4 4 = true ∧ m 0x11 0xFF 0x20 0x20 4 4 = false ∧ m 0 0x0F 0x20 0x20 4 4 = false ∧
    m 0x11 0x0F 0x20 0x20 4 4 = false ∧ m 0x10 0x10 0x21 0xFF 4 4 = false ∧ m 0x10 0x10 0 0x1F 4 4 = false ∧
    m 0x10 0x10 0x20 0x20 11 4 = false ∧ m 0x10 0x10 0x20 0x20 4 11 = false := by decide

/-- A reply that closed its exchange goes on: it reaches the rule list, passes it, and is carried to the requester's port. -/
theorem test_meets_matched_reply_carried :
    let x : Exchange := ⟨1, none, ⟨0x30, 0x10, 1⟩, 1, .flooded, false, 3, .awaitReply, 0⟩
    let s : State := holding 3 { frame 0x10 0x30 .request [] with refs := 1 }
      { knowing [{ entry 0x30 .static with port := 1 }] (from10 0x30 .reply) with exchanges := [x] }
    let w := (s.updateMap 0x10 2).1
    (∃ v, PassesRules s (w.closeExchange x .byReply) v ⟨0, 2⟩ [] .normal) ∧
    outputPorts (w.closeExchange x .byReply) ⟨0, 2⟩ 0x30 .normal = [1] ∧
    (w.slot 3).refs = entriesNaming w 3 + 1 ∧ w.heldOutside 3 = false ∧
    ((after .relayDecision s).map fun t => (t.exchanges, t.slot 3, (t.slot 0).refs, (t.port 1).transmitter.queue.length)) =
      some ([], Slot.empty, 1, 1) := by
  refine ⟨⟨_, ⟨deciding (by decide), by decide, by decide, _, continues (h := ⟨0, 2⟩) (by decide),
      .inr (.inr ⟨by decide, _, by decide, by decide, rfl⟩)⟩, .inl ⟨by decide, by decide, rfl, rfl⟩, by decide⟩,
    by decide, by decide, by decide, by decide⟩

/-- Table 6-4: a reply that closes its exchange while a waiting copy of the request is withdrawn; and an orphan. -/
theorem test_meets_reply :
    let x : Exchange := ⟨1, none, ⟨0x30, 0x10, 1⟩, 1, .flooded, false, 3, .awaitReply, 0⟩
    let s : State := holding 3 { frame 0x10 0x30 .request [] with refs := 2 }
      { (from10 0x30 .reply).modifyTransmitter 0 (fun t => { t with queue := [⟨.ordinary, 0, .relayed, 3⟩], state := .waitGap }) with
        exchanges := [x] }
    Deciding s ⟨0, 2⟩ [] ∧ Continues s (s.updateMap (s.slot (⟨0, 2⟩ : HeldFrame).slot).source 2).1 ⟨0, 2⟩ ∧
    ((s.slot 0).kind = .reply ∧ (s.slot 0).destination = 0x30 ∧ (0x30 : Byte) ≠ s.management.ownAddress) ∧
    (s.updateMap 0x10 2).1.exchanges.find? (·.key == ⟨0x30, 0x10, 1⟩) = some x ∧ x.slot ≠ 0 ∧
    ((after .relayDecision s).map fun t => (t.exchanges, t.slot 3, (t.port 0).transmitter.state)) =
      some ([], Slot.empty, .waitGap) ∧
    (Deciding (from10 0x30 .reply) ⟨0, 2⟩ [] ∧ (from10 0x30 .reply).relay.orphanPolicy = .drop) ∧
    ((after .relayDecision (from10 0x30 .reply)).map fun t => t.counters.orphanDrops) = some 1 := by
  refine ⟨deciding (by decide), continues (h := ⟨0, 2⟩) (by decide), by decide, by decide, by decide, by decide,
    ⟨deciding (by decide), by decide⟩, by decide⟩


/-! ## Exchanges and path reports -/

/-- An exchange of 21h on port 2 with 48h, tag 3, in slot 12, in a state with a timer. -/
def exchange (st : ExchangeState) (d : Option Nat) : Exchange := ⟨1, d, ⟨0x21, 0x48, 3⟩, 2, .port 0, true, 12, st, 1⟩

/-- `s` with that exchange open, its request in slot 12 with `refs` references. -/
def tracking (x : Exchange) (refs : Nat) (s : State) : State :=
  holding 12 { frame 0x48 0x21 .request [] with refs := refs } { s with exchanges := [x] }

/-- Departures in each manner, taken by a record in each state at age 0; with a copy still queued; and a completion taken after
part of its timer, and after more than all of it. -/
theorem test_meets_departures :
    let s (m : Manner) (st : ExchangeState) : State := { tracking (exchange st none) 1 serving with
      words := { Words.none with tracker := [⟨⟨0, 12, m⟩, 0⟩] } }
    let aged (n : Nat) : State := { tracking (exchange .sendPending none) 1 serving with
      words := { Words.none with tracker := [⟨⟨0, 12, .completed⟩, n⟩] } }
    let copy : State := (s .discarded .sendPending).modifyTransmitter 0 fun t => { t with queue := [⟨.ordinary, 0, .relayed, 12⟩] }
    (∀ m ∈ [Manner.completed, .discarded, .displaced], ∀ st ∈ [ExchangeState.sendPending, .awaitReply, .retryPending],
      (s m st).phase = .inService ∧ KeysDistinct (s m st) ∧ (s m st).words.tracker.find? (·.slot == 12) = some ⟨⟨0, 12, m⟩, 0⟩ ∧
      (s m st).exchanges.find? (·.slot == 12) = some (exchange st none)) ∧
    (s .discarded .sendPending).entryNames 12 = false ∧ copy.entryNames 12 = true ∧
    (after (.exchangeCompleted 12) (s .completed .sendPending)).map (fun t => t.exchanges.map (fun x => (x.state, x.deadline))) =
      some [(.awaitReply, some (14745600 / 10))] ∧
    ([1000, 2000000].map fun n => (after (.exchangeCompleted 12) (aged n)).map fun t => t.exchanges.map (·.deadline)) =
      [some [some (14745600 / 10 - 1000)], some [some 0]] ∧
    (after (.exchangeDiscarded 12) (s .discarded .retryPending)).map (fun t => (t.exchanges, t.slot 12, t.counters.lineFaults)) =
      some ([], Slot.empty, 1) ∧
    (after (.exchangeDisplaced 12) (s .displaced .sendPending)).map (fun t => t.reports.map (·.reason)) =
      some [.busy .queueFull] ∧
    (after (.exchangeDiscarded 12) copy).map (fun t => t.exchanges) = some [exchange .sendPending none] := by decide

/-- Both expiries at the end of their timers and one cycle before; the retry with room, refused by a down and by a full port,
and not allowed. -/
theorem test_meets_expiries :
    let k : ExchangeKey := ⟨0x21, 0x48, 3⟩
    let s (st : ExchangeState) (n : Nat) := tracking (exchange st (some n)) 1 serving
    let down := (s .awaitReply 0).modifyRecord 0 fun r => { r with admin := .disabled }
    let full := (s .awaitReply 0).modifyTransmitter 0 fun t => { t with queue := List.replicate 16 ⟨.ordinary, 0, .relayed, 5⟩ }
    (∀ x ∈ [s .awaitReply 0, down, full], x.phase = .inService ∧
      x.exchanges.find? (·.key == k) = some (exchange .awaitReply (some 0)) ∧ x.lookup 0x48 = none) ∧
    ((s .awaitReply 1).exchanges.find? (·.key == k)).map (·.deadline) = some (some (0 + 1)) ∧
    ((serving.admin 0).isDown = false ∧ (serving.port 0).transmitter.queue.length < 16) ∧ (down.admin 0).isDown = true ∧
    (full.port 0).transmitter.queue.length = 16 ∧
    (after (.firstExpiry k) (s .awaitReply 0)).map (fun t => (t.counters.retries, (t.slot 12).refs, t.words.timeouts)) =
      some (1, 2, []) ∧
    (after (.firstExpiry k) down).map (fun t => (t.counters.timeouts, t.words.timeouts)) = some (1, [0x48]) ∧
    (after (.firstExpiry k) full).map (fun t => (t.port 0).counters.queueFull) = some 1 ∧
    (s .retryAwait 0).exchanges.find? (·.key == k) = some (exchange .retryAwait (some 0)) ∧
    (after (.secondExpiry k) (s .retryAwait 0)).map (fun t => (t.exchanges, t.words.timeouts, t.reports.map (·.reason))) =
      some ([], [0x48], [.noAnswer .timeout]) ∧
    after (.secondExpiry k) (s .retryAwait 1) = some (s .retryAwait 1) ∧
    (after (.firstExpiry k) (tracking { exchange .awaitReply (some 0) with responderPort := .flooded, retryAllowed := false } 1 serving)).map
      (fun t => t.counters.timeouts) = some 1 := by decide

/-- The silence clause of the second expiry: the word of the timeout with an entry of silence count 2. -/
theorem test_meets_expiry_word :
    let s : State := { knowing [entry 0x48 .static] (tracking (exchange .retryAwait (some 0)) 1 serving) with
      words := { Words.none with timeouts := [0x48] } }
    (∃ e ∈ s.map.entries, e.address = 0x48 ∧ e.silence ≠ 3) ∧ 0x48 ∈ s.words.timeouts ∧
    s.map.entries.Pairwise (fun a b => a.address ≠ b.address) ∧
    (after (.timeoutWord 0x48) s).map (fun t => t.map.entries.map (·.silence)) = some [3] := by decide

/-- A table of four records for the word that port 1 has gone down: the requester's port, the responder's with a copy in
transmission on port 0, FLOODED with no entry left, and FLOODED with one. -/
def tableOfFour : State :=
  let x (slot : SlotId) (a : Byte) (p : Port) (r : ResponderPort) (st : ExchangeState) : Exchange :=
    ⟨1, none, ⟨a, 0x48, 3⟩, p, r, false, slot, st, 1⟩
  let used (i : SlotId) (refs : Nat) (s : State) : State := holding i { frame 0x48 0x21 .request [] with refs := refs } s
  let queued := (serving.modifyPort 0 fun y => { y with
      receiver := { y.receiver with state := .echo }
      transmitter := { y.transmitter with
        state := .sending, driverEnable := true, queue := [⟨.ordinary, 0, .relayed, 13⟩, ⟨.ordinary, 0, .relayed, 12⟩] } }).modifyTransmitter
    3 fun t => { t with state := .waitGap, queue := [⟨.ordinary, 0, .relayed, 15⟩] }
  used 12 2 (used 13 2 (used 14 1 (used 15 2 { queued with
    exchanges := [x 12 0x21 1 (.port 0) .sendPending, x 13 0x22 2 (.port 1) .retryPending,
      x 14 0x23 2 .flooded .sendPending, x 15 0x24 2 .flooded .sendPending]
    words := { Words.none with portDown := [1], tracker := [⟨⟨3, 14, .discarded⟩, 5⟩, ⟨⟨0, 15, .discarded⟩, 5⟩] } })))

theorem test_meets_port_down :
    tableOfFour.phase = .inService ∧ 1 ∈ tableOfFour.words.portDown ∧ PoolConsistent tableOfFour ∧
    slotsClosed tableOfFour 1 = [12, 13, 14] ∧ [12, 13, 14].map (entriesSendingSlot tableOfFour) = [0, 1, 0] ∧
    (tableOfFour.exchanges.map (portDownOutcome tableOfFour 1) = [.silent, .reported, .reported, .stays]) ∧
    (after (.portDownWord 1) tableOfFour).map (fun t =>
      (t.exchanges.map (·.slot), t.reports.map (·.key.requester), t.counters.portDownClosures)) =
      some ([15], [0x22, 0x23], 2) ∧
    (after (.portDownWord 1) tableOfFour).map (fun t =>
      ([12, 13, 14, 15].map (fun i => (t.slot i).refs), (t.port 0).transmitter.queue.map (·.slot),
        t.words.tracker.map (·.slot))) = some ([0, 1, 0, 2], [13], [15]) := by
  refine ⟨by decide, by decide, by decide, by decide, by decide, by decide, by decide, by decide⟩

/-- Port 2 full of PRIORITY entries, and with one ORDINARY entry of slot 5 (with one reference) among them. -/
def crowded (s : State) : State := s.modifyTransmitter 2 fun t => { t with
  queue := List.replicate 16 ⟨.priority, 0, .generated, 6⟩, state := .waitGap }
def yielding (s : State) : State := holding 5 { frame 2 3 .datagram [] with refs := 1 } (s.modifyTransmitter 2 fun t => { t with
  queue := List.replicate 15 ⟨.priority, 0, .generated, 6⟩ ++ [⟨.ordinary, 0, .relayed, 5⟩], state := .waitGap })

/-- A report on a port with room, on one that is down, on one with a full queue, and with no slot FREE. -/
theorem test_meets_report :
    let s : State := { serving with reports := [⟨.noAnswer .timeout, ⟨0x21, 0x48, 3⟩, 2⟩] }
    let down := s.modifyRecord 2 fun r => { r with admin := .disabled }
    (s.phase = .inService ∧ s.lowestFree = some 0 ∧ (withFree 0 s).lowestFree = none ∧ down.heldOutside 0 = false) ∧
    (after .pathReport s).map (fun t => ((t.slot 0).payload, (t.port 2).transmitter.queue.length)) =
      some ([1, 1, 0x48], 1) ∧
    (after .pathReport down).map (fun t => (t.slot 0, t.counters.reportsLost)) = some (Slot.empty, 1) ∧
    (RefusesReply (crowded s) 2 ∧ (crowded s).heldOutside 0 = false ∧ (crowded s).lowestFree = some 0) ∧
    (after .pathReport (crowded s)).map (fun t => (t.slot 0, t.counters.reportsLost, (t.port 2).counters.queueFull)) =
      some (Slot.empty, 1, 1) ∧
    (after .pathReport (withFree 0 s)).map (fun t => (t.reports, t.counters.reportsLost)) = some ([], 1) := by
  refine ⟨by decide, by decide, by decide, ⟨.inr (by decide), by decide, by decide⟩, by decide, by decide⟩

/-! ## Notices -/

/-- `s` with `n` notices whose last number is 255, and a target. -/
def noting (n : Nat) (target : Option Byte) (s : State) : State :=
  { s with notices := { s.notices with
    list := (List.range n).map fun i => ⟨byteOf (256 - n + i), .stationMoved, byteOf (i + 1), 0⟩, target := target } }

/-- A raise that joins at 7 notices, is lost at 8 with the lost count at 254 and 255, and is coalesced. -/
theorem test_meets_raise :
    let n : RaisedNotice := ⟨.stationMoved, 0x50, 1⟩
    let s (k : Nat) (lost : Byte) (r : RaisedNotice) : State :=
      { noting k none { serving with notices := { serving.notices with lost := lost } } with words := { Words.none with raised := [r] } }
    (∀ k ∈ [7, 8], (s k 0 n).phase = .inService ∧ n ∈ (s k 0 n).words.raised ∧
      (∀ r ∈ (s k 0 n).words.raised, r.kind ≠ .imageResult) ∧
      (∀ x ∈ (s k 0 n).notices.list, ¬ (x.kind = n.kind ∧ x.subject = n.subject)) ∧ (s k 0 n).notices.list.length = k) ∧
    (∃ x ∈ (s 8 0 ⟨.stationMoved, 8, 1⟩).notices.list, x.kind = .stationMoved ∧ x.subject = 8) ∧
    (after (.noticeRaise n) (s 7 0 n)).map (fun t => (t.notices.list.length, t.notices.next)) = some (8, 1) ∧
    [(254 : Byte), 255].map (fun l => (after (.noticeRaise n) (s 8 l n)).map (fun t => t.notices.lost)) =
      [some 255, some 255] ∧
    (after (.noticeRaise ⟨.stationMoved, 8, 1⟩) (s 8 0 ⟨.stationMoved, 8, 1⟩)).map (fun t => t.notices) =
      some (s 8 0 n).notices := by decide

/-- Two MAP_FULL raises of one port outstanding together: the one taken first gives the detail, the other coalesces. -/
theorem test_meets_raises_in_either_order :
    let a : RaisedNotice := ⟨.mapFull, 2, 0x41⟩
    let b : RaisedNotice := ⟨.mapFull, 2, 0x42⟩
    let s : State := { serving with words := { Words.none with raised := [a, b] } }
    [(a, b), (b, a)].map (fun x => ((after (.noticeRaise x.1) s).bind (after (.noticeRaise x.2))).map fun t =>
      t.notices.list.map (·.detail)) = [some [0x41], some [0x42]] := by decide

/-- IMAGE_RESULT outstanding beside another raise: the other waits, IMAGE_RESULT takes number 0. -/
theorem test_meets_image_result_first :
    let n : RaisedNotice := ⟨.portIsolated, 1, 0⟩
    let r : RaisedNotice := ⟨.imageResult, 0, 1⟩
    let s : State := { serving with words := { Words.none with raised := [r, n] } }
    (s.phase = .inService ∧ n ∈ s.words.raised ∧ r ∈ s.words.raised ∧ NoticesInOrder s) ∧
    after (.noticeRaise n) s = some s ∧
    (after (.noticeRaise r) s).map (fun t => (t.notices.list, t.notices.next, t.words.raised)) =
      some ([⟨0, .imageResult, 0, 1⟩], 1, [n]) := by decide

/-- A send to a mapped target, by flooding, to ports all down, with no slot FREE; and nothing to send. -/
theorem test_meets_notice_send :
    let s := noting 1 (some 0x50) serving
    let down := s.modifyPorts fun x => { x with record := { x.record with admin := .disabled } }
    let stopped := { s with notices := { s.notices with timer := some 0 } }
    (s.phase = .inService ∧ s.notices.list = ⟨255, .stationMoved, 1, 0⟩ :: [] ∧ s.notices.target = some 0x50 ∧
      0x50 ≠ s.management.ownAddress ∧ s.notices.inFlight = none ∧ s.notices.timer = none ∧ s.lowestFree = some 0) ∧
    (∀ p ∈ allPorts, (s.admin p).isDown = false ∧ (s.port p).transmitter.queue.length < 16) ∧
    (∀ p ∈ allPorts, (down.admin p).isDown = true) ∧ down.heldOutside 0 = false ∧
    (after .noticeSend s).map (fun t => (t.notices.inFlight, (t.slot 0).payload)) =
      some (some ⟨0, 255, 4, false⟩, [3, 255, 3, 1, 0, 0]) ∧
    (after .noticeSend (knowing [entry 0x50 .static] s)).map (fun t => t.notices.inFlight) = some (some ⟨0, 255, 1, false⟩) ∧
    (after .noticeSend down).map (fun t => t.notices.timer) = some (some (5 * 14745600)) ∧
    (after .noticeSend (withFree 0 s)).map (fun t => t.notices.slotWait) = some true ∧
    (stopped.notices.timer ≠ none ∧ after .noticeSend stopped = some stopped) ∧
    (stopped.notices.timer = some 0 ∧ (after .noticeIntervalExpiry stopped).map (fun t => t.notices.timer) = some none) := by
  decide

/-- A send with the queue of one port full of PRIORITY entries: the others take their copies, alone it ends the send. -/
theorem test_meets_notice_refused :
    let s := noting 1 (some 0x50) serving
    (((crowded s).port 2).transmitter.queue.length = 16 ∧
      (∀ x ∈ ((crowded s).port 2).transmitter.waiting, x.band = .priority) ∧ (crowded s).heldOutside 0 = false) ∧
    (after .noticeSend (crowded s)).map (fun t => (t.notices.inFlight, (t.port 2).counters.queueFull)) =
      some (some ⟨0, 255, 3, false⟩, 1) ∧
    (after .noticeSend (crowded (knowing [{ entry 0x50 .static with port := 2 }] s))).map (fun t =>
      (t.notices.inFlight, t.notices.timer, t.slot 0, (t.port 2).counters.queueFull)) =
      some (none, some (5 * 14745600), Slot.empty, 1) := by decide

/-- Departures of copies: one of two, the last with its notice at the head, with another at the head, and with a head of the same
number when the notice carried has been acknowledged. An acknowledgment of the notice carried is noted. -/
theorem test_meets_copies :
    let s' (acked : Bool) (copies : Nat) (k : Byte) : State := { noting 1 (some 0x50) serving with
      notices := { (noting 1 (some 0x50) serving).notices with inFlight := some ⟨0, k, copies, acked⟩ }
      words := { Words.none with noticeCopies := [⟨0, 0, .completed⟩] } }
    let s := s' false
    (∀ c ∈ [1, 2], (s c 255).phase = .inService ∧ (s c 255).words.noticeCopies = ⟨0, 0, .completed⟩ :: [] ∧
      (s c 255).notices.inFlight = some ⟨0, 255, c, false⟩) ∧ (s 1 255).notices.list = [⟨255, .stationMoved, 1, 0⟩] ∧
    (after .noticeCopyDeparture (s 2 255)).map (fun t => t.notices.inFlight) = some (some ⟨0, 255, 1, false⟩) ∧
    (after .noticeCopyDeparture (s 1 255)).map (fun t => t.notices.timer) = some (some (5 * 14745600)) ∧
    (after .noticeCopyDeparture (s 1 254)).map (fun t => (t.notices.inFlight, t.notices.timer)) = some (none, none) ∧
    (after .noticeCopyDeparture (s' true 1 255)).map (fun t => (t.notices.inFlight, t.notices.timer)) = some (none, none) ∧
    [254, 255].map (fun k => ((s 2 255).acknowledge k).map fun t => t.notices.inFlight) =
      [none, some (some ⟨0, 255, 2, true⟩)] := by decide

/-! ## Resets, restarts and the image -/

theorem test_meets_release :
    (State.reset.phase = .inReset ∧ State.reset.loader.status = .notRun) ∧ serving.phase ≠ .inReset ∧
    after (.coldStart true) serving = some serving ∧
    (after (.coldStart true) State.reset).map (fun t => (t.phase, t.loader.state)) = some (.loading, .pass1) ∧
    (after (.coldStart true) State.reset).map (fun t => (t.pins.scs, t.pins.sdo.take 9)) =
      some ([true, false], [false, false, false, false, false, false, true, true, false]) := by decide

/-- A pending restart, at the end of its timer and one cycle before, taken by its reply's departure, or already taken. -/
theorem test_meets_restarts :
    let s (k : RestartKind) (n : Nat) : State := { serving with
      management := { serving.management with pendingRestart := some ⟨k, n⟩, watch := [⟨1, .restart⟩, ⟨2, .setRate 3⟩] }
      words := { Words.none with watchedReplies := [⟨0, 1, .completed⟩, ⟨0, 2, .completed⟩] } }
    (∀ k ∈ [RestartKind.flush, .cold], (s k 0).phase = .inService ∧ (s k 0).management.pendingRestart = some ⟨k, 0⟩) ∧
    (s .cold 1).management.pendingRestart.map (·.timer) = some 1 ∧
    ((s .cold 1).words.watchedReplies.find? (·.slot == 1) = some ⟨0, 1, .completed⟩ ∧
      (s .cold 1).management.watch.find? (·.slot == 1) = some ⟨1, .restart⟩ ∧
      (s .cold 1).management.watch.find? (·.slot == 2) = some ⟨2, .setRate 3⟩) ∧
    (after .restartTimerExpiry (s .flush 0)).map (fun t => (t.phase, t.management.causes.flush)) =
      some (.flushing false, true) ∧
    (after .restartTimerExpiry (s .cold 0)).map (fun t => (t.phase, t.management.causes)) =
      some (.inReset, ⟨true, false, true, false⟩) ∧
    after .restartTimerExpiry (s .cold 1) = some (s .cold 1) ∧
    (after (.watchedReplyDeparture 1) (s .cold 1)).map (fun t => t.phase) = some .inReset ∧
    (after (.watchedReplyDeparture 2) (s .cold 1)).map (fun t => t.words.rateReplies) = some [3] ∧
    after .restartTimerExpiry serving = some serving := by decide

theorem test_meets_flush_end :
    let s (b : Bool) : State := { serving with phase := .flushing b, timeBase := ⟨14745, 0, .fill 0⟩ }
    (s true).phase = .flushing true ∧ (s false).pending = [] ∧ tickCycles 0 ≤ 14745 + 1 ∧
    (after .flushEnd (s true)).map (fun t => t.phase) = some .inService ∧ after .flushEnd (s false) = some (s false) ∧
    (tick (s false)).phase = .flushing true := by decide

/-- The image of section 11.3.1, as pass 1 reads it and with record 3's interval changed to 0. -/
def workedRecords (interval : Byte) : List (List Byte) := [[0x11, 0x48, 0, 1, 1], [0x51, 0x20], [0x52, 0x0A, interval]]
def workedImage (interval : Byte) : SerialMemory :=
  let body := imageBody (workedRecords 5)
  memoryOf (imageBody (workedRecords interval) ++ [highByte (checkOf body), lowByte (checkOf body)]) true

/-- `s` after a list of commands. -/
def afterAll : List Instr → State → Option State
  | [], s => some s
  | c :: cs, s => (after c s).bind (afterAll cs)

/-- Table 11-2: pass 1 accepts, record 3 is skipped, pass 2 ends CHANGED, and IMAGE_RESULT carries detail 3. -/
def workedLoad : State :=
  (afterAll [.coldStart true, .pass1End (workedImage 5), .imageRecord (workedImage 0), .imageRecord (workedImage 0),
    .imageRecord (workedImage 0), .pass2End (workedImage 0)] State.reset).getD State.reset

theorem test_worked_image :
    (workedImage 5).bits.length = 8 * 21 ∧ workedLoad.management.ownAddress = 0x20 ∧
    workedLoad.lookup 0x48 = some ⟨0x48, .static, 0, true, 0, 1⟩ ∧ workedLoad.notices.target = none ∧
    workedLoad.loader.errors = 1 ∧ workedLoad.loader.status = .changed ∧
    workedLoad.words.raised = [⟨.imageResult, 0, 3⟩] := by decide

/-- A loader in pass 1. -/
def inPass1 : State := (after (.coldStart true) State.reset).getD State.reset

/-- Bytes come most significant bit first, the pull behind them. -/
theorem test_meets_memory :
    memoryByte ⟨[true], false⟩ 0 = 0x80 ∧ memoryByte ⟨[false, true], true⟩ 0 = 0x7F ∧ memoryByte ⟨[], true⟩ 3 = 0xFF ∧
    memoryByte (memoryOf [0xC7, 0x1A] false) 1 = 0x1A ∧ memoryByte (memoryOf [0xC7, 0x1A] false) 2 = 0 := by decide

/-- Pass 1 on no memory with either pull, on headers out of range, and on walks that break at the first record and at a later one:
no room for a record, a length of 0 and of 61, one byte too long, the count reached before the trailer. -/
theorem test_meets_pass1 :
    let header (count high low : Byte) : List Byte := [0xC7, 0x1A, 1, count, high, low]
    let m (bytes : List Byte) : SerialMemory := memoryOf bytes true
    (inPass1.phase = .loading ∧ inPass1.loader.state = .pass1) ∧
    (([memoryOf [] true, memoryOf [] false, m [0xC7, 0x1A, 2], m (header 0 0 7), m (header 0 0x10 1),
       m (header 1 0 8), m (header 1 0 9 ++ [0]), m (header 1 0x10 0 ++ [61]), m (header 1 0 9 ++ [1, 0x99]),
       m (header 2 0 12 ++ [1, 0x99, 0]), m (header 2 0 13 ++ [1, 0x99, 61]), m (header 2 0 10 ++ [1, 0x99]),
       m (header 0 0 9), m (header 1 0 11 ++ [1, 0x99, 0])].map
      fun m => (after (.pass1End m) inPass1).map (fun t => (t.loader.status, t.pins.scs))) =
      some (.noImage, [true, false, true]) :: List.replicate 13 (some (.rejectedFormat, [true, false, true]))) := by decide

/-- The walks of those images, as the statement has them. -/
theorem test_meets_walks :
    let header (count low : Byte) : List Byte := [0xC7, 0x1A, 1, count, 0, low]
    let m (bytes : List Byte) : SerialMemory := memoryOf bytes true
    (WalksPast (m (header 2 12 ++ [1, 0x99, 0])) 10 1 ∧ recordOffset (m (header 2 12 ++ [1, 0x99, 0])) 1 = 8 ∧
      memoryByte (m (header 2 12 ++ [1, 0x99, 0])) 8 = 0) ∧
    (WalksPast (m (header 2 10 ++ [1, 0x99])) 8 1 ∧ recordOffset (m (header 2 10 ++ [1, 0x99])) 1 = 10 - 2) ∧
    (WalksPast (m (header 1 9 ++ [1, 0x99])) 7 0 ∧ 9 - 2 < recordOffset (m (header 1 9 ++ [1, 0x99])) 1) ∧
    (WalksPast (m (header 1 11 ++ [1, 0x99])) 9 1 ∧ recordOffset (m (header 1 11 ++ [1, 0x99])) 1 ≠ 11 - 2) ∧
    (WalksPast (m (header 0 8 ++ [0, 0])) 6 0 ∧ recordOffset (m (header 0 8 ++ [0, 0])) 0 = 8 - 2 ∧
      numberOf (memoryByte (m (header 0 8 ++ [0, 0])) 6) (memoryByte (m (header 0 8 ++ [0, 0])) 7) ≠
        (checkOf (memoryBytes (m (header 0 8 ++ [0, 0])) 0 6)).toNat) := by
  refine ⟨⟨?_, by decide, by decide⟩, ⟨?_, by decide⟩, ⟨?_, by decide⟩, ⟨?_, by decide⟩, ?_, by decide, by decide⟩ <;>
    (unfold WalksPast; decide)

/-- Images with no record and with records of 1 and 60 bytes, within the sizes of the layout. -/
theorem test_meets_image :
    (∀ rs ∈ [[], [[0x99], List.replicate 60 1]], rs.length ≤ 255 ∧ (∀ r ∈ rs, 1 ≤ r.length ∧ r.length ≤ 60) ∧
      (imageBody rs).length + 2 ≤ 4096) ∧
    (after (.pass1End (memoryOf (imageBody [] ++ [highByte (checkOf (imageBody [])), lowByte (checkOf (imageBody []))]) true)) inPass1).map
      (fun t => (t.loader.state, t.loader.totalLength, t.pins.scs)) = some (.pass2, 8, [true, false, true, false]) ∧
    (after (.pass1End (memoryOf (imageBody [] ++ [0, 0]) true)) inPass1).map (fun t => t.loader.status) = some .rejectedCheck := by
  decide

/-- A loader in pass 2 of an image of one record. -/
def inPass2 (r : List Byte) : State := (after (.pass1End (oneRecord r)) inPass1).getD State.reset
where
  oneRecord (r : List Byte) : SerialMemory :=
    memoryOf (imageBody [r] ++ [highByte (checkOf (imageBody [r])), lowByte (checkOf (imageBody [r]))]) true

theorem recordAt {m : SerialMemory} {s : State} {pos n : Nat}
    (h : s.phase = .loading ∧ s.loader.state = .pass2 ∧
      (s.loader.position = 0 ∧ pos = 6 ∧ memoryBytes m 0 6 = s.loader.header) ∧ (memoryByte m pos).toNat = n ∧
      (1 ≤ n ∧ n ≤ 60) ∧ s.loader.recordsRead < s.loader.recordCount ∧ pos + 1 + n ≤ s.loader.totalLength - 2) :
    RecordAt m s pos n := by
  obtain ⟨a, b, c, d, e, f, g⟩ := h
  exact ⟨a, b, .inr c, d, e, f, g⟩

/-- The one record of an image that pass 2 is to read next, as `RecordOf` asks. -/
theorem recordOf {r args : List Byte} {code : Byte}
    (h : (let m := inPass2.oneRecord r
      let s := inPass2 r
      s.phase = .loading ∧ s.loader.state = .pass2 ∧
      (s.loader.position = 0 ∧ 6 = 6 ∧ memoryBytes m 0 6 = s.loader.header) ∧ (memoryByte m 6).toNat = r.length ∧
      (1 ≤ r.length ∧ r.length ≤ 60) ∧ s.loader.recordsRead < s.loader.recordCount ∧
      6 + 1 + r.length ≤ s.loader.totalLength - 2) ∧
      memoryByte (inPass2.oneRecord r) 7 = code ∧
      (memoryBytes (inPass2.oneRecord r) 8 (r.length - 1)).take args.length = args ∧ args.length < r.length) :
    RecordOf (inPass2.oneRecord r) 6 r.length (inPass2 r) code args := by
  obtain ⟨a, b, c, d⟩ := h
  exact ⟨recordAt a, b, c, d⟩

/-- What the one record `r` of an image leaves, read after `f` has changed the state. -/
def recordLeaves (r : List Byte) (f : State → State) : Option State :=
  after (.imageRecord (inPass2.oneRecord r)) (f (inPass2 r))

/-- Faulty records: codes outside the eleven, and each code with one argument too few. -/
theorem test_meets_faulty_records :
    let short : List (Instr × List Byte) := [(.writeStation, [0x11, 1, 0, 0]), (.insertRule, [0x21, 0, 0, 0, 0, 0, 1, 1, 0]),
      (.setRuleDefaults, [0x24, 0]), (.setPortState, [0x31, 0]), (.setRate, [0x32, 0, 0]), (.setPortOptions, [0x34, 0]),
      (.setTimeouts, [0x41, 1, 1, 1]), (.setAging, [0x42, 0]), (.setManagers, [0x50, 2, 1]), (.setAddress, [0x51]),
      (.setNoticeTarget, [0x52, 1])]
    (∀ r ∈ [[0x99], [0x60, 1], [0x41, 1, 1, 1], [0x50]], RecordAt (inPass2.oneRecord r) (inPass2 r) 6 r.length) ∧
    (∀ x ∈ short, requestCode x.1 = x.2.head? ∧ x.2.length - 1 < argumentCount x.1 x.2.tail) ∧
    (∀ r ∈ [0x99] :: [0x60, 1] :: [0x50] :: short.map (·.2), (recordLeaves r id).map (fun t => t.loader.errors) = some 1) := by
  refine ⟨?_, by decide, by decide⟩
  simp only [List.mem_cons, List.not_mem_nil, or_false]
  rintro r (e | e | e | e) <;> subst e <;> exact recordAt (by decide)

/-- A record of each configuring code with good arguments, the last bytes of some unused, and its effect. -/
theorem test_meets_configuration_records :
    let f : List Byte := [0, 255, 0, 255, 15, 15, 2, 3]
    RecordOf (inPass2.oneRecord [0x11, 0x48, 3, 3, 1, 9]) 6 6 (inPass2 [0x11, 0x48, 3, 3, 1, 9]) 0x11 [0x48, 3, 3, 1] ∧
    RecordOf (inPass2.oneRecord (0x21 :: 0 :: f)) 6 10 (inPass2 (0x21 :: 0 :: f)) 0x21 (0 :: f) ∧
    RecordOf (inPass2.oneRecord [0x50, 2, 1, 254, 9]) 6 5 (inPass2 [0x50, 2, 1, 254, 9]) 0x50 [2, 1, 254] ∧
    (recordLeaves [0x11, 0x48, 3, 3, 1, 9] id).map (fun t => t.map.entries) = some [⟨0x48, .static, 3, true, 0, 3⟩] ∧
    (recordLeaves [0x11, 0x48, 3, 3, 1] (knowing [entry 0x48 .static])).map (fun t => t.map.entries) =
      some [⟨0x48, .static, 3, true, 0, 3⟩] ∧
    (recordLeaves [0x11, 0xC0, 0, 0, 0] (knowing (fullMap fun _ => .static))).map (fun t => t.loader.errors) = some 1 ∧
    (recordLeaves [0x11, 0xC0, 0, 0, 0] (knowing (fullMap fun n => if n = 9 then .learned 2 else .static))).map
      (fun t => ((t.lookup 10).isSome, t.map.entries.length)) = some (false, 96) ∧
    (recordLeaves (0x21 :: 0 :: f) id).map (fun t => t.relay.rules.length) = some 1 ∧
    (recordLeaves [0x24, 1, 0] id).map (fun t => (t.relay.defaultAction, t.relay.orphanPolicy)) = some (.drop, .pass) ∧
    (recordLeaves [0x41, 1, 1, 1, 255] id).map (fun t => t.timeoutTable) = some ⟨10, 10, 10, 2550⟩ ∧
    (recordLeaves [0x42, 14, 16] id).map (fun t => (t.map.period, t.map.timer)) = some (3600, none) ∧
    (recordLeaves [0x50, 2, 1, 254, 9] id).map (fun t => t.management.managers) = some [1, 254] ∧
    (recordLeaves [0x51, 0x20] (knowing [entry 0x20 .static])).map (fun t => (t.management.ownAddress, t.map.entries)) =
      some (0x20, []) ∧
    recordLeaves [0x51, 0xFE] id = some (recordRead (inPass2.oneRecord [0x51, 0xFE]) 6 2 (inPass2 [0x51, 0xFE])) ∧
    (recordLeaves [0x52, 0x20, 60] id).map (fun t => (t.notices.target, t.notices.interval)) = some (some 0x20, 60) := by
  refine ⟨recordOf (by decide), recordOf (by decide), recordOf (by decide), ?_⟩
  decide

/-- Configuring and port records with each argument just out of range: all are skipped. -/
theorem test_meets_bad_records :
    ∀ r ∈ ([[0x11, 0, 0, 0, 0], [0x11, 255, 0, 0, 0], [0x11, 0xFE, 0, 0, 0], [0x11, 1, 4, 0, 0], [0x11, 1, 0, 4, 0], [0x11, 1, 0, 0, 2],
       [0x21, 1, 0, 0, 0, 0, 1, 1, 0, 0], [0x21, 0, 0, 0, 0, 0, 16, 1, 0, 0], [0x21, 0, 0, 0, 0, 0, 1, 16, 0, 0],
       [0x21, 0, 0, 0, 0, 0, 1, 1, 3, 0], [0x21, 0, 0, 0, 0, 0, 1, 1, 0, 4], [0x24, 2, 0], [0x24, 0, 2], [0x41, 1, 1, 1, 0],
       [0x42, 0, 9], [0x42, 14, 17], [0x50, 5], [0x50, 1, 0], [0x51, 0], [0x51, 255], [0x52, 255, 1], [0x52, 1, 0], [0x52, 1, 61],
       [0x31, 4, 0], [0x31, 0, 3], [0x32, 4, 0, 1], [0x32, 0, 8, 1], [0x32, 0, 0, 0], [0x32, 0, 0, 31], [0x34, 4, 0], [0x34, 0, 8]] :
         List (List Byte)),
      (recordLeaves r id).map (fun t => (t.loader.errors, t.loader.recordsRead)) = some (1, 1) := by decide

/-- A record of each code that sets a port, with its effect. -/
theorem test_meets_port_records :
    RecordOf (inPass2.oneRecord [0x32, 3, 7, 30]) 6 4 (inPass2 [0x32, 3, 7, 30]) 0x32 [3, 7, 30] ∧
    (((inPass2 [0x32, 3, 7, 30]).port 3).receiver.state = .off ∧ ((inPass2 [0x32, 3, 7, 30]).port 3).transmitter.state = .off ∧
      (inPass2 [0x34, 3, 2]).admin 3 ≠ .isolated) ∧
    ([(0 : Byte), 1, 2].map fun a => (recordLeaves [0x31, 3, a] id).map fun t => (t.admin 3, (t.port 3).transmitter.state)) =
      [some (.enabled, .off), some (.held, .off), some (.disabled, .off)] ∧
    (recordLeaves [0x32, 3, 7, 30] id).map (fun t => ((t.port 3).record.currentRate, (t.port 3).record.confirmedRate,
      (t.port 3).record.ratePhase)) = some (7, 7, .steady) ∧
    (recordLeaves [0x34, 3, 2] id).map (fun t => (t.port 3).record.optionsCharacter) = some 2 := by
  refine ⟨recordOf (by decide), ?_⟩
  decide

/-- The ends of pass 2: a changed header, a changed check, APPLIED, APPLIED_WITH_ERRORS, an image with no record, and a walk
that leaves its layout at its first record (length 0, above 60, past the trailer), later, or at the trailer. -/
theorem test_meets_pass2_end :
    let s (r : List Byte) := (after (.imageRecord (inPass2.oneRecord r)) (inPass2 r)).getD State.reset
    let walk := (after (.imageRecord (workedImage 5)) ((after (.pass1End (workedImage 5)) inPass1).getD State.reset)).getD State.reset
    let empty : SerialMemory := memoryOf (imageBody [] ++ [highByte (checkOf (imageBody [])), lowByte (checkOf (imageBody []))]) true
    let atEmpty := (after (.pass1End empty) inPass1).getD State.reset
    let first (n : Byte) : SerialMemory := memoryOf ((imageBody [[0x99]]).take 6 ++ [n, 0x99, 0, 0]) true
    let altered (f : ImageLoader → ImageLoader) : State := { s [0x99] with loader := f (s [0x99]).loader }
    let status (m : SerialMemory) (x : State) := (after (.pass2End m) x).map fun t => t.loader.status
    (∀ x ∈ [s [0x99], s [0x42, 0, 10], walk, atEmpty, inPass2 [0x99]], x.phase = .loading ∧ x.loader.state = .pass2) ∧
    ((inPass2 [0x99]).loader.position = 0 ∧ memoryBytes ⟨[], true⟩ 0 6 ≠ (inPass2 [0x99]).loader.header ∧
      (∀ n ∈ [(0 : Byte), 61, 2], memoryBytes (first n) 0 6 = (inPass2 [0x99]).loader.header)) ∧
    (atEmpty.loader.position = 0 ∧ memoryBytes empty 0 6 = atEmpty.loader.header ∧
      atEmpty.loader.recordCount ≤ atEmpty.loader.recordsRead ∧ 6 = atEmpty.loader.totalLength - 2 ∧
      checkOf (memoryBytes empty 0 6) = atEmpty.loader.pass1Check) ∧
    (walk.loader.position ≠ 0 ∧ walk.loader.recordsRead < walk.loader.recordCount ∧
      memoryByte ⟨[], false⟩ walk.loader.position = 0) ∧
    [status (inPass2.oneRecord [0x42, 0, 10]) (s [0x42, 0, 10]), status (inPass2.oneRecord [0x99]) (s [0x99]), status empty atEmpty] =
      [some .applied, some .appliedWithErrors, some .applied] ∧
    [status ⟨[], true⟩ (inPass2 [0x99]), status ⟨[], false⟩ walk, status (first 0) (inPass2 [0x99]),
      status (first 61) (inPass2 [0x99]), status (first 2) (inPass2 [0x99]),
      status (inPass2.oneRecord [0x99]) (altered fun l => { l with runningCheck := l.runningCheck + 1 }),
      status (inPass2.oneRecord [0x99]) (altered fun l => { l with totalLength := 11 })] =
      List.replicate 7 (some .changed) ∧
    after (.pass2End (inPass2.oneRecord [0x99])) (inPass2 [0x99]) = some (inPass2 [0x99]) := by decide

/-! ## Management requests -/

/-- `s` with a request in slot 0 at the head of the input queue, from station 10h on port `p`. -/
def asking (p : Port) (payload : List Byte) (s : State) : State :=
  { holding 0 (frame s.management.ownAddress 0x10 .request payload) s with
    management := { s.management with queue := [⟨0, p⟩] } }

/-- What `AtHead`, `HasRoom` and `Ready` ask of a request in slot 0 whose reply takes slot 1, as a check on states. -/
def atHeadCheck (p : Port) (payload : List Byte) (s : State) : Bool :=
  s.phase == .inService && s.management.queue == [⟨0, p⟩] && s.lowestFree == some 1 && (s.slot 0).state == .inUse &&
    (s.slot 0).refs == 0 && !s.receiverHolds 0 && s.relay.input.all (·.slot != 0) && (s.slot 0).payload == payload

def readyCheck (p : Port) (payload : List Byte) (s : State) : Bool :=
  atHeadCheck p payload s && s.accepts (s.slot 0).source && !(s.admin p).isDown &&
    decide ((s.port p).transmitter.queue.length < 16)

theorem atHead_of_check {p : Port} {payload : List Byte} {s : State} (h : atHeadCheck p payload s = true) :
    AtHead s ⟨0, p⟩ [] 1 ∧ (s.slot 0).payload = payload := by
  simp only [atHeadCheck, Bool.and_eq_true, beq_iff_eq, Bool.not_eq_true', List.all_eq_true, bne_iff_ne] at h
  obtain ⟨⟨⟨⟨⟨⟨⟨a, b⟩, c⟩, d⟩, e⟩, f⟩, g⟩, k⟩ := h
  exact ⟨⟨a, b, c, d, e, f, g, fun _ hx => absurd hx List.not_mem_nil⟩, k⟩

theorem requested_of_check {p : Port} {payload : List Byte} {s : State} (h : readyCheck p payload s = true) :
    Requested s ⟨0, p⟩ [] 1 payload := by
  simp only [readyCheck, Bool.and_eq_true, Bool.not_eq_true', decide_eq_true_eq] at h
  obtain ⟨⟨⟨a, b⟩, c⟩, d⟩ := h
  obtain ⟨x, y⟩ := atHead_of_check a
  refine ⟨⟨x, ?_, c, d⟩, y⟩
  simpa [State.accepts] using b

/-- Requests are well received: each of these payloads, from station 10h on port 2, meets `Requested` in this state. -/
def meets (s : State) (l : List (List Byte)) : Bool := l.all fun pl => readyCheck 2 pl (asking 2 pl s)

theorem requested_of_meets {s : State} {l : List (List Byte)} (h : meets s l = true) :
    ∀ pl ∈ l, Requested (asking 2 pl s) ⟨0, 2⟩ [] 1 pl := fun pl hp =>
  requested_of_check (by simpa using List.all_eq_true.mp h pl hp)

/-- The payload of the reply that a command builds to a request, in slot 1. -/
def reply (c : Instr) (payload : List Byte) (s : State) : Option (List Byte) :=
  (after c (asking 2 payload s)).map fun t => (t.slot 1).payload

/-- The common part: DENIED, BAD_LENGTH, UNKNOWN_COMMAND, waiting for a slot, and a reply refused at a port that is down. -/
theorem test_meets_common :
    let managed : State := { serving with management := { serving.management with managers := [0x11] } }
    let down (s : State) := s.modifyRecord 2 fun r => { r with admin := .disabled }
    meets serving [[0x10], [0x50, 4, 1, 2, 3], [0x50, 5], [], [0x99]] = true ∧
    (∀ pl ∈ [[0x10, 5], [], [0x99]], atHeadCheck 2 pl (asking 2 pl managed) = true ∧
      (asking 2 pl managed).management.managers ≠ [] ∧ (0x10 : Byte) ∉ (asking 2 pl managed).management.managers) ∧
    (atHeadCheck 2 [0x10, 5] (down (asking 2 [0x10, 5] managed)) = true ∧
      (down (asking 2 [0x10, 5] managed)).heldOutside 1 = false) ∧
    argumentCount .setManagers [4, 1, 2, 3] = 5 ∧
    (withFree 0 (asking 2 [0x10, 5] serving)).lowestFree = none ∧
    reply .readStation [0x10, 5] managed = some [0x10, 1] ∧ reply .readStation [0x10] serving = some [0x10, 8] ∧
    reply .unknownCommand [0x99] serving = some [0x99, 2] ∧ reply .unknownCommand [] serving = some [0, 8] ∧
    reply .unknownCommand [] managed = some [0, 1] ∧
    (after .readStation (down (asking 2 [0x10, 5] managed))).map (fun t => (t.slot 0, t.slot 1, t.management.queue)) =
      some (Slot.empty, Slot.empty, []) := by decide

theorem unheard_of_check {p : Port} {payload : List Byte} {s : State} (h : atHeadCheck p payload s = true)
    (a : s.accepts (s.slot 0).source = true) (r : RefusesReply s p) (n : s.heldOutside 1 = false) :
    Unheard s ⟨0, p⟩ [] 1 payload := by
  obtain ⟨x, y⟩ := atHead_of_check h
  exact ⟨x, by simpa [State.accepts] using a, y, r, n⟩

/-- Replies refused at a full queue and at a down port, and a reply that displaces: DENIED ones, a SET_RATE on the request's own
port, a SET_ADDRESS. -/
theorem test_meets_refused_replies :
    let managed : State := { serving with management := { serving.management with managers := [0x11] } }
    let down (s : State) := s.modifyRecord 2 fun r => { r with admin := .disabled }
    RefusesReply (crowded (asking 2 [0x10, 5] managed)) 2 ∧
    (∀ f ∈ [crowded, down], ∀ pl ∈ [[0x32, 2, 7, 30], [0x51, 0x20]], Unheard (f (asking 2 pl serving)) ⟨0, 2⟩ [] 1 pl) ∧
    (after .readStation (crowded (asking 2 [0x10, 5] managed))).map (fun t =>
      (t.slot 1, t.slot 0, (t.port 2).counters.queueFull)) = some (Slot.empty, Slot.empty, 1) ∧
    (((yielding (asking 2 [0x10, 5] managed)).port 2).transmitter.waiting =
      List.replicate 15 ⟨.priority, 0, .generated, 6⟩ ++ ⟨.ordinary, 0, .relayed, 5⟩ :: []) ∧
    (after .readStation (yielding (asking 2 [0x10, 5] managed))).map (fun t =>
      (t.slot 5, (t.slot 1).payload, (t.port 2).counters.displacements)) = some (Slot.empty, [0x10, 1], 1) ∧
    ([crowded, down].map fun f => (after .setRate (f (asking 2 [0x32, 2, 7, 30] serving))).map fun t =>
      (t.rate 2, (t.port 2).record.ratePhase, t.words.rateReplies, (t.port 2).counters.queueFull)) =
      [some (1, .awaitingReply 7 30, [2], 1), some (1, .awaitingReply 7 30, [2], 0)] ∧
    ([crowded, down].map fun f => (after .setAddress (f (asking 2 [0x51, 0x20] serving))).map fun t =>
      (t.management.ownAddress, t.slot 1, t.management.queue)) = List.replicate 2 (some (0x20, Slot.empty, [])) := by
  refine ⟨.inr (by decide), ?_, by decide, by decide, by decide, by decide, by decide⟩
  simp only [List.mem_cons, List.not_mem_nil, or_false]
  rintro f (e | e) pl (k | k) <;> subst e <;> subst k
  · exact unheard_of_check (by decide) (by decide) (.inr (by decide)) (by decide)
  · exact unheard_of_check (by decide) (by decide) (.inr (by decide)) (by decide)
  · exact unheard_of_check (by decide) (by decide) (.inl (by decide)) (by decide)
  · exact unheard_of_check (by decide) (by decide) (.inl (by decide)) (by decide)

/-- No command's code is 99h. -/
theorem test_code_unknown : ∀ c : Instr, requestCode c ≠ some 0x99 := by
  intro c
  cases c <;> simp [requestCode]

theorem test_meets_status :
    meets serving [[0x01, 0], [0x01, 1], [0x01, 2]] = true ∧
    reply .readStatus [0x01, 0] serving = some [0x01, 0, 0xFE, 1, 0, 0, 46, 0, 0, 0, 0] ∧
    (after .readStatus (asking 2 [0x01, 1] serving)).map (fun t => t.management.causes) =
      some ⟨false, false, false, false⟩ ∧ reply .readStatus [0x01, 2] serving = some [0x01, 3] := by decide

/-- A fall of RESET sets PIN, and PIN_RESET with RESET already low does too (log entry 32). -/
theorem test_pin_reset_sets_pin :
    serving.pins.resetHigh = true ∧
    (after .pinReset serving).map (fun t => (t.pins.resetHigh, t.management.causes)) =
      some (false, ⟨true, true, false, false⟩) ∧
    (after .pinReset { State.reset with pins := { State.reset.pins with resetHigh := false } }).map
      (fun t => (t.pins.resetHigh, t.management.causes)) = some (false, ⟨true, true, false, false⟩) := by decide

theorem test_meets_counters :
    meets serving [[0x02, 3, 0, 15], [0x02, 0, 1, 0], [0x02, 0x0F, 1, 21], [0x02, 4, 0, 0], [0x02, 0, 2, 0],
      [0x02, 3, 0, 16], [0x02, 0x0F, 0, 22]] = true ∧
    reply .readCounters [0x02, 3, 0, 15] serving = some [0x02, 0, 15, 1, 0, 0, 0, 0] ∧
    (reply .readCounters [0x02, 0x0F, 1, 0] serving).map (·.length) = some 60 ∧
    reply .readCounters [0x02, 3, 0, 16] serving = some [0x02, 3] := by decide

/-- READ_EXCHANGES with start indexes 0, 15 and 16, SET_TIMEOUTS with 1, 255 and 0, SET_AGING at both ends of its range. -/
theorem test_meets_exchange_commands :
    let s : State := { serving with exchanges := [exchange .retryAwait (some 7)] }
    meets s [[0x40, 0], [0x40, 15], [0x40, 16], [0x41, 1, 255, 1, 1], [0x41, 1, 1, 1, 0], [0x42, 0, 10], [0x42, 14, 16],
      [0x42, 0, 9], [0x42, 14, 17]] = true ∧ 256 * 14 + 16 = 3600 ∧
    reply .readExchanges [0x40, 0] s = some [0x40, 0, 1, 0x21, 2, 0x48, 0, 3, 1, 3, 1] ∧
    reply .readExchanges [0x40, 15] s = some [0x40, 0, 0] ∧ reply .readExchanges [0x40, 16] s = some [0x40, 3] ∧
    (after .setTimeouts (asking 2 [0x41, 1, 255, 1, 1] s)).map (fun t => t.timeoutTable) = some ⟨10, 2550, 10, 10⟩ ∧
    (after .setAging (asking 2 [0x42, 14, 16] s)).map (fun t => t.map.period) = some 3600 ∧
    reply .setAging [0x42, 14, 17] s = some [0x42, 3] := by decide

/-- The station commands on an entry, on none, on a full map of STATIC entries, and with each argument just out of range. -/
theorem test_meets_station_commands :
    let s := knowing [entry 0x20 .static, entry 0x48 (.learned 3)] serving
    let full := knowing (fullMap fun _ => .static) serving
    meets s [[0x10, 0x48], [0x10, 0x49], [0x13, 0x21], [0x11, 0x48, 3, 3, 1], [0x11, 0x49, 0, 0, 0], [0x11, 0x00, 0, 0, 0],
      [0x11, 0xFF, 0, 0, 0], [0x11, 0xFE, 0, 0, 0], [0x11, 1, 4, 0, 0], [0x11, 1, 0, 4, 0], [0x11, 1, 0, 0, 2], [0x12, 0x48],
      [0x12, 0x49], [0x14, 3], [0x14, 0x0F], [0x14, 4], [0x14, 0x10]] = true ∧
    meets full [[0x11, 0xC0, 0, 0, 0]] = true ∧
    (s.map.entries.Pairwise fun x y => x.address.toNat < y.address.toNat) ∧
    ((∀ x ∈ full.map.entries, x.address ≠ 0xC0 ∧ x.origin = .static) ∧ 96 ≤ full.map.entries.length) ∧
    reply .readStation [0x10, 0x48] s = some [0x10, 0, 0x48, 0, 1, 3, 1, 1, 2] ∧
    reply .readStation [0x10, 0x49] s = some [0x10, 5] ∧
    reply .listStations [0x13, 0x21] s = some [0x13, 0, 1, 0x48, 0, 1, 3] ∧
    (after .writeStation (asking 2 [0x11, 0x49, 3, 2, 0] s)).map (fun t => t.lookup 0x49) =
      some (some ⟨0x49, .static, 3, false, 0, 2⟩) ∧ reply .writeStation [0x11, 0xC0, 0, 0, 0] full = some [0x11, 4] ∧
    (after .removeStation (asking 2 [0x12, 0x20] s)).map (fun t => t.map.entries.length) = some 1 ∧
    reply .flushLearned [0x14, 0x0F] s = some [0x14, 0, 1] := by decide

/-- A STATIC write into a full map with two LEARNED entries, of ages 1 and 2. -/
theorem test_meets_eviction :
    let l := fullMap fun n => if n = 9 then .learned 2 else if n = 4 then .learned 1 else .static
    meets (knowing l serving) [[0x11, 0xC0, 0, 0, 0]] = true ∧ Evicted l (entry 10 (.learned 2)) ∧
    (∀ x ∈ l, x.address ≠ 0xC0) ∧
    (after .writeStation (asking 2 [0x11, 0xC0, 0, 0, 0] (knowing l serving))).map (fun t =>
      ((t.lookup 10).isSome, (t.lookup 5).isSome, (t.lookup 0xC0).isSome, t.map.entries.length)) =
      some (false, true, true, 96) := by
  refine ⟨by decide, ⟨by decide, by decide, by decide, by decide, by decide⟩, by decide, by decide⟩

/-- The rule commands at the ends of the list, on a full list, and with each field just out of range. -/
theorem test_meets_rule_commands :
    let r (n : Count) : Rule := ⟨⟨0, 255, 0, 255, 15, 15, .redirect, 3⟩, n⟩
    let s (n : Nat) : State := { serving with relay := { serving.relay with rules := (List.range n).map fun k => r (BitVec.ofNat 32 k) } }
    let f : List Byte := [0, 255, 0, 255, 15, 15, 2, 3]
    ruleCharacters (r 0).fields = f ∧
    meets (s 2) [[0x20, 1], [0x20, 2], 0x21 :: 2 :: f, 0x21 :: 3 :: f, [0x22, 1], [0x22, 2], 0x23 :: 1 :: f, 0x23 :: 2 :: f,
      [0x24, 1, 1], [0x24, 0, 2], [0x24, 2, 0], [0x21, 0, 0, 0, 0, 0, 16, 0, 0, 0], [0x21, 0, 0, 0, 0, 0, 0, 16, 0, 0],
      [0x23, 0, 0, 0, 0, 0, 0, 0, 3, 0], [0x23, 0, 0, 0, 0, 0, 0, 0, 0, 4]] = true ∧
    meets (s 32) [0x21 :: 32 :: f] = true ∧
    reply .readRule [0x20, 1] (s 2) = some (0x20 :: 0 :: f ++ [0, 0, 0, 1]) ∧ reply .readRule [0x20, 2] (s 2) = some [0x20, 5] ∧
    (after .insertRule (asking 2 (0x21 :: 1 :: f) (s 2))).map (fun t => t.relay.rules.map (·.hits)) = some [0, 0, 1] ∧
    reply .insertRule (0x21 :: 32 :: f) (s 32) = some [0x21, 4] ∧ reply .insertRule (0x21 :: 3 :: f) (s 2) = some [0x21, 3] ∧
    (after .deleteRule (asking 2 [0x22, 0] (s 2))).map (fun t => t.relay.rules.map (·.hits)) = some [1] ∧
    (after .replaceRule (asking 2 (0x23 :: 1 :: f) (s 2))).map (fun t => t.relay.rules.map (·.hits)) = some [0, 0] ∧
    (after .setRuleDefaults (asking 2 [0x24, 1, 0] (s 2))).map (fun t => (t.relay.defaultAction, t.relay.orphanPolicy)) =
      some (.drop, .pass) ∧ reply .replaceRule [0x23, 0, 0, 0, 0, 0, 0, 0, 3, 0] (s 2) = some [0x23, 3] := by decide

/-- The port commands: every transition from every state, a port that goes down under its own request, arguments out of range. -/
theorem test_meets_port_commands :
    let s (a : AdminState) : State := serving.modifyPort 1 fun x => { x with
      record := { x.record with admin := a, recovery := if a = .isolated then some 9 else none }
      receiver := { x.receiver with state := if a.isDown then .off else x.receiver.state }
      transmitter := { x.transmitter with state := if a.isDown then .off else x.transmitter.state } }
    (∀ a ∈ [AdminState.enabled, .held, .disabled, .isolated],
      meets (s a) [[0x31, 1, 0], [0x31, 1, 1], [0x31, 1, 2], [0x34, 1, 7], [0x30, 1]] = true ∧
      PoolConsistent (asking 2 [0x31, 1, 2] (s a))) ∧
    meets serving [[0x30, 4], [0x31, 4, 0], [0x31, 0, 3], [0x34, 4, 0], [0x34, 0, 8], [0x31, 2, 2]] = true ∧
    reply .readPort [0x30, 1] (s .isolated) = some [0x30, 0, 3, 1, 1, 0, 7, 0, 0, 0] ∧
    reply .setPortState [0x31, 1, 2] (s .held) = some [0x31, 0] ∧
    (after .setPortState (asking 2 [0x31, 2, 2] serving)).map (fun t => (t.slot 1, t.words.portDown)) =
      some (Slot.empty, [2]) ∧
    ([AdminState.enabled, .held, .disabled].map fun a => (after .setPortState (asking 2 [0x31, 1, 0] (s a))).map fun t =>
      (t.admin 1, (t.port 1).transmitter.state)) = List.replicate 3 (some (.enabled, .idle)) ∧
    (after .setPortOptions (asking 2 [0x34, 1, 3] (s .isolated))).map (fun t => (t.port 1).record.recovery) = some none ∧
    reply .setPortOptions [0x34, 0, 8] serving = some [0x34, 3] := by decide

/-- A hold that finds the port in a quiet gap keeps the quiet interval, and one that ends a backoff restarts it (R60, R71). -/
theorem test_meets_hold :
    let s (st : TransmitterState) := on1 (fun x => { x with transmitter := { x.transmitter with state := st, quietInterval := 7 } }) serving
    (∀ st ∈ [TransmitterState.waitGap, .backoff], readyCheck 2 [0x31, 1, 1] (asking 2 [0x31, 1, 1] (s st)) = true) ∧
    ([TransmitterState.waitGap, .backoff].map fun st => (after .setPortState (asking 2 [0x31, 1, 1] (s st))).map fun t =>
      ((t.port 1).transmitter.state, (t.port 1).transmitter.quietInterval)) = [some (.idle, 7), some (.idle, 0)] := by decide

/-- The rate commands: windows of 1 and 30 s, on another port and on the request's own, in every phase, and arguments out of
range. -/
theorem test_meets_rate_commands :
    let s (r : RatePhase) : State := serving.modifyRecord 1 fun x => { x with ratePhase := r, currentRate := 7 }
    (∀ r ∈ [RatePhase.steady, .awaitingReply 3 5, .window 30 0],
      meets (s r) [[0x32, 1, 7, 1], [0x32, 1, 0, 30], [0x33, 1]] = true) ∧
    meets serving [[0x33, 4], [0x32, 2, 0, 1], [0x32, 4, 0, 1], [0x32, 0, 8, 1], [0x32, 0, 0, 0], [0x32, 0, 0, 31]] = true ∧
    (∀ r ∈ [RatePhase.steady, .awaitingReply 3 5, .window 30 0],
      reply .confirmRate [0x33, 1] (s r) = some [0x33, match r with | .steady => 7 | .awaitingReply _ _ => 6 | .window _ _ => 0]) ∧
    (after .setRate (asking 2 [0x32, 1, 0, 30] serving)).map (fun t => (t.rate 1, (t.port 1).record.ratePhase)) =
      some (0, .window 30 (14745600 * 30)) ∧
    (after .setRate (asking 2 [0x32, 2, 0, 30] serving)).map (fun t => (t.rate 2, (t.port 2).record.ratePhase)) =
      some (1, .awaitingReply 0 30) ∧
    reply .setRate [0x32, 1, 0, 30] (s (.window 30 0)) = some [0x32, 6] ∧
    reply .setRate [0x32, 0, 0, 31] serving = some [0x32, 3] ∧
    reply .confirmRate [0x33, 4] serving = some [0x33, 3] := by decide

/-- The manager set at 0 and 4 addresses with one twice, a count of 5 and bad addresses; the own address changed, kept and bad. -/
theorem test_meets_manager_commands :
    meets serving [[0x50, 0], [0x50, 4, 1, 2, 1, 254], [0x50, 5], [0x50, 1, 0], [0x50, 1, 255], [0x51, 0x20], [0x51, 0xFE],
      [0x51, 0x00], [0x51, 0xFF]] = true ∧
    (after .setManagers (asking 2 [0x50, 4, 1, 2, 1, 254] serving)).map (fun t => t.management.managers.length) = some 3 ∧
    reply .setManagers [0x50, 5] serving = some [0x50, 3] ∧
    (after .setAddress (asking 2 [0x51, 0x20] (knowing [entry 0x20 .static] serving))).map
      (fun t => (t.management.ownAddress, t.map.entries, (t.slot 1).source)) = some (0x20, [], 0xFE) ∧
    reply .setAddress [0x51, 0xFF] serving = some [0x51, 3] := by decide

/-- The notice target with intervals 1 and 60 and out of range, an acknowledgement of the head and of another number, restarts
of both kinds, one pending, a bad kind, and a reply refused at a port that is down and at a full queue. -/
theorem test_meets_notice_commands :
    let s := noting 2 none serving
    let pend : State := { serving with management := { serving.management with pendingRestart := some ⟨.cold, 5⟩ } }
    let down (k : Byte) := (asking 2 [0x60, k] serving).modifyRecord 2 fun r => { r with admin := .disabled }
    meets s [[0x52, 0, 1], [0x52, 0x20, 60], [0x52, 0xFF, 5], [0x52, 1, 0], [0x52, 1, 61], [0x53, 254], [0x53, 255],
      [0x60, 1], [0x60, 2], [0x60, 0], [0x60, 3]] = true ∧ meets pend [[0x60, 1]] = true ∧
    (s.notices.list.map (·.sequence) = [254, 255]) ∧
    (∀ k ∈ [(1 : Byte), 2], atHeadCheck 2 [0x60, k] (down k) = true) ∧
    (after .setNoticeTarget (asking 2 [0x52, 0x20, 60] s)).map (fun t => (t.notices.target, t.notices.interval)) =
      some (some 0x20, 60) ∧
    (after .ackNotice (asking 2 [0x53, 254] s)).map (fun t => t.notices.list.length) = some 1 ∧
    reply .ackNotice [0x53, 255] s = some [0x53, 7] ∧
    (after .restart (asking 2 [0x60, 2] s)).map (fun t => (t.management.pendingRestart, t.management.watch)) =
      some (some ⟨.cold, 14745600 / 2⟩, [⟨1, .restart⟩]) ∧ reply .restart [0x60, 1] pend = some [0x60, 6] ∧
    (after .restart (down 1)).map (fun t => t.phase) = some (.flushing false) ∧
    (after .restart (down 2)).map (fun t => t.management.causes) = some ⟨true, false, true, false⟩ ∧
    (∀ k ∈ [(1 : Byte), 2], atHeadCheck 2 [0x60, k] (crowded (asking 2 [0x60, k] serving)) = true ∧
      ((crowded (asking 2 [0x60, k] serving)).port 2).transmitter.queue.length = 16 ∧
      ∀ x ∈ ((crowded (asking 2 [0x60, k] serving)).port 2).transmitter.waiting, x.band = .priority) ∧
    (after .restart (crowded (asking 2 [0x60, 1] serving))).map (fun t => (t.phase, (t.port 2).counters.queueFull)) =
      some (.flushing false, 1) ∧
    (after .restart (crowded (asking 2 [0x60, 2] serving))).map (fun t => t.phase) = some .inReset := by decide

/-! ## Invariants -/

/-- A busy state that meets every invariant at once: a frame being received, a request relayed and tracked, a notice list that
wraps, and stations. -/
def busy : State :=
  { filling 5 .body (some 2) (sample [7, 8])
      (tracking (exchange .sendPending none) 2 (knowing [entry 0x20 .static, entry 0x48 (.learned 3)] serving)) with
    notices := { (noting 2 (some 0x50) serving).notices with next := 0 } }.modifyTransmitter 0 fun t =>
      { t with queue := [⟨.ordinary, 0, .relayed, 12⟩], state := .waitGap }

theorem test_meets_invariants :
    NoticesInOrder busy ∧ ExchangesInOrder busy ∧ StationsInOrder busy ∧ PortsCoherent busy ∧ QueuesInOrder busy ∧
    PoolConsistent busy ∧ RatesConfirmed busy ∧ EchoListsHold busy ∧ BackoffNonzero busy ∧ SettingsInRange busy ∧ QuietInReset busy ∧
    PinsFollowLoader busy ∧ (∃ t, step busy = .next t) := by
  refine ⟨by decide, by decide, by decide, by decide, by decide, by decide, by decide, by decide, by decide, by decide,
    by decide, by decide, _, rfl⟩

end Sys2Proof.Tests
end

section
/-! PROOFS. The expiries of an exchange's deadline timer and the word of the timeout (R87, R116, R117). -/

namespace Sys2Proof.Machine

/-! ## What the map names for an address (R78) -/

/-- With one entry an address, the lookup finds the entry that stands in the map. -/
theorem State.lookup_of_mem {s : State} {e : StationEntry} (he : e ∈ s.map.entries)
    (hd : s.map.entries.Pairwise fun a b => a.address ≠ b.address) : s.lookup e.address = some e := by
  have hnodup : (s.map.entries.map (·.address)).Nodup := List.pairwise_map.mpr hd
  cases hf : s.lookup e.address with
  | none => simpa using List.find?_eq_none.mp hf e he
  | some y =>
    have haddr : y.address = e.address := by simpa using List.find?_some hf
    rw [List.inj_on_of_nodup_map hnodup (List.mem_of_find?_eq_some hf) he haddr]

/-- The retry port is the map's port for the responder, and the recorded one with no entry (R116). -/
theorem State.retryPort_eq (s : State) (x : Exchange) (recorded : Port) :
    s.retryPort x recorded = ((s.lookup x.key.responder).map (·.port)).getD recorded := by
  unfold State.retryPort
  cases s.lookup x.key.responder <;> rfl

/-! ## The expiries (R116, R117) -/

theorem exec_firstExpiry_inService {s : State} (k : ExchangeKey) (h : s.phase = .inService) :
    exec (.firstExpiry k) s = .next (expireFirst k s) := State.whenInService_inService _ h

theorem exec_secondExpiry_inService {s : State} (k : ExchangeKey) (h : s.phase = .inService) :
    exec (.secondExpiry k) s = .next (expireSecond k s) := State.whenInService_inService _ h

theorem exec_timeoutWord_inService {s : State} (a : Byte) (h : s.phase = .inService) :
    exec (.timeoutWord a) s = .next (takeTimeoutWord a s) := State.whenInService_inService _ h

theorem Exchange.expiredIn_iff (x : Exchange) (st : ExchangeState) :
    x.expiredIn st = true ↔ x.state = st ∧ x.deadline = some 0 := by
  simp [Exchange.expiredIn]

/-- A record that may be retried on one port has its retry offered when its timer first runs down (R116). -/
theorem expireFirst_of_retryAllowed {s : State} {k : ExchangeKey} {x : Exchange} {p : Port}
    (hf : s.findExchange k = some x) (hx : x.expiredIn .awaitReply = true) (hp : x.responderPort = .port p)
    (hr : x.retryAllowed = true) : expireFirst k s = s.retryExchange x (s.retryPort x p) := by
  simp [expireFirst, hf, hx, hp, hr]

/-- A record in RETRY_AWAIT closes when its timer runs down (R117). -/
theorem expireSecond_of_expired {s : State} {k : ExchangeKey} {x : Exchange} (hf : s.findExchange k = some x)
    (hx : x.expiredIn .retryAwait = true) : expireSecond k s = s.closeExchange x (.noAnswer .timeout) := by
  simp [expireSecond, hf, hx]

/-- A retry on a port with room joins its queue, and the record and the retries counter follow (R116). -/
theorem State.retryExchange_of_room {s : State} {p : Port} (x : Exchange) (h : Statements.HasRoom s p) :
    s.retryExchange x p =
      ((s.joinQueue p ⟨.ordinary, 0, .relayed, x.slot⟩).modifyExchange x.key fun y =>
        { y with attempt := 2, deadline := none, responderPort := .port p, state := .retryPending }).count fun k =>
          { k with retries := stoppingSucc k.retries } := by
  obtain ⟨hup, hroom⟩ := h
  rw [State.retryExchange, State.offer_room s _ hup hroom]

/-- A retry that is queued sends the Station Map no word and leaves the map as it is (R116, R117). -/
theorem State.retryExchange_keeps_silence {s : State} {p : Port} (x : Exchange) (h : Statements.HasRoom s p) :
    (s.retryExchange x p).words.timeouts = s.words.timeouts ∧ (s.retryExchange x p).map = s.map := by
  rw [State.retryExchange_of_room x h, State.joinQueue_only]
  simp

/-! ## The word of a timeout (R87) -/

/-- The word taken for a station with an entry below silence count 3 is used up and raises that count alone. -/
theorem takeTimeoutWord_raises_silence {s : State} {e : StationEntry} (hw : e.address ∈ s.words.timeouts)
    (hl : s.lookup e.address = some e) (h3 : e.silence ≠ 3) :
    (takeTimeoutWord e.address s).words.timeouts = s.words.timeouts.erase e.address ∧
    (takeTimeoutWord e.address s).map.entries = s.map.entries.map fun y =>
      if y.address = e.address then { y with silence := y.silence + 1 } else y := by
  have hl' : (s.modifyWords fun w => { w with timeouts := w.timeouts.erase e.address }).lookup e.address = some e := hl
  simp only [takeTimeoutWord, if_pos hw, hl', if_neg h3]
  by_cases h2 : e.silence = 2 <;> simp [h2]

end Sys2Proof.Machine

namespace Sys2Proof.Statements

open Sys2Proof.Machine

/-- Settles O33: the three clauses are the closure at the second expiry, the retry queued at the first, and the word taken. -/
theorem secondExpiryClosesWithTimeout : Obligations.SecondExpiryClosesWithTimeout := by
  intro k x s hs hf
  refine ⟨fun hst hd => ?closes, fun p hst hd hp hr hroom => ?retries, fun e he ha h3 hw hdistinct => ?rises⟩
  case closes =>
    refine ⟨_, exec_secondExpiry_inService k hs, ?_⟩
    rw [expireSecond_of_expired hf ((x.expiredIn_iff _).mpr ⟨hst, hd⟩)]
    exact closed_closeExchange s x (.noAnswer .timeout)
  case retries =>
    refine ⟨_, exec_firstExpiry_inService k hs, ?_⟩
    rw [expireFirst_of_retryAllowed hf ((x.expiredIn_iff _).mpr ⟨hst, hd⟩) hp hr, State.retryPort_eq]
    exact State.retryExchange_keeps_silence x hroom
  case rises =>
    rw [← ha] at hw ⊢
    exact ⟨_, exec_timeoutWord_inService _ hs, takeTimeoutWord_raises_silence hw (State.lookup_of_mem he hdistinct) h3⟩

end Sys2Proof.Statements
end

section
/-! PROOFS. The rate phase of a port: what a rate application keeps (R134), a rate reply's departure (R136), the end of a
window (R138), and CONFIRM_RATE (R137). -/

namespace Sys2Proof.Machine

variable (s : State) (p : Port)

/-! ## Arguments (R150) -/

/-- A port's own character names it. -/
@[simp] theorem portArgument_byteOf : portArgument (byteOf p.val) = some p := by
  match p with
  | 0 | 1 | 2 | 3 => rfl

/-- A character above 3 names no port. -/
theorem portArgument_of_gt {b : Byte} (h : 3 < b.toNat) : portArgument b = none :=
  dif_neg (Nat.not_lt.mpr h)

/-! ## A port record changed -/

/-- A change of one port's record leaves every port's halves as they were. -/
@[simp] theorem State.halves_modifyRecord (q : Port) (f : PortRecord → PortRecord) :
    ((s.modifyRecord p f).port q).receiver = (s.port q).receiver ∧
    ((s.modifyRecord p f).port q).transmitter = (s.port q).transmitter := by
  by_cases h : q = p
  · simp [h]
  · simp [h]

/-- A change of one port's record that keeps its administrative state keeps every port's. -/
theorem State.admin_modifyRecord (q : Port) {f : PortRecord → PortRecord} (hf : ∀ r, (f r).admin = r.admin) :
    (s.modifyRecord p f).admin q = s.admin q := by
  by_cases h : q = p
  · simp [State.admin, h, hf]
  · simp [State.admin, h]

/-! ## What a rate application keeps (R54, R74, R134) -/

@[simp] theorem State.port_letGo (i : SlotId) (q : Port) : (s.letGo i).port q = s.port q :=
  State.port_congr (by simp) q

@[simp] theorem State.port_raise (kind : NoticeKind) (subject detail : Byte) (q : Port) :
    (s.raise kind subject detail).port q = s.port q := rfl

/-- A frame given up changes neither the port's record nor the words outstanding. -/
@[simp] theorem State.abandonFrame_keeps (st : ReceiverState) :
    ((s.abandonFrame p st).port p).record = (s.port p).record ∧ (s.abandonFrame p st).words = s.words := by
  unfold State.abandonFrame
  split <;> simp

@[simp] theorem State.abortFrame_keeps (st : ReceiverState) (counter : PortCounters → PortCounters) :
    ((s.abortFrame p st counter).port p).record = (s.port p).record ∧ (s.abortFrame p st counter).words = s.words := by
  unfold State.abortFrame
  split <;> simp

/-- The receiver's answer to a rate application changes neither the port's record nor the words outstanding. -/
@[simp] theorem State.rateAtReceiver_keeps :
    ((s.rateAtReceiver p).port p).record = (s.port p).record ∧ (s.rateAtReceiver p).words = s.words := by
  unfold State.rateAtReceiver
  split <;> simp

/-- The transmitter's answer changes neither of them: a collision sends no word. -/
@[simp] theorem State.rateAtTransmitter_keeps :
    ((s.rateAtTransmitter p).port p).record = (s.port p).record ∧ (s.rateAtTransmitter p).words = s.words := by
  unfold State.rateAtTransmitter
  split <;> simp [State.collide]

/-- A rate application makes `c` the current rate, whatever traffic it meets, and changes no other part of the record and no
word outstanding. -/
@[simp] theorem State.applyRate_record_words (c : RateCode) :
    ((s.applyRate p c).port p).record = { (s.port p).record with currentRate := c } ∧
    (s.applyRate p c).words = s.words := by
  constructor
  · simp only [State.applyRate, State.rateAtTransmitter_keeps, State.rateAtReceiver_keeps]
    simp [State.port]
  · simp [State.applyRate]

/-- The window opens on the rate applied (R136). -/
theorem State.openWindow_record (c : RateCode) (seconds : Nat) :
    ((s.openWindow p c seconds).port p).record =
      { (s.port p).record with currentRate := c, ratePhase := .window seconds (14745600 * seconds) } := by
  simp [State.openWindow, secondCycles, Nat.mul_comm]

/-! ## The rate events (R136, R138) -/

variable {s p}

theorem exec_rateReplyDeparted_inService (h : s.phase = .inService) :
    exec (.rateReplyDeparted p) s = .next (takeRateReply p s) := State.whenInService_inService _ h

theorem exec_windowExpiry_inService (h : s.phase = .inService) :
    exec (.windowExpiry p) s = .next (expireWindow p s) := State.whenInService_inService _ h

/-- The word of a departure opens the window of a port that waits for it. -/
theorem takeRateReply_of_awaiting {c : RateCode} {seconds : Nat} (hw : p ∈ s.words.rateReplies)
    (hr : (s.port p).record.ratePhase = .awaitingReply c seconds) :
    takeRateReply p s =
      (s.modifyWords fun w => { w with rateReplies := w.rateReplies.erase p }).openWindow p c seconds := by
  simp [takeRateReply, hw, hr]

/-- A window that has run out reverts to the confirmed rate, and RATE_REVERTED carries the abandoned one. -/
theorem expireWindow_of_expired {w : Nat} (hr : (s.port p).record.ratePhase = .window w 0) :
    expireWindow p s =
      ((s.applyRate p (s.port p).record.confirmedRate).modifyRecord p fun r => { r with ratePhase := .steady }).raise
        .rateReverted (portCharacter p) (byteOf (s.rate p).val) := by
  simp [expireWindow, hr]

/-- On a STEADY port no window ends. -/
theorem expireWindow_of_steady (hr : (s.port p).record.ratePhase = .steady) : expireWindow p s = s := by
  simp [expireWindow, hr]

/-! ## CONFIRM_RATE by the rate phase (R137) -/

variable (ingress : Port) (more : List Byte)

theorem confirmRate_of_window {w n : Nat} (hr : (s.port p).record.ratePhase = .window w n) :
    confirmRate ingress (byteOf p.val :: more) s =
      (s.modifyRecord p fun r => { r with confirmedRate := r.currentRate, ratePhase := .steady }).done := by
  simp [confirmRate, hr]

theorem confirmRate_of_awaiting {c : RateCode} {w : Nat} (hr : (s.port p).record.ratePhase = .awaitingReply c w) :
    confirmRate ingress (byteOf p.val :: more) s = s.fails .pending := by
  simp [confirmRate, hr]

theorem confirmRate_of_steady (hr : (s.port p).record.ratePhase = .steady) :
    confirmRate ingress (byteOf p.val :: more) s = s.fails .stale := by
  simp [confirmRate, hr]

theorem confirmRate_of_no_port {b : Byte} (h : 3 < b.toNat) :
    confirmRate ingress (b :: more) s = s.fails .badArgument := by
  simp [confirmRate, portArgument_of_gt h]

/-! ## A request that fails the manager check (R150) -/

/-- A request denied at a port with room: its command is not run, and the DENIED reply is admitted. -/
theorem runRequest_denied {h : HeldFrame} {rest : List HeldFrame} {i : SlotId} {code : Byte} {args : List Byte}
    (command : Command) (hq : s.management.queue = h :: rest) (hf : s.lowestFree = some i) (hi : h.slot ≠ i)
    (hp : (s.slot h.slot).payload = code :: args) (ha : s.accepts (s.slot h.slot).source = false)
    (hd : (s.admin h.ingress).isDown = false) (hr : (s.port h.ingress).transmitter.queue.length < 16) :
    runRequest (namesCode code) command s =
      ((s.modifySlot i fun _ =>
        ⟨frameCharacters (s.slot h.slot).source s.management.ownAddress (controlOf .reply 0 (s.slot h.slot).tag)
          [code, 1], 0, .inUse⟩).joinQueue h.ingress ⟨.priority, 0, .generated, i⟩).finishRequest h := by
  have hperf : (s.modifySlot i fun _ => ⟨[], 0, .inUse⟩).perform h (s.slot h.slot) command =
      (s.modifySlot i fun _ => ⟨[], 0, .inUse⟩).fails .denied := if_neg (ne_true_of_eq_false ha)
  rw [runRequest_claimed s (namesCode code) command hq (by simp [namesCode, hp]) hf]
  simp only [State.executeRequest, State.slot_modifySlot_other _ _ hi, hperf, State.fails]
  rw [State.sendReply_room (s.modifySlot i fun _ => ⟨[], 0, .inUse⟩) _ _ hd hr]
  simp only [State.modifySlot_modifySlot, Slot.code, hp]
  rfl

end Sys2Proof.Machine

namespace Sys2Proof.Statements

open Sys2Proof.Machine

variable {s : State} {h : HeldFrame} {rest : List HeldFrame} {i : SlotId}

/-! ## Answers -/

/-- A request that fails the manager check is answered DENIED, whatever its command (R150). -/
theorem answers_of_denied {c : Instr} {code : Byte} {args : List Byte} (command : Command) (r : AtHead s h rest i)
    (room : HasRoom s h.ingress) (hp : (s.slot h.slot).payload = code :: args)
    (hx : exec c s = s.whenInService (runRequest (namesCode code) command)) (hm : s.management.managers ≠ [])
    (hn : (s.slot h.slot).source ∉ s.management.managers) : Answers c s s h rest i [code, 1] := by
  have ha : s.accepts (s.slot h.slot).source = false := by simp [State.accepts, hm, hn]
  obtain ⟨hup, hroom⟩ := room
  refine ⟨_, ?_, r.replied r.queue rfl (fun _ => rfl) r.refs⟩
  rw [hx, State.whenInService_inService _ r.inService,
    runRequest_denied command r.queue r.free r.slot_ne hp ha hup hroom]

/-- A request whose command fails is answered with the result alone, and nothing else is changed (R150). -/
theorem answers_of_fails {c : Instr} {code : Byte} {args : List Byte} {result : Result} (command : Command)
    (hr : Requested s h rest i (code :: args)) (hx : exec c s = s.whenInService (runRequest (namesCode code) command))
    (hcmd : command h.ingress args (s.modifySlot i fun _ => ⟨[], 0, .inUse⟩) =
      (s.modifySlot i fun _ => ⟨[], 0, .inUse⟩).fails result) :
    Answers c s s h rest i [code, result.code] :=
  answers_of_command command hr hx hcmd (by simp [replyPayload]) rfl rfl rfl rfl (fun _ => rfl) hr.1.room

/-- A command that comes to a change of one port's record, its administrative state aside, is answered OK. -/
theorem answers_of_modifyRecord {c : Instr} {code : Byte} {args : List Byte} (command : Command) (p : Port)
    {f : PortRecord → PortRecord} (hr : Requested s h rest i (code :: args))
    (hx : exec c s = s.whenInService (runRequest (namesCode code) command))
    (hcmd : command h.ingress args (s.modifySlot i fun _ => ⟨[], 0, .inUse⟩) =
      ((s.modifySlot i fun _ => ⟨[], 0, .inUse⟩).modifyRecord p f).done) (hf : ∀ r, (f r).admin = r.admin) :
    Answers c s (s.modifyRecord p f) h rest i [code, 0] := by
  have room : HasRoom (s.modifyRecord p f) h.ingress := by
    simpa [HasRoom, State.admin_modifyRecord _ _ _ hf] using hr.1.room
  exact answers_of_command command hr hx hcmd rfl rfl rfl rfl rfl (by simp) room

/-- Settles O51: the manager check, the answer in each rate phase, the argument check, and the two events that race it. -/
theorem confirmRateAnswersByPhase : Obligations.ConfirmRateAnswersByPhase := by
  refine ⟨fun h rest i p more s r room hp => ⟨fun hm hn => ?denied, fun ha => ?accepted⟩,
    fun h rest i b more s hb hr => ?noPort,
    fun p s hs => ⟨fun c w hr hw => ?departure, fun w hr => ?expiry, fun hr => ?confirmed⟩⟩
  case denied => exact answers_of_denied confirmRate r room hp rfl hm hn
  case accepted =>
    have asked : Requested s h rest i (0x33 :: byteOf p.val :: more) := ⟨⟨r, ha, room⟩, hp⟩
    refine ⟨fun w n hr => ?window, fun c w hr => ?awaiting, fun hr => ?steady⟩
    case window =>
      have confirms := confirmRate_of_window (s := s.modifySlot i fun _ => ⟨[], 0, .inUse⟩) h.ingress more hr
      have answered : Answers .confirmRate s _ h rest i [0x33, 0] :=
        answers_of_modifyRecord confirmRate p asked rfl confirms fun _ => rfl
      exact answered
    case awaiting => exact answers_of_fails confirmRate asked rfl (confirmRate_of_awaiting h.ingress more hr)
    case steady => exact answers_of_fails confirmRate asked rfl (confirmRate_of_steady h.ingress more hr)
  case noPort => exact answers_of_fails confirmRate hr rfl (confirmRate_of_no_port h.ingress more hb)
  case departure =>
    refine ⟨_, exec_rateReplyDeparted_inService hs, ?_⟩
    rw [takeRateReply_of_awaiting hw hr]
    simp [State.rate, State.openWindow_record]
  case expiry =>
    refine ⟨_, exec_windowExpiry_inService hs, ?_⟩
    rw [expireWindow_of_expired hr]
    simp [State.rate, portCharacter]
  case confirmed => rw [exec_windowExpiry_inService hs, expireWindow_of_steady hr]

end Sys2Proof.Statements
end

section
/-! PROOFS. The reset cause record (R152, R161 to R163): what READ_STATUS reports of it and clears, and the resets that set its
flags. -/

namespace Sys2Proof.Machine

/-! ## The reply of READ_STATUS (Table 10-2) -/

/-- The reset cause flags are members 0 to 3 of their character. -/
theorem ResetCauses.character_eq (c : ResetCauses) :
    c.character = byteOf (c.power.toNat + 2 * c.pin.toNat + 4 * c.cold.toNat + 8 * c.flush.toNat) := by
  obtain ⟨power, pin, cold, flush⟩ := c
  revert power pin cold flush
  decide

/-- A character above 1 is no flag (R150). -/
theorem flagArgument_of_gt {b : Byte} (h : 1 < b.toNat) : flagArgument b = none := by
  have h0 : b ≠ 0 := by rintro rfl; simp at h
  have h1 : b ≠ 1 := by rintro rfl; simp at h
  exact (if_neg h0).trans (if_neg h1)

variable {s : State} (ingress : Port) (more : List Byte)

/-- The claim of the reply's slot leaves one FREE slot fewer. -/
theorem State.freeCount_claimed {i : SlotId} (h : s.lowestFree = some i) :
    (s.modifySlot i fun _ => ⟨[], 0, .inUse⟩).freeCount = s.freeCount - 1 :=
  Nat.eq_sub_of_add_eq (s.freeCount_take _ (s.lowestFree_free h) (by simp))

/-- The nine characters, with the reply's slot claimed. -/
theorem State.statusData_claimed {i : SlotId} (h : s.lowestFree = some i) :
    (s.modifySlot i fun _ => ⟨[], 0, .inUse⟩).statusData =
      [s.management.ownAddress, s.management.causes.character, s.loader.status.code, s.loader.errors,
       byteOf (s.freeCount - 1), byteOf s.exchanges.length, byteOf s.notices.list.length, byteOf s.map.entries.length,
       byteOf s.relay.rules.length] := by
  simp [State.statusData, State.freeCount_claimed h]

theorem readStatus_keeping : readStatus ingress (0 :: more) s = s.answers s.statusData := rfl

/-- The flags are cleared in the event that reports them, and the report shows them as they were (R152). -/
theorem readStatus_clearing :
    readStatus ingress (1 :: more) s =
      ⟨s.modifyManagement fun m => { m with causes := .clear }, .ok, s.statusData, .nothing⟩ := rfl

theorem readStatus_of_no_flag {b : Byte} (h : 1 < b.toNat) :
    readStatus ingress (b :: more) s = s.fails .badArgument := by
  simp [readStatus, flagArgument_of_gt h]

/-! ## The resets that set a flag (R161 to R163) -/

/-- A cold start leaves the reset causes it is given and no other. -/
@[simp] theorem State.coldStarted_causes (causes : ResetCauses) (resetHigh : Bool) :
    (s.coldStarted causes resetHigh).management.causes = causes := rfl

theorem powerOn_sets_power : (powerOn s).management.causes.power = true := by simp [powerOn]

theorem pinReset_sets_pin : (pinReset s).management.causes.pin = true := by simp [pinReset]

theorem coldRestart_sets_cold : (coldRestart s).management.causes.cold = true := by simp [coldRestart]

theorem beginFlush_sets_flush : (beginFlush s).management.causes.flush = true := rfl

theorem exec_restartTimerExpiry_inService (h : s.phase = .inService) :
    exec .restartTimerExpiry s = .next (expireRestart s) := State.whenInService_inService _ h

/-- A pending COLD restart whose timer has run out takes effect (R161). -/
theorem expireRestart_of_cold (h : s.management.pendingRestart = some ⟨.cold, 0⟩) : expireRestart s = coldRestart s := by
  simp [expireRestart, State.takeRestart, h]

/-- A pending FLUSH restart whose timer has run out takes effect (R161). -/
theorem expireRestart_of_flush (h : s.management.pendingRestart = some ⟨.flush, 0⟩) : expireRestart s = beginFlush s := by
  simp [expireRestart, State.takeRestart, h]

end Sys2Proof.Machine

namespace Sys2Proof.Statements

open Sys2Proof.Machine

variable {s : State} {h : HeldFrame} {rest : List HeldFrame} {i : SlotId}

/-- A command that only reports is answered OK with its data, and nothing else is changed. -/
theorem answers_of_report {c : Instr} {code : Byte} {args data : List Byte} (command : Command)
    (hr : Requested s h rest i (code :: args)) (hx : exec c s = s.whenInService (runRequest (namesCode code) command))
    (hcmd : command h.ingress args (s.modifySlot i fun _ => ⟨[], 0, .inUse⟩) =
      (s.modifySlot i fun _ => ⟨[], 0, .inUse⟩).answers data) :
    Answers c s s h rest i (code :: 0 :: data) :=
  answers_of_command command hr hx hcmd (by simp [replyPayload, Result.code]) rfl rfl rfl rfl (fun _ => rfl) hr.1.room

/-- Settles O44: the reply with the flags kept and cleared, the argument check, the status codes, and the four resets. -/
theorem readStatusReportsAndClears : Obligations.ReadStatusReportsAndClears := by
  refine ⟨fun h rest i flag more s hr => ?request, rfl,
    fun s => ⟨⟨_, rfl, fun _ => pinReset_sets_pin⟩, ⟨_, rfl, powerOn_sets_power⟩, fun kind hs hp => ?restart⟩⟩
  case request =>
    intro causes data
    have reported : (s.modifySlot i fun _ => ⟨[], 0, .inUse⟩).statusData = data := by
      rw [State.statusData_claimed hr.1.free, ResetCauses.character_eq]
    refine ⟨?keeping, ?clearing, fun hf => ?noFlag⟩
    case keeping =>
      rintro rfl
      exact answers_of_report readStatus hr rfl (by rw [readStatus_keeping, reported])
    case clearing =>
      rintro rfl
      exact answers_of_command (b := s.modifyManagement fun m => { m with causes := .clear }) readStatus hr rfl
        (by rw [readStatus_clearing, reported]; rfl) rfl rfl rfl rfl rfl (fun _ => rfl) hr.1.room
    case noFlag => exact answers_of_fails readStatus hr rfl (readStatus_of_no_flag h.ingress more hf)
  case restart =>
    refine ⟨_, exec_restartTimerExpiry_inService hs, ?_⟩
    cases kind with
    | cold =>
      rw [expireRestart_of_cold hp]
      exact coldRestart_sets_cold
    | flush =>
      rw [expireRestart_of_flush hp]
      exact beginFlush_sets_flush

end Sys2Proof.Statements
end

section
/-! PROOFS. READ_EXCHANGES, SET_TIMEOUTS and SET_AGING (R111, R112, R157). -/

namespace Sys2Proof.Machine

/-- Every exchange record is reported in eight characters (R157). -/
theorem Exchange.length_flatMap_characters (l : List Exchange) :
    (l.flatMap Exchange.characters).length = 8 * l.length := by
  simp [List.length_flatMap, Exchange.characters, Nat.mul_comm]

/-- A tag in the low half of a character is the character of its value (R15). -/
theorem tagCharacter_eq (tag : Tag) : (0#4 ++ tag : BitVec 8) = byteOf tag.toNat := by
  revert tag
  decide

variable {s : State} (ingress : Port) (more : List Byte)

theorem readExchanges_of_start {start : Byte} (h : start.toNat ≤ 15) :
    readExchanges ingress (start :: more) s =
      s.answers (byteOf ((s.exchanges.drop start.toNat).take 6).length ::
        ((s.exchanges.drop start.toNat).take 6).flatMap Exchange.characters) := by
  simp [readExchanges, h]

theorem readExchanges_of_gt {start : Byte} (h : 15 < start.toNat) :
    readExchanges ingress (start :: more) s = s.fails .badArgument := by
  simp [readExchanges, Nat.not_le.mpr h]

theorem setTimeouts_of_nonzero {a b c d : Byte} (ha : a ≠ 0) (hb : b ≠ 0) (hc : c ≠ 0) (hd : d ≠ 0) :
    setTimeouts ingress (a :: b :: c :: d :: more) s =
      ({ s with timeoutTable := ⟨10 * a.toNat, 10 * b.toNat, 10 * c.toNat, 10 * d.toNat⟩ } : State).done :=
  if_neg (not_or.mpr ⟨ha, not_or.mpr ⟨hb, not_or.mpr ⟨hc, hd⟩⟩⟩)

theorem setTimeouts_of_zero {a b c d : Byte} (h : a = 0 ∨ b = 0 ∨ c = 0 ∨ d = 0) :
    setTimeouts ingress (a :: b :: c :: d :: more) s = s.fails .badArgument := if_pos h

/-- Two characters give an aging period exactly when their number is from 10 to 3600 (R157). -/
theorem periodArgument_of_range {high low : Byte} (h10 : 10 ≤ 256 * high.toNat + low.toNat)
    (h3600 : 256 * high.toNat + low.toNat ≤ 3600) :
    periodArgument high low = some (256 * high.toNat + low.toNat) := by
  simp only [periodArgument, numberOf, Nat.mul_comm high.toNat]
  exact if_pos ⟨h10, h3600⟩

theorem periodArgument_outside {high low : Byte}
    (h : 256 * high.toNat + low.toNat < 10 ∨ 3600 < 256 * high.toNat + low.toNat) : periodArgument high low = none := by
  simp only [periodArgument, numberOf, Nat.mul_comm high.toNat]
  exact if_neg (by omega)

theorem setAging_of_period {high low : Byte} {period : Nat} (h : periodArgument high low = some period) :
    setAging ingress (high :: low :: more) s = (s.setPeriod period).startAging.done := by
  simp [setAging, h]

theorem setAging_of_no_period {high low : Byte} (h : periodArgument high low = none) :
    setAging ingress (high :: low :: more) s = s.fails .badArgument := by
  simp [setAging, h]

/-- The period set and the timer restarted for it, in cycles of the reference clock (R86). -/
theorem State.startAging_setPeriod (period : Nat) :
    (s.setPeriod period).startAging =
      { s with map := { s.map with period := period, timer := some (14745600 * period) } } := by
  simp [State.startAging, State.setPeriod, secondCycles, Nat.mul_comm]

end Sys2Proof.Machine

namespace Sys2Proof.Statements

open Sys2Proof.Machine

/-- A command that changes nothing but the timeout table and the station map is answered OK. -/
theorem answers_of_timing {s : State} {h : HeldFrame} {rest : List HeldFrame} {i : SlotId} {c : Instr} {code : Byte}
    {args : List Byte} (command : Command) (table : Four Nat) (map : StationMap)
    (hr : Requested s h rest i (code :: args)) (hx : exec c s = s.whenInService (runRequest (namesCode code) command))
    (hcmd : command h.ingress args (s.modifySlot i fun _ => ⟨[], 0, .inUse⟩) =
      ({ (s.modifySlot i fun _ => ⟨[], 0, .inUse⟩) with timeoutTable := table, map := map } : State).done) :
    Answers c s { s with timeoutTable := table, map := map } h rest i [code, 0] :=
  answers_of_command command hr hx hcmd rfl rfl rfl rfl rfl (fun _ => rfl) hr.1.room

/-- Settles O46: each of the three commands with its arguments in range and out of range. -/
theorem exchangeAndTimingCommands : Obligations.ExchangeAndTimingCommands := by
  refine fun h rest i s => ⟨fun start more hr => ?exchanges, fun a b c d more hr => ⟨fun ha hb hc hd => ?timeouts,
    fun hz => ?zero⟩, fun high low more hr => ⟨fun h10 h3600 => ?aging, fun hp => ?outside⟩⟩
  case exchanges =>
    intro reported data
    have hdata : data = byteOf reported.length :: reported.flatMap Exchange.characters := by
      refine congrArg (_ :: ·) (congrArg (reported.flatMap ·) (funext fun x => ?_))
      rw [Exchange.characters, tagCharacter_eq]
      rfl
    rw [hdata]
    refine ⟨fun hs => ⟨?answered, ?bounded, fun hn => ?nothing⟩, fun hs => ?beyond⟩
    case answered => exact answers_of_report readExchanges hr rfl (readExchanges_of_start h.ingress more hs)
    case bounded =>
      have six : reported.length ≤ 6 := List.length_take_le ..
      rw [List.length_cons, Exchange.length_flatMap_characters]
      omega
    case nothing =>
      have empty : reported = [] := by simp [reported, List.drop_eq_nil_of_le hn]
      rw [empty]
      rfl
    case beyond => exact answers_of_fails readExchanges hr rfl (readExchanges_of_gt h.ingress more hs)
  case timeouts =>
    exact answers_of_timing setTimeouts _ s.map hr rfl (setTimeouts_of_nonzero h.ingress more ha hb hc hd)
  case zero => exact answers_of_fails setTimeouts hr rfl (setTimeouts_of_zero h.ingress more hz)
  case aging =>
    have sets := setAging_of_period (s := s.modifySlot i fun _ => ⟨[], 0, .inUse⟩) h.ingress more
      (periodArgument_of_range h10 h3600)
    exact answers_of_timing setAging s.timeoutTable _ hr rfl (sets.trans (by rw [State.startAging_setPeriod]; rfl))
  case outside =>
    exact answers_of_fails setAging hr rfl (setAging_of_no_period h.ingress more (periodArgument_outside hp))

end Sys2Proof.Statements
end

section
/-! PROOFS. What one event can do to a line port, as a list of moves (`PortMove`); the invariants of the ports are read off
that list (R31, R59, R62, R69, R73, R128, R134, R135). -/

namespace Sys2Proof.Safety

open Sys2Proof.Machine

/-! ## The moves of a port -/

/-- `y` is `x` but for its framer, its counters, its options, and intervals and marks that no invariant of the ports reads. -/
def SameCore (x y : LinePort) : Prop :=
  y = { x with
    framer := y.framer, counters := y.counters
    receiver := { y.receiver with state := x.receiver.state, currentSlot := x.receiver.currentSlot }
    transmitter := { x.transmitter with
      backoff := y.transmitter.backoff, jamTime := y.transmitter.jamTime, quietInterval := y.transmitter.quietInterval }
    record := { x.record with
      autoRecover := y.record.autoRecover, floodUnknown := y.record.floodUnknown, learn := y.record.learn
      recovery := y.record.recovery } }

/-- A receiver out of OFF and of ECHO, as no other half of the relay binds it (Table 3-1). -/
def ReceivesFreely (r : Receiver) : Prop := r.state ≠ .off ∧ r.state ≠ .echo

/-- A current slot stands only with a frame in progress (R38). -/
def SlotInProgress (r : Receiver) : Prop := r.currentSlot.isSome = true → r.state.frameInProgress = true

/-- `u` is the transmitter `t` with a place for a further entry: its queue had room, or its youngest ORDINARY entry has been
displaced (R32, R33). -/
def PlaceMade (t u : Transmitter) : Prop :=
  t.queue.length < 16 ∧ u = t ∨
    ∃ d rest, takeYoungestOrdinary t.waiting = some (d, rest) ∧ u = { t with queue := t.inTransmission ++ rest }

/-- What an event of the relay in phase `phase` can do to a line port, one piece of it at a time. -/
inductive PortMove (phase : Phase) : LinePort → LinePort → Prop
  | times {x y} (same : SameCore x y) : PortMove phase x y
  | receives {x} (r : Receiver) (before : ReceivesFreely x.receiver) (after : ReceivesFreely r) (slot : SlotInProgress r) :
      PortMove phase x { x with receiver := r }
  | begins {x} (f : Slot) (hunts : x.receiver.state = .hunt) (waits : x.transmitter.state = .waitGap) :
      PortMove phase x { x with
        receiver := x.receiver.withoutFrame .echo
        transmitter := ({ x.transmitter with echoList := [], nextPosition := 0, state := .sending }).sendNext f }
  | sends {x} (f : Slot) (sending : x.transmitter.state = .sending) (drives : x.transmitter.driverEnable = true)
      (ended : charCycles x.record.currentRate ≤ x.transmitter.charTime) (judged : x.transmitter.echoMissing = false) :
      PortMove phase x { x with
        transmitter := ({ x.transmitter with
          echoList := setLastDeadline (charCycles x.record.currentRate) x.transmitter.echoList }).sendNext f }
  | collides {x} (sending : x.transmitter.state = .sending) :
      PortMove phase x { x with transmitter := x.transmitter.collided }
  | echoes {x} (e : SentCharacter) (rest : List SentCharacter) (sending : x.transmitter.state = .sending)
      (oldest : x.transmitter.echoList = e :: rest) :
      PortMove phase x { x with transmitter := { x.transmitter with echoList := rest } }
  | completes {x} (e : QueueEntry) (rest : List QueueEntry) (sending : x.transmitter.state = .sending)
      (echoed : x.receiver.state = .echo) (head : x.transmitter.queue = e :: rest) :
      PortMove phase x { x with
        receiver := x.receiver.withoutFrame .hunt
        transmitter := { x.transmitter with
          charTime := 0, driverEnable := false, echoList := [], nextPosition := 0, queue := rest,
          state := restingState x.record.admin rest } }
  | jamEnds {x} (q : List QueueEntry) (jams : x.transmitter.state = .jam)
      (left : q = replacedHead x.transmitter.queue ∨ ∃ e, x.transmitter.queue = e :: q) : PortMove phase x (x.jamEnded q)
  | backoffEnds {x} (backs : x.transmitter.state = .backoff) :
      PortMove phase x { x with
        transmitter := { x.transmitter with
          backoff := none, quietInterval := 0, state := restingState x.record.admin x.transmitter.queue } }
  | joins {x} (e : QueueEntry) (t : Transmitter) (service : phase = .inService) (up : x.record.admin.isDown = false)
      (place : PlaceMade x.transmitter t) (fresh : e.collisions ≤ 2) (band : e.origin = .generated → e.band = .priority) :
      PortMove phase x { x with
        transmitter := wakeTransmitter x.record.admin { t with queue := t.joined e } }
  | withdraws {x} (i : SlotId) :
      PortMove phase x { x with
        transmitter := restTransmitter { x.transmitter with
          queue := x.transmitter.inTransmission ++ x.transmitter.waiting.filter (·.slot != i) } }
  | goesDown {x} (a : AdminState) (down : a.isDown = true) :
      PortMove phase x { x with
        record := { x.record with admin := a }
        receiver := x.receiver.stopped
        transmitter := { x.transmitter.stopped with queue := [] } }
  | comesUp {x} (a : AdminState) (service : phase = .inService) (was : x.record.admin.isDown = true)
      (up : a.isDown = false) :
      PortMove phase x { x.started with record := { x.record with admin := a, recovery := none } }
  | holds {x} (enabled : x.record.admin = .enabled) :
      PortMove phase x { x with
        record := { x.record with admin := .held }, transmitter := x.transmitter.held }
  | enables {x} (held : x.record.admin = .held) :
      PortMove phase x { x with
        record := { x.record with admin := .enabled }, transmitter := wakeTransmitter .enabled x.transmitter }
  | disables {x} (isolated : x.record.admin = .isolated) :
      PortMove phase x { x with record := { x.record with admin := .disabled, recovery := none } }
  | loadsAdmin {x} (a : AdminState) (loads : phase = .loading) :
      PortMove phase x { x with record := { x.record with admin := a } }
  | asksRate {x} (c : RateCode) (window : Nat) :
      PortMove phase x { x with record := { x.record with ratePhase := .awaitingReply c window } }
  | confirmsRate {x} :
      PortMove phase x { x with record := { x.record with confirmedRate := x.record.currentRate, ratePhase := .steady } }
  | changesRate {x} (r : PortRecord) (quiet : x.transmitter.state ≠ .sending)
      (record : r = { x.record with
        confirmedRate := r.confirmedRate, currentRate := r.currentRate, ratePhase := r.ratePhase })
      (confirmed : r.ratePhase = .steady → r.currentRate = r.confirmedRate) :
      PortMove phase x { x with record := r }

/-- Moves of a port, one after another. -/
abbrev PortMoves (phase : Phase) : LinePort → LinePort → Prop := Relation.ReflTransGen (PortMove phase)

/-! ## The invariants of one port -/

/-- The two halves of a port in phase `phase` agree with its administrative state and with each other. -/
structure HalvesAgree (phase : Phase) (x : LinePort) : Prop where
  off : x.transmitter.state = .off ↔ (x.record.admin.isDown = true ∨ phase ≠ .inService)
  both : x.receiver.state = .off ↔ x.transmitter.state = .off
  rest : x.transmitter.state = .off → x.transmitter.queue = [] ∧ x.transmitter.driverEnable = false
  echo : (x.transmitter.state = .sending ∨ x.transmitter.state = .jam) ↔ x.receiver.state = .echo
  slot : SlotInProgress x.receiver

theorem portsCoherent_iff (s : State) : PortsCoherent s ↔ ∀ p, HalvesAgree s.phase (s.port p) :=
  ⟨fun h p => let ⟨h1, h2, h3, h4, h5⟩ := h p; ⟨h1, h2, h3, h4, h5⟩, fun h p => ⟨(h p).1, (h p).2, (h p).3, (h p).4, (h p).5⟩⟩

/-- The queue of a port keeps its length, its bands and the fields of its entries. -/
structure QueueInOrder (t : Transmitter) : Prop where
  room : t.queue.length ≤ 16
  bands : bandsInOrder t.waiting
  entries : ∀ e ∈ t.queue, e.collisions ≤ 2 ∧ (e.origin = .generated → e.band = .priority)

/-- The echo list of a port holds the character just sent and the one being sent (R59, R63). -/
structure EchoesInOrder (x : LinePort) : Prop where
  outside : x.transmitter.state ≠ .sending → x.transmitter.echoList = []
  two : x.transmitter.echoList.length ≤ 2
  last : ∀ e ∈ x.transmitter.echoList.dropLast, e.deadline ≠ none
  one : (∀ e ∈ x.transmitter.echoList, e.deadline ≠ none) → x.transmitter.echoList.length ≤ 1
  driven : x.transmitter.driverEnable = false → ∀ e ∈ x.transmitter.echoList, e.deadline ≠ none
  ends : x.transmitter.driverEnable = true → ∀ e ∈ x.transmitter.echoList, ∀ d ∈ e.deadline,
    d = 0 ∨ d + x.transmitter.charTime ≤ charCycles x.record.currentRate

theorem echoListsHold_iff (s : State) : EchoListsHold s ↔ ∀ p, EchoesInOrder (s.port p) :=
  ⟨fun h p => let ⟨h1, h2, h3, h4, h5, h6⟩ := h p; ⟨h1, h2, h3, h4, h5, h6⟩,
   fun h p => ⟨(h p).1, (h p).2, (h p).3, (h p).4, (h p).5, (h p).6⟩⟩

/-- A port's rates agree but while a change runs (R135). -/
def RateConfirmed (x : LinePort) : Prop :=
  x.record.ratePhase = .steady → x.record.currentRate = x.record.confirmedRate

end Sys2Proof.Safety
end

section
namespace Sys2Proof.Safety

open Sys2Proof.Machine

/-! ## What the moves' functions leave of a transmitter -/

@[simp] theorem sendNext_keeps (t : Transmitter) (f : Slot) :
    (t.sendNext f).state = t.state ∧ (t.sendNext f).queue = t.queue ∧
    (t.sendNext f).backoffRegister = t.backoffRegister := by
  unfold Transmitter.sendNext
  split <;> simp

@[simp] theorem collided_keeps (t : Transmitter) :
    t.collided.state = .jam ∧ t.collided.echoList = [] ∧ t.collided.backoffRegister = t.backoffRegister := by
  unfold Transmitter.collided
  split
  · split <;> simp
  · simp

@[simp] theorem wakeTransmitter_keeps (a : AdminState) (t : Transmitter) :
    (wakeTransmitter a t).queue = t.queue ∧ (wakeTransmitter a t).driverEnable = t.driverEnable ∧
    (wakeTransmitter a t).echoList = t.echoList ∧ (wakeTransmitter a t).charTime = t.charTime ∧
    (wakeTransmitter a t).backoffRegister = t.backoffRegister := by
  unfold wakeTransmitter
  split <;> simp

@[simp] theorem restTransmitter_keeps (t : Transmitter) :
    (restTransmitter t).queue = t.queue ∧ (restTransmitter t).driverEnable = t.driverEnable ∧
    (restTransmitter t).echoList = t.echoList ∧ (restTransmitter t).charTime = t.charTime ∧
    (restTransmitter t).backoffRegister = t.backoffRegister := by
  unfold restTransmitter
  split <;> simp

@[simp] theorem held_keeps (t : Transmitter) :
    t.held.queue = t.queue ∧ t.held.driverEnable = t.driverEnable ∧ t.held.echoList = t.echoList ∧
    t.held.charTime = t.charTime ∧ t.held.backoffRegister = t.backoffRegister := by
  unfold Transmitter.held
  split <;> simp

@[simp] theorem afterJam_keeps (t : Transmitter) (a : AdminState) :
    (t.afterJam a).queue = t.queue ∧ (t.afterJam a).driverEnable = t.driverEnable ∧
    (t.afterJam a).echoList = t.echoList ∧ (t.afterJam a).charTime = t.charTime := by
  unfold Transmitter.afterJam
  split <;> simp

/-- Waking moves an IDLE transmitter to WAIT_GAP at most. -/
theorem wakeTransmitter_state (a : AdminState) (t : Transmitter) :
    (wakeTransmitter a t).state = t.state ∨ t.state = .idle ∧ (wakeTransmitter a t).state = .waitGap := by
  unfold wakeTransmitter
  split
  · next h => exact .inr ⟨h.2.1, rfl⟩
  · exact .inl rfl

/-- Resting moves a transmitter in WAIT_GAP to IDLE at most. -/
theorem restTransmitter_state (t : Transmitter) :
    (restTransmitter t).state = t.state ∨ t.state = .waitGap ∧ (restTransmitter t).state = .idle := by
  unfold restTransmitter
  split
  · next h => exact .inr ⟨h.1, rfl⟩
  · exact .inl rfl

/-- HELD moves a transmitter that waits to IDLE at most. -/
theorem held_state (t : Transmitter) :
    t.held.state = t.state ∨ (t.state = .waitGap ∨ t.state = .backoff) ∧ t.held.state = .idle := by
  unfold Transmitter.held
  split <;> simp_all

theorem restingState_cases (a : AdminState) (q : List QueueEntry) :
    restingState a q = .waitGap ∨ restingState a q = .idle := by
  unfold restingState
  split <;> simp

theorem afterJam_state (t : Transmitter) (a : AdminState) :
    (t.afterJam a).state = .backoff ∨ (t.afterJam a).state = .idle := by
  unfold Transmitter.afterJam
  split <;> simp

/-- A transmitter in one of the states between frames. -/
def BetweenFrames (st : TransmitterState) : Prop := st = .idle ∨ st = .waitGap ∨ st = .backoff

/-- The halves keep agreeing while the transmitter changes among its states between frames, and the administrative state
among those of the same standing. -/
theorem HalvesAgree.between {phase : Phase} {x y : LinePort} (h : HalvesAgree phase x)
    (hr : y.receiver.state = x.receiver.state ∧ y.receiver.currentSlot = x.receiver.currentSlot)
    (ha : y.record.admin.isDown = x.record.admin.isDown)
    (ht : y.transmitter.state = x.transmitter.state ∧
        (x.transmitter.state = .off → y.transmitter.queue = [] ∧ y.transmitter.driverEnable = false) ∨
      BetweenFrames x.transmitter.state ∧ BetweenFrames y.transmitter.state) : HalvesAgree phase y := by
  obtain ⟨off, both, rest, echo, slot⟩ := h
  obtain ⟨hs, hc⟩ := hr
  rcases ht with ⟨ht, hq⟩ | ⟨hx, hy⟩
  · exact ⟨by rw [ht, ha]; exact off, by rw [hs, ht]; exact both, fun h => hq (ht ▸ h), by rw [hs, ht]; exact echo,
      by unfold SlotInProgress; rw [hs, hc]; exact slot⟩
  · have nx : x.transmitter.state ≠ .off ∧ x.transmitter.state ≠ .sending ∧ x.transmitter.state ≠ .jam := by
      rcases hx with e | e | e <;> simp [e]
    have ny : y.transmitter.state ≠ .off ∧ y.transmitter.state ≠ .sending ∧ y.transmitter.state ≠ .jam := by
      rcases hy with e | e | e <;> simp [e]
    refine ⟨?_, ?_, fun h => absurd h ny.1, ?_, by unfold SlotInProgress; rw [hs, hc]; exact slot⟩
    · rw [ha]; simp only [ny.1, false_iff]; exact fun c => nx.1 (off.mpr c)
    · rw [hs]; simp only [ny.1, iff_false]; exact fun c => nx.1 (both.mp c)
    · rw [hs]; simp only [ny.2, or_self, false_iff]; exact fun c => by
        rcases echo.mpr c with e | e
        · exact nx.2.1 e
        · exact nx.2.2 e

/-- The halves keep agreeing when both change out of OFF, the port in service. -/
theorem HalvesAgree.running {phase : Phase} {x y : LinePort} (h : HalvesAgree phase x)
    (hx : x.transmitter.state ≠ .off) (ha : y.record.admin = x.record.admin) (ht : y.transmitter.state ≠ .off)
    (hr : y.receiver.state ≠ .off)
    (he : (y.transmitter.state = .sending ∨ y.transmitter.state = .jam) ↔ y.receiver.state = .echo)
    (hs : SlotInProgress y.receiver) : HalvesAgree phase y :=
  ⟨by rw [ha, ← h.off]; simp [ht, hx], by simp [ht, hr], fun e => absurd e ht, he, hs⟩

@[simp] theorem slotInProgress_withoutFrame (r : Receiver) (st : ReceiverState) : SlotInProgress (r.withoutFrame st) := by
  simp [SlotInProgress, Receiver.withoutFrame]

@[simp] theorem withoutFrame_state (r : Receiver) (st : ReceiverState) :
    (r.withoutFrame st).state = st ∧ (r.withoutFrame st).currentSlot = none := ⟨rfl, rfl⟩

/-- An empty queue has no entry that waits and none in transmission. -/
theorem waiting_of_empty {t : Transmitter} (h : t.queue = []) : t.waiting = [] := by
  simp [Transmitter.waiting, h]

theorem inTransmission_of_empty {t : Transmitter} (h : t.queue = []) : t.inTransmission = [] := by
  simp [Transmitter.inTransmission, h]

/-- Making a place for an entry changes the queue alone. -/
theorem PlaceMade.same {t u : Transmitter} (h : PlaceMade t u) :
    u.state = t.state ∧ u.driverEnable = t.driverEnable ∧ u.echoList = t.echoList ∧ u.charTime = t.charTime ∧
    u.backoffRegister = t.backoffRegister := by
  rcases h with ⟨-, rfl⟩ | ⟨d, rest, -, rfl⟩ <;> simp

/-- Every move of a port keeps its halves in agreement. -/
theorem HalvesAgree.move {phase : Phase} {x y : LinePort} (h : HalvesAgree phase x) (m : PortMove phase x y) :
    HalvesAgree phase y := by
  have busy : ∀ st, x.transmitter.state = st → st ≠ .off → x.transmitter.state ≠ .off := fun _ e n => e ▸ n
  cases m with
  | times same => 
    rw [same]
    exact h.between ⟨rfl, rfl⟩ rfl (.inl ⟨rfl, h.rest⟩)
  | receives r before after slot =>
    obtain ⟨b1, b2⟩ := before
    obtain ⟨a1, a2⟩ := after
    have hx : x.transmitter.state ≠ .off := fun e => b1 (h.both.mpr e)
    exact h.running hx rfl hx a1 (by simp only [a2, iff_false]; exact fun c => b2 (h.echo.mp c)) slot
  | begins f hunts waits =>
    exact h.running (busy _ waits (by simp)) rfl (by simp) (by simp) (by simp) (by simp)
  | sends f sending => exact h.between ⟨rfl, rfl⟩ rfl (.inl ⟨by simp, fun e => by simp [sending] at e⟩)
  | collides sending =>
    have echo := h.echo.mp (.inl sending)
    exact h.running (busy _ sending (by simp)) rfl (by simp) (by simp [echo]) (by simp [echo]) h.slot
  | echoes e rest sending => exact h.between ⟨rfl, rfl⟩ rfl (.inl ⟨rfl, h.rest⟩)
  | completes e rest sending =>
    refine h.running (busy _ sending (by simp)) rfl ?_ (by simp) ?_ (by simp)
    · rcases restingState_cases x.record.admin rest with c | c <;> simp [c]
    · rcases restingState_cases x.record.admin rest with c | c <;> simp [c]
  | jamEnds q jams left =>
    refine h.running (busy _ jams (by simp)) rfl ?_ (by simp [LinePort.jamEnded]) ?_ (by simp [LinePort.jamEnded])
    · rcases afterJam_state { x.transmitter with
        discardAtJamEnd := false, driverEnable := false, jamTime := 0, queue := q } x.record.admin with c | c <;>
      simp [LinePort.jamEnded, c]
    · rcases afterJam_state { x.transmitter with
        discardAtJamEnd := false, driverEnable := false, jamTime := 0, queue := q } x.record.admin with c | c <;>
      simp [LinePort.jamEnded, c]
  | backoffEnds backs =>
    exact h.between ⟨rfl, rfl⟩ rfl (.inr ⟨.inr (.inr backs), by
      rcases restingState_cases x.record.admin x.transmitter.queue with c | c <;> simp [c, BetweenFrames]⟩)
  | joins e t service up place =>
    have hx : x.transmitter.state ≠ .off := by rw [Ne, h.off]; simp [service, up]
    have same := place.same.1
    rcases wakeTransmitter_state x.record.admin { t with queue := t.joined e } with c | ⟨b, c⟩
    · exact h.between ⟨rfl, rfl⟩ rfl (.inl ⟨c.trans same, fun e => absurd e hx⟩)
    · exact h.between ⟨rfl, rfl⟩ rfl (.inr ⟨.inl (same ▸ b), .inr (.inl c)⟩)
  | withdraws i =>
    rcases restTransmitter_state { x.transmitter with
      queue := x.transmitter.inTransmission ++ x.transmitter.waiting.filter (·.slot != i) } with c | ⟨b, c⟩
    · refine h.between ⟨rfl, rfl⟩ rfl (.inl ⟨c, fun e => ?_⟩)
      obtain ⟨empty, idle⟩ := h.rest e
      simp [inTransmission_of_empty empty, waiting_of_empty empty, idle]
    · exact h.between ⟨rfl, rfl⟩ rfl (.inr ⟨.inr (.inl b), .inl c⟩)
  | goesDown a down =>
    refine ⟨by simp [Transmitter.stopped, down], by simp [Receiver.stopped, Transmitter.stopped],
      fun _ => ⟨rfl, rfl⟩, by simp [Receiver.stopped, Transmitter.stopped], ?_⟩
    simp [SlotInProgress, Receiver.stopped, Receiver.withoutFrame]
  | comesUp a service was up =>
    refine ⟨by simp [LinePort.started, Transmitter.started, service, up],
      by simp [LinePort.started, Transmitter.started, Receiver.started],
      fun e => by simp [LinePort.started, Transmitter.started] at e,
      by simp [LinePort.started, Transmitter.started, Receiver.started], ?_⟩
    simp [SlotInProgress, LinePort.started, Receiver.started, Receiver.withoutFrame]
  | holds enabled =>
    refine h.between ⟨rfl, rfl⟩ (by simp [enabled, AdminState.isDown]) ?_
    rcases held_state x.transmitter with c | ⟨b, c⟩
    · exact .inl ⟨c, by simpa using h.rest⟩
    · exact .inr ⟨by rcases b with b | b <;> simp [b, BetweenFrames], .inl c⟩
  | enables held =>
    refine h.between ⟨rfl, rfl⟩ (by simp [held, AdminState.isDown]) ?_
    rcases wakeTransmitter_state .enabled x.transmitter with c | ⟨b, c⟩
    · exact .inl ⟨c, by simpa using h.rest⟩
    · exact .inr ⟨.inl b, .inr (.inl c)⟩
  | disables isolated => exact h.between ⟨rfl, rfl⟩ (by simp [isolated, AdminState.isDown]) (.inl ⟨rfl, h.rest⟩)
  | loadsAdmin a loads =>
    have out : phase ≠ .inService := by simp [loads]
    exact ⟨⟨fun _ => .inr out, fun _ => h.off.mpr (.inr out)⟩, h.both, h.rest, h.echo, h.slot⟩
  | asksRate c window => exact h.between ⟨rfl, rfl⟩ rfl (.inl ⟨rfl, h.rest⟩)
  | confirmsRate => exact h.between ⟨rfl, rfl⟩ rfl (.inl ⟨rfl, h.rest⟩)
  | changesRate r quiet record => 
    rw [record]
    exact h.between ⟨rfl, rfl⟩ rfl (.inl ⟨rfl, h.rest⟩)

/-! ## The backoff register never holds 0000h (R69) -/

/-- The register advanced holds 0000h only if it did before. -/
theorem backoffAdvance_ne_zero {r : Word} (h : r ≠ 0) : backoffAdvance r ≠ 0 := by
  intro e
  apply h
  have bit : ∀ i, (backoffAdvance r).getLsbD i = false := fun i => by rw [e]; simp
  have low : ∀ i, i < 15 → r.getLsbD i = false := fun i hi => by
    have := bit (i + 1)
    unfold backoffAdvance at this
    dsimp only at this
    rw [BitVec.getLsbD_or, BitVec.getLsbD_shiftLeft] at this
    have hz : (decide (i + 1 < 16) && !decide (i + 1 < 1) && r.getLsbD (i + 1 - 1)) = r.getLsbD i := by
      simp; omega
    rw [hz, Bool.or_eq_false_iff] at this
    exact this.1
  have top : r.getLsbD 15 = false := by
    have := bit 0
    unfold backoffAdvance at this
    dsimp only at this
    rw [low 13 (by omega), low 12 (by omega), low 10 (by omega)] at this
    cases hr : r.getLsbD 15 with
    | false => rfl
    | true => simp [hr] at this
  apply BitVec.eq_of_getLsbD_eq
  intro i hi
  rcases Nat.lt_or_ge i 15 with l | l
  · simpa using low i l
  · have : i = 15 := by omega
    simpa [this] using top

/-- A port's backoff register is advanced or kept. -/
theorem PortMove.backoffRegister {phase : Phase} {x y : LinePort} (m : PortMove phase x y) :
    y.transmitter.backoffRegister = x.transmitter.backoffRegister ∨
      y.transmitter.backoffRegister = backoffAdvance x.transmitter.backoffRegister := by
  cases m with
  | times same => rw [same]; exact .inl rfl
  | jamEnds q =>
    simp only [LinePort.jamEnded, Transmitter.afterJam]
    split <;> simp
  | joins e t service up place => exact .inl (by simp [place.same])
  | changesRate r quiet record => exact .inl rfl
  | _ => exact .inl (by simp [Transmitter.stopped, LinePort.started, Transmitter.started])

/-! ## The rates agree but while a change runs (R135) -/

theorem RateConfirmed.move {phase : Phase} {x y : LinePort} (h : RateConfirmed x) (m : PortMove phase x y) :
    RateConfirmed y := by
  cases m with
  | times same => rw [same]; exact h
  | asksRate c window => exact fun e => by cases e
  | confirmsRate => exact fun _ => rfl
  | changesRate r quiet record confirmed => exact confirmed
  | _ => exact h

/-! ## The echo list (R59, R63) -/

/-- An empty echo list is in order. -/
theorem EchoesInOrder.of_empty {x : LinePort} (h : x.transmitter.echoList = []) : EchoesInOrder x :=
  ⟨fun _ => h, by simp [h], by simp [h], by simp [h], by simp [h], by simp [h]⟩

/-- The echo list stays in order while it, the driver and the time into the character stay, and SENDING is not left. -/
theorem EchoesInOrder.congr {x y : LinePort} (h : EchoesInOrder x)
    (hs : y.transmitter.state ≠ .sending → x.transmitter.state ≠ .sending)
    (hl : y.transmitter.echoList = x.transmitter.echoList)
    (hd : y.transmitter.driverEnable = x.transmitter.driverEnable)
    (hc : y.transmitter.charTime = x.transmitter.charTime) (hr : y.record.currentRate = x.record.currentRate) :
    EchoesInOrder y := by
  obtain ⟨outside, two, last, one, driven, ends⟩ := h
  constructor
  · exact fun e => hl ▸ outside (hs e)
  all_goals rw [hl]
  · exact two
  · exact last
  · exact one
  · rw [hd]; exact driven
  · rw [hd, hc, hr]; exact ends

/-- A character that starts while the echo list holds at most one, with its deadline set, joins it in order. -/
theorem EchoesInOrder.sendNext {x : LinePort} {r : Receiver} {t : Transmitter} (f : Slot) (sending : t.state = .sending)
    (one : t.echoList.length ≤ 1)
    (set : ∀ e ∈ t.echoList, e.deadline = some (charCycles x.record.currentRate)) :
    EchoesInOrder { x with receiver := r, transmitter := t.sendNext f } := by
  have judged : ∀ e ∈ t.echoList, e.deadline ≠ none := fun e he => by simp [set e he]
  unfold Transmitter.sendNext
  split
  · refine ⟨fun n => absurd sending n, by simpa using one, by simpa using judged, fun all => ?_, fun n => by simp at n, ?_⟩
    · exact absurd rfl (all ⟨_, none⟩ (List.mem_append_right _ (List.mem_singleton.mpr rfl)))
    · intro _ e he d hd
      rcases List.mem_append.mp he with he | he
      · have : some (charCycles x.record.currentRate) = some d := (set e he).symm.trans hd
        cases this
        exact .inr (Nat.le_refl _)
      · rw [List.mem_singleton.mp he] at hd; cases hd
  · exact ⟨fun n => absurd sending n, one.trans (by simp), fun e he => judged e (List.mem_of_mem_dropLast he),
      fun _ => one, fun _ => judged, fun n => by simp at n⟩

/-- When the stop bit of a character ends with no echo missing, no other character is unjudged. -/
theorem EchoesInOrder.unjudged {x : LinePort} (h : EchoesInOrder x) (drives : x.transmitter.driverEnable = true)
    (ended : charCycles x.record.currentRate ≤ x.transmitter.charTime) (judged : x.transmitter.echoMissing = false) :
    x.transmitter.echoList.length ≤ 1 ∧ ∀ e ∈ x.transmitter.echoList, e.deadline = none := by
  have pos : 0 < charCycles x.record.currentRate := by
    unfold charCycles bitCycles sampleDivisor
    split <;> simp
  have unset : ∀ e ∈ x.transmitter.echoList, e.deadline = none := by
    intro e he
    cases hd : e.deadline with
    | none => rfl
    | some d =>
      have : d = 0 := by
        rcases h.ends drives e he d hd with e | e
        · exact e
        · omega
      subst this
      rw [(x.transmitter.echoMissing_iff).mpr ⟨e, he, hd⟩] at judged
      cases judged
  refine ⟨?_, unset⟩
  have none : x.transmitter.echoList.dropLast = [] :=
    List.eq_nil_iff_forall_not_mem.mpr fun e he => h.last e he (unset e (List.mem_of_mem_dropLast he))
  have := congrArg List.length none
  simp only [List.length_dropLast, List.length_nil] at this
  omega

/-- Every move keeps the echo list in order, the halves of the port in agreement. -/
theorem EchoesInOrder.move {phase : Phase} {x y : LinePort} (h : EchoesInOrder x) (c : HalvesAgree phase x)
    (m : PortMove phase x y) : EchoesInOrder y := by
  have idle : x.transmitter.state ≠ .sending → y.transmitter.echoList = x.transmitter.echoList → EchoesInOrder y :=
    fun n e => .of_empty (e.trans (h.outside n))
  cases m with
  | times same => rw [same]; exact ⟨h.1, h.2, h.3, h.4, h.5, h.6⟩
  | receives r => exact ⟨h.1, h.2, h.3, h.4, h.5, h.6⟩
  | begins f hunts waits => exact .sendNext f rfl (by simp) (by simp)
  | sends f sending drives ended judged =>
    obtain ⟨one, unset⟩ := h.unjudged drives ended judged
    refine .sendNext f sending (by simpa [setLastDeadline] using one) fun e he => ?_
    obtain ⟨e', he', rfl⟩ := List.mem_map.mp he
    simp [unset e' he']
  | collides sending => exact .of_empty (by simp)
  | echoes e rest sending oldest =>
    obtain ⟨_, two, _, _, driven, ends⟩ := h
    rw [oldest] at two driven ends
    have one : rest.length ≤ 1 := by simpa using two
    refine ⟨fun n => absurd sending n, one.trans (by simp), fun e he => ?_, fun _ => one,
      fun n e he => driven n e (List.mem_cons_of_mem _ he), fun n e he => ends n e (List.mem_cons_of_mem _ he)⟩
    have := List.length_pos_of_mem he
    simp only [List.length_dropLast] at this
    omega
  | completes e rest sending => exact .of_empty rfl
  | jamEnds q jams => exact idle (by simp [jams]) (by simp [LinePort.jamEnded])
  | backoffEnds backs => exact idle (by simp [backs]) rfl
  | joins e t service up place =>
    obtain ⟨hs, hd, hl, hc, -⟩ := place.same
    refine h.congr (fun n => ?_) (by simp [hl]) (by simp [hd]) (by simp [hc]) rfl
    rcases wakeTransmitter_state x.record.admin { t with queue := t.joined e } with c | ⟨b, -⟩
    · exact fun e => n ((c.trans hs).trans e)
    · exact fun e => by simp [hs, e] at b
  | withdraws i =>
    refine h.congr (fun n => ?_) (by simp) (by simp) (by simp) rfl
    rcases restTransmitter_state { x.transmitter with
      queue := x.transmitter.inTransmission ++ x.transmitter.waiting.filter (·.slot != i) } with c | ⟨b, -⟩
    · exact fun e => n (c.trans e)
    · exact fun e => by simp [e] at b
  | goesDown a down => exact .of_empty rfl
  | comesUp a service was => exact idle (by rw [c.off.mpr (.inl was)]; simp) rfl
  | holds enabled =>
    refine h.congr (fun n => ?_) (by simp) (by simp) (by simp) rfl
    rcases held_state x.transmitter with c | ⟨b, -⟩
    · exact fun e => n (c.trans e)
    · exact fun e => by simp [e] at b
  | enables held =>
    refine h.congr (fun n => ?_) (by simp) (by simp) (by simp) rfl
    rcases wakeTransmitter_state .enabled x.transmitter with c | ⟨b, -⟩
    · exact fun e => n (c.trans e)
    · exact fun e => by simp [e] at b
  | disables isolated => exact ⟨h.1, h.2, h.3, h.4, h.5, h.6⟩
  | loadsAdmin a loads => exact ⟨h.1, h.2, h.3, h.4, h.5, h.6⟩
  | asksRate c window => exact ⟨h.1, h.2, h.3, h.4, h.5, h.6⟩
  | confirmsRate => exact ⟨h.1, h.2, h.3, h.4, h.5, h.6⟩
  | changesRate r quiet record => exact .of_empty (h.outside quiet)


/-! ## The order of a queue (R30, R31) -/

/-- The queue of a transmitter whose head stays in or out of transmission. -/
theorem waiting_congr {t u : Transmitter} (hq : u.queue = t.queue) (hh : u.headInTransmission = t.headInTransmission) :
    u.waiting = t.waiting := by
  unfold Transmitter.waiting
  rw [hq, hh]

theorem QueueInOrder.congr {t u : Transmitter} (h : QueueInOrder t) (hq : u.queue = t.queue)
    (hh : u.headInTransmission = t.headInTransmission) : QueueInOrder u :=
  ⟨hq ▸ h.room, waiting_congr hq hh ▸ h.bands, hq ▸ h.entries⟩

/-- A part of the entries that wait keeps the queue in order. -/
theorem QueueInOrder.sublist {t u : Transmitter} (h : QueueInOrder t) (hq : u.queue.Sublist t.queue)
    (hw : u.waiting.Sublist t.waiting) : QueueInOrder u :=
  ⟨hq.length_le.trans h.room, h.bands.sublist hw, fun e he => h.entries e (hq.subset he)⟩

/-- A PRIORITY entry behind the PRIORITY entries, and any entry between the bands, keeps the bands in order. -/
theorem bandsInOrder_behindPriority {q : List QueueEntry} (e : QueueEntry) (h : bandsInOrder q) :
    bandsInOrder (behindPriority e q) := by
  have front : ∀ x ∈ q.takeWhile (·.band == .priority), x.band = .priority := fun x hx => by
    simpa using List.mem_takeWhile_imp hx
  have back : ∀ x ∈ q.dropWhile (·.band == .priority), x.band = .ordinary := by
    intro x hx
    cases hd : q.dropWhile (·.band == .priority) with
    | nil => rw [hd] at hx; cases hx
    | cons y l =>
      have hy : y.band = .ordinary := by
        have := List.head?_dropWhile_not (p := fun e : QueueEntry => e.band == .priority) (l := q)
        rw [hd] at this
        cases hb : y.band with
        | ordinary => rfl
        | priority => simp [hb] at this
      have hp : (y :: l).Pairwise fun a b => ¬ (a.band = .ordinary ∧ b.band = .priority) :=
        hd ▸ h.sublist (List.dropWhile_sublist _)
      rw [hd] at hx
      rcases List.mem_cons.mp hx with rfl | hx
      · exact hy
      · have := (List.pairwise_cons.mp hp).1 x hx
        cases hb : x.band with
        | ordinary => rfl
        | priority => exact absurd ⟨hy, hb⟩ this
  unfold behindPriority
  refine List.pairwise_append.mpr ⟨h.sublist (List.takeWhile_sublist _), List.pairwise_cons.mpr
    ⟨fun x hx => by simp [back x hx], h.sublist (List.dropWhile_sublist _)⟩, fun a ha b _ => by simp [front a ha]⟩

/-- A new entry's place keeps every entry. -/
theorem joined_perm (t : Transmitter) (e : QueueEntry) : (t.joined e).Perm (e :: t.queue) := by
  unfold Transmitter.joined
  cases e.band with
  | ordinary => exact List.perm_append_singleton e t.queue
  | priority =>
    refine ((behindPriority_perm e t.waiting).append_left t.inTransmission).trans ?_
    refine List.perm_middle.trans ?_
    rw [t.inTransmission_append_waiting]

/-- The entries that wait when they have been replaced: the new ones, or fewer where no head stands in transmission. -/
theorem waiting_replaced (t : Transmitter) (w : List QueueEntry) :
    (Transmitter.waiting { t with queue := t.inTransmission ++ w }).Sublist w := by
  by_cases h : t.queue = []
  · have hw : Transmitter.waiting { t with queue := t.inTransmission ++ w } =
        if t.headInTransmission then w.drop 1 else w := by
      rw [inTransmission_of_empty h]; rfl
    rw [hw]
    split
    · exact List.drop_sublist 1 w
    · exact .refl w
  · rw [(t.parts_of_waiting w h).2]

/-- Waking and resting put no head into transmission and take none out. -/
theorem headInTransmission_of_state {t u : Transmitter} (h : u.state = t.state ∨ BetweenFrames t.state ∧ BetweenFrames u.state) :
    u.headInTransmission = t.headInTransmission := by
  unfold Transmitter.headInTransmission
  rcases h with h | ⟨ht, hu⟩
  · rw [h]
  · rcases ht with e | e | e <;> rcases hu with e' | e' | e' <;> rw [e, e']

theorem headInTransmission_wake (a : AdminState) (t : Transmitter) :
    (wakeTransmitter a t).headInTransmission = t.headInTransmission :=
  headInTransmission_of_state ((wakeTransmitter_state a t).imp id fun ⟨b, c⟩ => ⟨.inl b, .inr (.inl c)⟩)

theorem headInTransmission_rest (t : Transmitter) :
    (restTransmitter t).headInTransmission = t.headInTransmission :=
  headInTransmission_of_state ((restTransmitter_state t).imp id fun ⟨b, c⟩ => ⟨.inr (.inl b), .inl c⟩)

theorem headInTransmission_held (t : Transmitter) : t.held.headInTransmission = t.headInTransmission :=
  headInTransmission_of_state ((held_state t).imp id fun ⟨b, c⟩ => ⟨by
    rcases b with b | b <;> simp [b, BetweenFrames], .inl c⟩)

/-- A joined entry takes its place in its band. -/
theorem bandsInOrder_joined {t : Transmitter} (e : QueueEntry) (h : bandsInOrder t.waiting) :
    bandsInOrder (Transmitter.waiting { t with queue := t.joined e }) := by
  unfold Transmitter.joined
  cases hb : e.band with
  | ordinary =>
    have : (Transmitter.waiting { t with queue := t.queue ++ [e] }).Sublist (t.waiting ++ [e]) := by
      have := waiting_replaced t (t.waiting ++ [e])
      rwa [← List.append_assoc, t.inTransmission_append_waiting] at this
    refine (List.pairwise_append.mpr ⟨h, List.pairwise_singleton .., fun a _ b hbm => ?_⟩).sublist this
    rw [List.mem_singleton.mp hbm]
    simp [hb]
  | priority => exact (bandsInOrder_behindPriority e h).sublist (waiting_replaced t _)

/-- A head back from transmission takes its place in its band (R31). -/
theorem bandsInOrder_replacedHead {q : List QueueEntry} (h : bandsInOrder (q.drop 1)) : bandsInOrder (replacedHead q) := by
  cases q with
  | nil => exact .nil
  | cons e rest =>
    simp only [replacedHead]
    split
    · exact bandsInOrder_behindPriority e h
    · next hb => exact List.pairwise_cons.mpr ⟨fun x _ => by simp [hb], h⟩

theorem replacedHead_perm (q : List QueueEntry) : (replacedHead q).Perm q := by
  cases q with
  | nil => exact .refl _
  | cons e rest =>
    simp only [replacedHead]
    split
    · exact behindPriority_perm e rest
    · exact .refl _

/-- The youngest ORDINARY entry and the others are the whole list. -/
theorem takeYoungestOrdinary_perm {l rest : List QueueEntry} {d : QueueEntry}
    (h : takeYoungestOrdinary l = some (d, rest)) : rest.Sublist l ∧ l.Perm (d :: rest) := by
  induction l generalizing rest with
  | nil => cases h
  | cons e l ih =>
    unfold takeYoungestOrdinary at h
    split at h
    · next heq =>
      cases h
      obtain ⟨sub, perm⟩ := ih heq
      exact ⟨sub.cons_cons e, (perm.cons e).trans (.swap ..)⟩
    · split at h
      · cases h; exact ⟨List.sublist_cons_self .., .refl _⟩
      · cases h

/-- The queue with fewer entries that wait is a part of it. -/
theorem queue_replaced {t : Transmitter} {w : List QueueEntry} (h : w.Sublist t.waiting) :
    (t.inTransmission ++ w).Sublist t.queue := by
  have := h.append_left t.inTransmission
  rwa [t.inTransmission_append_waiting] at this

/-- A collision changes the head's count alone, up to 2. -/
theorem QueueInOrder.collided {t : Transmitter} (h : QueueInOrder t) (sending : t.state = .sending) :
    QueueInOrder t.collided := by
  have hw : t.waiting = t.queue.drop 1 := by simp [Transmitter.waiting, Transmitter.headInTransmission, sending]
  have same : t.collided.queue = t.queue → QueueInOrder t.collided := fun e =>
    h.congr e (by simp [Transmitter.headInTransmission, sending])
  unfold Transmitter.collided at same ⊢
  cases hq : t.queue with
  | nil => rw [hq] at same; exact same rfl
  | cons e rest =>
    rw [hq] at same hw
    simp only at same ⊢
    split
    · next hc =>
      obtain ⟨room, bands, entries⟩ := h
      rw [hq] at room entries
      rw [hw] at bands
      refine ⟨room, bands, fun x hx => ?_⟩
      rcases List.mem_cons.mp hx with rfl | hx
      · exact ⟨hc, (entries e (by simp)).2⟩
      · exact entries x (List.mem_cons_of_mem _ hx)
    · next hc => rw [if_neg hc] at same; exact same rfl

/-- A queue with a place made in it holds at most 15 entries, in order. -/
theorem QueueInOrder.placeMade {t u : Transmitter} (h : QueueInOrder t) (place : PlaceMade t u) :
    u.queue.length + 1 ≤ 16 ∧ QueueInOrder u := by
  rcases place with ⟨room, rfl⟩ | ⟨d, rest, youngest, rfl⟩
  · exact ⟨room, h⟩
  · obtain ⟨sub, perm⟩ := takeYoungestOrdinary_perm youngest
    refine ⟨?_, h.sublist (queue_replaced sub) ((waiting_replaced ..).trans sub)⟩
    have parts := congrArg List.length t.inTransmission_append_waiting
    have whole := perm.length_eq
    have room := h.room
    simp only [List.length_append, List.length_cons] at parts whole ⊢
    omega

/-- Every move keeps a queue in order, the halves of the port in agreement. -/
theorem QueueInOrder.move {phase : Phase} {x y : LinePort} (h : QueueInOrder x.transmitter) (c : HalvesAgree phase x)
    (m : PortMove phase x y) : QueueInOrder y.transmitter := by
  have drop : (x.transmitter.queue.drop 1).Sublist x.transmitter.waiting := by
    unfold Transmitter.waiting
    split
    · exact .refl _
    · exact List.drop_sublist ..
  cases m with
  | times same => rw [same]; exact ⟨h.1, h.2, h.3⟩
  | begins f hunts waits =>
    refine h.sublist (by simp) ?_
    simpa [Transmitter.waiting, Transmitter.headInTransmission] using drop
  | sends f sending => exact h.congr (by simp) (by simp [Transmitter.headInTransmission])
  | collides sending => exact h.collided sending
  | completes e rest sending echoed head =>
    have out : ({ x.transmitter with
        charTime := 0, driverEnable := false, echoList := [], nextPosition := 0, queue := rest,
        state := restingState x.record.admin rest } : Transmitter).headInTransmission = false := by
      rcases restingState_cases x.record.admin rest with c | c <;> simp [Transmitter.headInTransmission, c]
    rw [head] at drop
    refine h.sublist (by simp [head]) ?_
    unfold Transmitter.waiting at drop ⊢
    rw [out]
    exact drop
  | jamEnds q jams left =>
    have out : (x.jamEnded q).transmitter.waiting = q := by
      rcases afterJam_state { x.transmitter with
        discardAtJamEnd := false, driverEnable := false, jamTime := 0, queue := q } x.record.admin with c | c <;>
      simp [LinePort.jamEnded, Transmitter.waiting, Transmitter.headInTransmission, c]
    have hq : (x.jamEnded q).transmitter.queue = q := by simp [LinePort.jamEnded]
    have waits : x.transmitter.waiting = x.transmitter.queue.drop 1 := by
      simp [Transmitter.waiting, Transmitter.headInTransmission, jams]
    obtain ⟨room, bands, entries⟩ := h
    rw [waits] at bands
    rcases left with rfl | ⟨e, he⟩
    · have perm := replacedHead_perm x.transmitter.queue
      exact ⟨by rw [hq, perm.length_eq]; exact room, by rw [out]; exact bandsInOrder_replacedHead bands,
        fun e he => entries e (perm.subset (hq ▸ he))⟩
    · rw [he] at room bands entries
      exact ⟨by rw [hq]; exact (Nat.le_succ _).trans room, by rw [out]; exact bands,
        fun x hx => entries x (List.mem_cons_of_mem _ (hq ▸ hx))⟩
  | backoffEnds backs =>
    refine h.congr rfl (headInTransmission_of_state (.inr ⟨.inr (.inr backs), ?_⟩))
    rcases restingState_cases x.record.admin x.transmitter.queue with c | c <;> simp [c, BetweenFrames]
  | joins e t service up place fresh band =>
    refine QueueInOrder.congr (t := { t with queue := t.joined e }) ?_ (by simp) (headInTransmission_wake ..)
    have perm := joined_perm t e
    obtain ⟨room, kept⟩ := h.placeMade place
    refine ⟨perm.length_eq ▸ room, bandsInOrder_joined e kept.bands, fun y hy => ?_⟩
    rcases List.mem_cons.mp (perm.subset hy) with rfl | hy
    · exact ⟨fresh, band⟩
    · exact kept.entries y hy
  | withdraws i =>
    refine QueueInOrder.congr ?_ (restTransmitter_keeps _).1 (headInTransmission_rest _)
    exact h.sublist (queue_replaced List.filter_sublist) ((waiting_replaced ..).trans List.filter_sublist)
  | goesDown a down => exact ⟨by simp, by simp [Transmitter.waiting], by simp⟩
  | comesUp a service was =>
    have empty := (c.rest (c.off.mpr (.inl was))).1
    exact ⟨by simp [LinePort.started, Transmitter.started, empty],
      by simp [LinePort.started, Transmitter.started, Transmitter.waiting, empty],
      by simp [LinePort.started, Transmitter.started, empty]⟩
  | holds enabled => exact h.congr (by simp) (headInTransmission_held _)
  | enables held => exact h.congr (by simp) (headInTransmission_wake ..)
  | _ => exact ⟨h.1, h.2, h.3⟩

/-- Moves one after another keep what each of them keeps. -/
theorem PortMoves.keeps {phase : Phase} {P : LinePort → Prop}
    (step : ∀ {x y}, HalvesAgree phase x → P x → PortMove phase x y → P y) {x y : LinePort} (h : HalvesAgree phase x)
    (hp : P x) (m : PortMoves phase x y) : HalvesAgree phase y ∧ P y := by
  induction m with
  | refl => exact ⟨h, hp⟩
  | tail _ m ih => exact ⟨ih.1.move m, step ih.1 ih.2 m⟩

end Sys2Proof.Safety
end

section
/-! PROOFS. The traffic of the relay (`Traffic`): what the events of the lines, the queues and the Frame Store can do to the
state, the ports by their moves. -/

namespace Sys2Proof.Safety

open Sys2Proof.Machine

/-- `t` differs from `s` in the ports, by their moves, and in pieces that the invariants outside the Frame Store do not read;
no notice is raised. -/
structure Traffic (s t : State) : Prop where
  only : t = { s with
    ports := t.ports, slots := t.slots, words := t.words, counters := t.counters, reports := t.reports
    timeBase := t.timeBase
    relay := { s.relay with input := t.relay.input }
    management := { s.management with
      causes := t.management.causes, pendingRestart := t.management.pendingRestart, watch := t.management.watch }
    pins := { s.pins with resetHigh := t.pins.resetHigh, cfgen := t.pins.cfgen, rxd := t.pins.rxd }
    loader := { t.loader with state := s.loader.state }
    map := { s.map with timer := t.map.timer } }
  raised : t.words.raised = s.words.raised
  ports : ∀ p, PortMoves s.phase (s.port p) (t.port p)

theorem Traffic.refl (s : State) : Traffic s s := ⟨rfl, rfl, fun _ => .refl⟩

theorem Traffic.phase {s t : State} (h : Traffic s t) : t.phase = s.phase := by rw [h.only]

theorem Traffic.trans {s t u : State} (h : Traffic s t) (k : Traffic t u) : Traffic s u :=
  ⟨by rw [k.only, h.only], k.raised.trans h.raised, fun p => (h.ports p).trans (h.phase ▸ k.ports p)⟩

/-- A fold of traffic is traffic, while what each step needs is kept. -/
theorem Traffic.foldl {α : Type} {P : State → Prop} {f : State → α → State} (h : ∀ s a, P s → Traffic s (f s a))
    (hp : ∀ s a, P s → P (f s a)) (l : List α) (s : State) (hs : P s) : Traffic s (l.foldl f s) := by
  induction l generalizing s with
  | nil => exact .refl s
  | cons a l ih => exact (h s a hs).trans (ih _ (hp s a hs))

variable {s : State} {p : Port}

/-- A change that leaves the ports and raises nothing is traffic. -/
theorem Traffic.off {t : State} (only : t = { s with
    slots := t.slots, words := t.words, counters := t.counters, reports := t.reports
    timeBase := t.timeBase
    relay := { s.relay with input := t.relay.input }
    management := { s.management with
      causes := t.management.causes, pendingRestart := t.management.pendingRestart, watch := t.management.watch }
    pins := { s.pins with resetHigh := t.pins.resetHigh, cfgen := t.pins.cfgen, rxd := t.pins.rxd }
    loader := { t.loader with state := s.loader.state }
    map := { s.map with timer := t.map.timer } }) (raised : t.words.raised = s.words.raised) : Traffic s t :=
  ⟨by rw [only], raised, fun p => by rw [only]; exact .refl⟩

/-- Moves of one port are traffic. -/
theorem Traffic.port {f : LinePort → LinePort} (h : PortMoves s.phase (s.port p) (f (s.port p))) :
    Traffic s (s.modifyPort p f) :=
  ⟨rfl, rfl, fun q => by
    by_cases e : q = p
    · rw [e, State.port_modifyPort_same]; exact h
    · rw [State.port_modifyPort_other _ _ e]⟩

theorem Traffic.port_one {f : LinePort → LinePort} (h : PortMove s.phase (s.port p) (f (s.port p))) :
    Traffic s (s.modifyPort p f) := .port (.single h)

/-- A change of intervals, counters, options or the framer of one port is traffic. -/
theorem Traffic.times {f : LinePort → LinePort} (h : SameCore (s.port p) (f (s.port p))) : Traffic s (s.modifyPort p f) :=
  .port_one (.times h)

theorem Traffic.countPort (f : PortCounters → PortCounters) : Traffic s (s.countPort p f) := .times rfl

theorem Traffic.modifySlot (i : SlotId) (f : Slot → Slot) : Traffic s (s.modifySlot i f) := .off rfl rfl

theorem Traffic.letGo (i : SlotId) : Traffic s (s.letGo i) := .off (by rw [State.letGo_only]) (by simp)

theorem Traffic.addRef (i : SlotId) : Traffic s (s.addRef i) := .off rfl rfl

theorem Traffic.count (f : RelayCounters → RelayCounters) : Traffic s (s.count f) := .off rfl rfl

theorem Traffic.modifyWords {f : Words → Words} (raised : (f s.words).raised = s.words.raised) :
    Traffic s (s.modifyWords f) := .off rfl raised

theorem Traffic.askReport (reason : ReportReason) (key : ExchangeKey) (q : Port) :
    Traffic s (s.askReport reason key q) := .off rfl rfl

/-- An announcement raises no notice. -/
theorem announce_raised (s : State) (p : Port) (e : QueueEntry) (m : Manner) :
    (s.announce p e m).words.raised = s.words.raised := by
  unfold State.announce
  split <;> (try split) <;> (try split) <;> rfl

theorem Traffic.depart (m : Manner) (e : QueueEntry) : Traffic s (s.depart p m e) :=
  .off (by rw [State.depart_only]) (by unfold State.depart; rw [announce_raised]; simp)

theorem Traffic.departs (m : Manner) (l : List QueueEntry) :
    Traffic s (l.foldl (fun s e => State.depart s p m e) s) :=
  .foldl (P := fun _ => True) (fun _ e _ => .depart m e) (fun _ _ _ => trivial) l s trivial

/-! ## The transmit queues -/

/-- An entry as the relay offers it: with no collision yet, PRIORITY when it is GENERATED (R28, R30). -/
def Offered (e : QueueEntry) : Prop := e.collisions ≤ 2 ∧ (e.origin = .generated → e.band = .priority)

theorem Traffic.joinQueue {e : QueueEntry} (hs : s.phase = .inService) (up : (s.admin p).isDown = false)
    (room : (s.port p).transmitter.queue.length < 16) (he : Offered e) : Traffic s (s.joinQueue p e) := by
  have joins := PortMove.joins (x := s.port p) e _ hs up (.inl ⟨room, rfl⟩) he.1 he.2
  exact (Traffic.port_one (f := fun x => { x with
    transmitter := wakeTransmitter x.record.admin { x.transmitter with queue := x.transmitter.joined e } }) joins).trans
    (.addRef _)

/-- What a displacement leaves of the ports. -/
theorem port_displace (s : State) (p q : Port) (d : QueueEntry) (rest : List QueueEntry) :
    (s.displace p d rest).port q =
      if q = p then { s.port p with
        transmitter := { (s.port p).transmitter with queue := (s.port p).transmitter.inTransmission ++ rest }
        counters := { (s.port p).counters with displacements := stoppingSucc (s.port p).counters.displacements } }
      else s.port q := by
  unfold State.displace
  rw [State.port_congr (State.depart_ports ..)]
  by_cases e : q = p
  · simp [e]
  · simp [e]

/-- An admission at a full queue that displaces is traffic: one entry leaves the queue and the new one joins it. -/
theorem Traffic.displaceFor {d e : QueueEntry} {rest : List QueueEntry} (hs : s.phase = .inService)
    (up : (s.admin p).isDown = false) (h : takeYoungestOrdinary (s.port p).transmitter.waiting = some (d, rest))
    (he : Offered e) : Traffic s ((s.displace p d rest).joinQueue p e) := by
  refine ⟨?_, ?_, fun q => ?_⟩
  · rw [(State.displace_traffic s p d rest).trans (State.joinQueue_traffic _ p e)]
  · show (s.displace p d rest).words.raised = _
    unfold State.displace State.depart
    rw [announce_raised]; simp
  · by_cases hq : q = p
    · subst hq
      have joins := PortMove.joins (x := s.port q) e _ hs up (.inr ⟨d, rest, h, rfl⟩) he.1 he.2
      rw [State.port_joinQueue_same, port_displace, if_pos rfl]
      exact .tail (.single joins) (.times rfl)
    · rw [State.port_joinQueue_other _ _ hq, port_displace, if_neg hq]

theorem Traffic.refuseAtFull : Traffic s (s.refuseAtFull p) := by
  unfold State.refuseAtFull
  exact .countPort _

/-- An admission in service is traffic, whatever its answer. -/
theorem Traffic.offer {e : QueueEntry} (hs : s.phase = .inService) (he : Offered e) : Traffic s (s.offer p e).1 := by
  unfold State.offer
  split
  · exact .refl s
  · next up =>
    have up : (s.admin p).isDown = false := by simpa using up
    split
    · next room => exact .joinQueue hs up room he
    · split
      · exact .refuseAtFull
      · split
        · next h => exact .displaceFor hs up h he
        · exact .refuseAtFull

theorem Traffic.offerAll {e : QueueEntry} (hs : s.phase = .inService) (he : Offered e) (l : List Port) :
    Traffic s (s.offerAll e l).1 := by
  induction l generalizing s with
  | nil => exact .refl s
  | cons p l ih =>
    have first : Traffic s (s.offer p e).1 := .offer hs he
    exact first.trans (ih (first.phase.trans hs))

theorem Traffic.sendGenerated (hs : s.phase = .inService) (i : SlotId) (frame : List Character) (l : List Port) :
    Traffic s (s.sendGenerated i frame l).1 := by
  have built : Traffic s (s.modifySlot i fun f => { f with chars := frame }) := .modifySlot ..
  have sent : Traffic _ (State.offerAll (s.modifySlot i fun f => { f with chars := frame })
    { band := .priority, collisions := 0, origin := .generated, slot := i } l).1 :=
    .offerAll (built.phase.trans hs) ⟨by simp, fun _ => rfl⟩ l
  exact (built.trans sent).trans (.letGo i)

theorem Traffic.withdrawAt (i : SlotId) : Traffic s (s.withdrawAt i p) :=
  (Traffic.port_one (f := fun x => { x with
    transmitter := restTransmitter { x.transmitter with
      queue := x.transmitter.inTransmission ++ x.transmitter.waiting.filter (·.slot != i) } }) (.withdraws i)).trans
    (.departs ..)

theorem Traffic.withdraw (i : SlotId) : Traffic s (s.withdraw i) :=
  .foldl (P := fun _ => True) (fun _ _ _ => .withdrawAt i) (fun _ _ _ => trivial) _ s trivial

/-! ## The receiver -/

theorem Traffic.receives {f : Receiver → Receiver} (before : ReceivesFreely (s.port p).receiver)
    (after : ReceivesFreely (f (s.port p).receiver)) (slot : SlotInProgress (f (s.port p).receiver)) :
    Traffic s (s.modifyReceiver p f) := .port_one (f := fun x => { x with receiver := f x.receiver })
    (.receives _ before after slot)

/-- A change of the receiver that leaves its state and its current slot. -/
theorem Traffic.receiverTimes {f : Receiver → Receiver}
    (h : f (s.port p).receiver = { f (s.port p).receiver with
      state := (s.port p).receiver.state, currentSlot := (s.port p).receiver.currentSlot }) :
    Traffic s (s.modifyReceiver p f) :=
  .times (f := fun x => { x with receiver := f x.receiver }) (by unfold SameCore; simp only; rw [← h])

/-- A receiver state that a frame can be given up for. -/
def FreeState (st : ReceiverState) : Prop := st ≠ .off ∧ st ≠ .echo

theorem ReceivesFreely.of_eq {r : Receiver} {st : ReceiverState} (h : r.state = st) (f : FreeState st) :
    ReceivesFreely r := by
  unfold ReceivesFreely
  rwa [h]

theorem Traffic.abandonFrame {st : ReceiverState} (before : ReceivesFreely (s.port p).receiver) (after : FreeState st) :
    Traffic s (s.abandonFrame p st) := by
  have left : Traffic s (s.modifyReceiver p fun r => r.withoutFrame st) := .receives before after (by simp)
  unfold State.abandonFrame
  split
  · exact left.trans (.letGo _)
  · exact left

theorem receiver_abandonFrame (s : State) (p : Port) (st : ReceiverState) :
    ((s.abandonFrame p st).port p).receiver = (s.port p).receiver.withoutFrame st := by
  unfold State.abandonFrame
  split <;> simp

theorem Traffic.abortFrame {st : ReceiverState} (counter : PortCounters → PortCounters)
    (before : ReceivesFreely (s.port p).receiver) (after : FreeState st) : Traffic s (s.abortFrame p st counter) := by
  unfold State.abortFrame
  split
  · exact (Traffic.countPort counter).trans (.abandonFrame (by simpa using before) after)
  · exact .abandonFrame before after

theorem receiver_abortFrame (s : State) (p : Port) (st : ReceiverState) (counter : PortCounters → PortCounters) :
    ((s.abortFrame p st counter).port p).receiver = (s.port p).receiver.withoutFrame st := by
  unfold State.abortFrame
  split <;> simp [receiver_abandonFrame]

theorem Traffic.beginStored (i : SlotId) (c : Delivered) (before : ReceivesFreely (s.port p).receiver) :
    Traffic s (s.beginStored p i c) :=
  (Traffic.modifySlot i _).trans
    (.receives before (.of_eq rfl (by simp [FreeState])) (by simp [SlotInProgress, ReceiverState.frameInProgress]))

theorem Traffic.beginShed (before : ReceivesFreely (s.port p).receiver) : Traffic s (s.beginShed p) :=
  (Traffic.countPort _).trans
    (.receives (by simpa using before) (.of_eq rfl (by simp [FreeState])) (by simp [SlotInProgress]))

theorem Traffic.beginFrame (c : Delivered) (before : ReceivesFreely (s.port p).receiver) :
    Traffic s (s.beginFrame p c) := by
  unfold State.beginFrame
  split
  · next i s1 h =>
    unfold State.claimForReceiver at h
    split at h
    · obtain ⟨j, -, e⟩ := Option.map_eq_some_iff.mp h
      cases e
      exact (Traffic.modifySlot ..).trans (.beginStored _ _ before)
    · cases h
  · exact .beginShed before

theorem Traffic.huntCharacter (c : Delivered) (before : ReceivesFreely (s.port p).receiver) :
    Traffic s (s.huntCharacter p c) := by
  unfold State.huntCharacter
  split
  · exact .countPort _
  · exact .beginFrame c before

theorem Traffic.completeFrame (i : SlotId) (before : ReceivesFreely (s.port p).receiver) :
    Traffic s (s.completeFrame p i) := by
  have counted := Traffic.countPort (s := s) (p := p) fun k =>
    { k with
      goodFrames := stoppingSucc k.goodFrames
      noisyAccepted := if (s.port p).receiver.noiseSeen then stoppingSucc k.noisyAccepted else k.noisyAccepted }
  have used := counted.trans (.modifySlot i fun f => { f with state := .inUse })
  refine (used.trans (.receives (f := fun r => r.withoutFrame .hunt) ?_ (.of_eq rfl (by simp [FreeState]))
    (by simp))).trans (.off rfl rfl)
  rwa [State.port_congr (State.modifySlot_fields ..).2.2.2.2.1, State.port_countPort_same]

theorem Traffic.endFrame (before : ReceivesFreely (s.port p).receiver) : Traffic s (s.endFrame p) := by
  unfold State.endFrame
  split
  · split
    · exact .completeFrame _ before
    · exact (Traffic.countPort _).trans (.abandonFrame (by simpa using before) (by simp [FreeState]))
  · exact .abandonFrame before (by simp [FreeState])

theorem Traffic.storeCharacter (c : Delivered) : Traffic s (s.storeCharacter p c) := by
  unfold State.storeCharacter
  dsimp only
  split
  · exact (Traffic.modifySlot ..).trans (.receiverTimes rfl)
  · exact .receiverTimes rfl

theorem receiver_storeCharacter (s : State) (p : Port) (c : Delivered) :
    ((s.storeCharacter p c).port p).receiver.state = (s.port p).receiver.state := by
  unfold State.storeCharacter
  dsimp only
  split
  · rw [State.port_modifyReceiver_same]; rfl
  · rw [State.port_modifyReceiver_same]

theorem Traffic.afterCharacter (n : Nat) (c : Delivered) : Traffic s (s.afterCharacter p n c) := by
  unfold State.afterCharacter
  have free : ∀ st, (s.port p).receiver.state = st → FreeState st → ReceivesFreely (s.port p).receiver :=
    fun st h f => .of_eq h f
  dsimp only
  split
  · next h =>
    have before := free _ h (by simp [FreeState])
    split
    · exact .refl s
    · split
      · exact .abortFrame _ before (by simp [FreeState])
      · refine .receives before ⟨?_, ?_⟩ ?_ <;> (simp only [SlotInProgress]; split <;> simp [ReceiverState.frameInProgress])
  · next h =>
    split
    · exact .refl s
    · exact .receives (free _ h (by simp [FreeState])) (.of_eq rfl (by simp [FreeState]))
        (by simp [SlotInProgress, ReceiverState.frameInProgress])
  · next h =>
    split
    · exact .refl s
    · exact .endFrame (free _ h (by simp [FreeState]))
  all_goals exact .refl s

theorem Traffic.frameCharacter (c : Delivered) (before : ReceivesFreely (s.port p).receiver) :
    Traffic s (s.frameCharacter p c) := by
  unfold State.frameCharacter
  split
  · have aborted : Traffic s (s.abortAtGap p) := .abortFrame _ before (by simp [FreeState])
    refine aborted.trans (.huntCharacter c ?_)
    unfold State.abortAtGap
    rw [receiver_abortFrame]
    simp [ReceivesFreely]
  · split
    · exact .abortFrame _ before (by simp [FreeState])
    · split
      · split
        · exact (Traffic.countPort _).trans (.beginStored _ _ (by simpa using before))
        · exact .beginFrame c before
      · exact (Traffic.storeCharacter c).trans (.afterCharacter ..)

/-! ## The transmitter -/

theorem Traffic.collide (sending : (s.port p).transmitter.state = .sending) : Traffic s (s.collide p) := by
  refine (Traffic.countPort _).trans (.port_one (f := fun x => { x with transmitter := x.transmitter.collided }) (.collides ?_))
  simpa using sending

theorem Traffic.completeSending {e : QueueEntry} {rest : List QueueEntry}
    (sending : (s.port p).transmitter.state = .sending) (echo : (s.port p).receiver.state = .echo)
    (head : (s.port p).transmitter.queue = e :: rest) : Traffic s (s.completeSending p e rest) := by
  unfold State.completeSending
  refine ((Traffic.countPort _).trans (.port_one (.completes e rest ?_ ?_ ?_))).trans (.depart ..)
  · simpa using sending
  · simpa using echo
  · simpa using head

theorem Traffic.echoCharacter (c : Delivered) (echo : (s.port p).receiver.state = .echo) :
    Traffic s (s.echoCharacter p c) := by
  unfold State.echoCharacter
  dsimp only
  split
  · next sending =>
    split
    · exact .collide sending
    · split
      · next e rest oldest =>
        split
        · have echoes : Traffic s (s.modifyTransmitter p fun t => { t with echoList := rest }) :=
            .port_one (f := fun x => { x with transmitter := { x.transmitter with echoList := rest } })
              (.echoes e rest sending oldest)
          unfold State.goodEcho
          dsimp only
          split
          · next head =>
            split
            · exact .completeSending sending echo head
            · exact echoes
          · exact echoes
        · exact .collide sending
      · exact .collide sending
  · exact .refl s

theorem Traffic.receive (c : Delivered) : Traffic s (s.receive p c) := by
  unfold State.receive
  have free : ∀ st, (s.port p).receiver.state = st → FreeState st → ReceivesFreely (s.port p).receiver :=
    fun st h f => .of_eq h f
  split
  · exact .refl s
  · exact .refl s
  · next h => exact .huntCharacter c (free _ h (by simp [FreeState]))
  · next h => exact .frameCharacter c (free _ h (by simp [FreeState]))
  · next h => exact .frameCharacter c (free _ h (by simp [FreeState]))
  · next h => exact .frameCharacter c (free _ h (by simp [FreeState]))
  · next h => exact .echoCharacter c h

end Sys2Proof.Safety
end

section
/-! PROOFS. The events of a port as traffic: the line commands and the timed events (R3, R4, R46 to R70), going down and
coming up (R127 to R133), and rate applications (R134 to R138). -/

namespace Sys2Proof.Safety

open Sys2Proof.Machine

variable {s : State} {p : Port}

/-! ## Line events -/

theorem Traffic.deliverCharacter : Traffic s (deliverCharacter p s) := by
  unfold Machine.deliverCharacter
  split
  · exact (Traffic.times (f := fun x => { x with framer := { x.framer with assembling := false } }) rfl).trans (.receive _)
  · exact .refl s

theorem Traffic.judgeLevel : Traffic s (judgeLevel p s) := by
  refine .times ?_
  unfold SameCore
  split
  · rfl
  · unfold LinePort.levelChanged
    split <;> rfl

theorem Traffic.abortByGap : Traffic s (abortByGap p s) := by
  unfold Machine.abortByGap
  split
  · next h =>
    refine .abortFrame _ ?_ (by simp [FreeState])
    unfold ReceivesFreely
    revert h
    cases (s.port p).receiver.state <;> simp [ReceiverState.frameInProgress]
  · exact .refl s

theorem Traffic.leaveResync : Traffic s (leaveResync p s) := by
  unfold Machine.leaveResync
  dsimp only
  split
  · next h => exact .receives (.of_eq h.1 (by simp [FreeState])) (.of_eq rfl (by simp [FreeState])) (by simp)
  · exact .refl s

theorem Traffic.raiseStuck : Traffic s (raiseStuck p s) := by
  unfold Machine.raiseStuck
  dsimp only
  split
  · exact ((Traffic.countPort _).trans (.receiverTimes rfl)).trans (.off rfl rfl)
  · exact .refl s

theorem Traffic.startSending : Traffic s (startSending p s) := by
  unfold Machine.startSending
  split
  · next may =>
    simp only [State.maySend, Bool.and_eq_true, beq_iff_eq] at may
    obtain ⟨⟨⟨⟨waits, -⟩, -⟩, hunts⟩, -⟩ := may
    split
    · exact .port_one (.begins _ hunts waits)
    · exact .refl s
  · exact .refl s

/-- The next character of a frame started, the one before it judged. -/
theorem Traffic.sendNext (f : Slot) (sending : (s.port p).transmitter.state = .sending)
    (drives : (s.port p).transmitter.driverEnable = true) (ended : s.charTime p ≤ (s.port p).transmitter.charTime)
    (judged : (s.port p).transmitter.echoMissing = false) :
    Traffic s (s.modifyTransmitter p fun t =>
      ({ t with echoList := setLastDeadline (s.charTime p) t.echoList }).sendNext f) := by
  have move := PortMove.sends (phase := s.phase) f sending drives ended judged
  exact .port_one (f := fun x => { x with
    transmitter := ({ x.transmitter with
      echoList := setLastDeadline (s.charTime p) x.transmitter.echoList }).sendNext f }) move

theorem Traffic.finishCharacter : Traffic s (finishCharacter p s) := by
  unfold Machine.finishCharacter
  dsimp only
  split
  · next h =>
    obtain ⟨sending, drives, ended⟩ := h
    split
    · exact .collide sending
    · next judged =>
      split
      · exact .sendNext _ sending drives ended (by simpa using judged)
      · exact .refl s
  · exact .refl s

theorem Traffic.missEcho : Traffic s (missEcho p s) := by
  unfold Machine.missEcho
  dsimp only
  split
  · next h => exact .collide h.1
  · exact .refl s

theorem Traffic.endJam : Traffic s (endJam p s) := by
  unfold Machine.endJam
  dsimp only
  split
  · next h =>
    split
    · next e rest _ head =>
      refine ((Traffic.countPort _).trans (.port_one (.jamEnds rest ?_ (.inr ⟨e, ?_⟩)))).trans (.depart ..)
      · simpa using h.1
      · simpa using head
    · exact .port_one (.jamEnds _ h.1 (.inl rfl))
  · exact .refl s

theorem Traffic.endBackoff : Traffic s (endBackoff p s) := by
  unfold Machine.endBackoff
  split
  · next b backs _ =>
    split
    · exact .port_one (.backoffEnds backs)
    · exact .refl s
  · exact .refl s

/-! ## Going down and coming up -/

/-- Port `p` gone down, but for the Station Map and the word to the tracker. -/
def offline (s : State) (p : Port) (a : AdminState) : State :=
  ((s.modifyPort p fun x =>
    { x with record := { x.record with admin := a }, transmitter := x.transmitter.stopped }).stopReceiver p).flushQueue p

theorem goDown_eq (s : State) (p : Port) (a : AdminState) :
    s.goDown p a = ((offline s p a).removeStations fun e => e.isLearned && e.port == p).modifyWords fun w =>
      { w with portDown := w.portDown ++ [p] } := rfl

/-- A receiver that stops gives up its slot and changes nothing else. -/
theorem stopReceiver_only (s : State) (p : Port) :
    s.stopReceiver p = { s with ports := (s.stopReceiver p).ports, slots := (s.stopReceiver p).slots } := by
  unfold State.stopReceiver State.abandonFrame
  dsimp only
  split
  · rw [State.letGo_only]; rfl
  · rfl

theorem port_stopReceiver (s : State) (p q : Port) :
    (s.stopReceiver p).port q =
      if q = p then { s.port p with receiver := (s.port p).receiver.stopped } else s.port q := by
  unfold State.stopReceiver State.abandonFrame
  dsimp only
  by_cases e : q = p
  · subst e
    split <;> simp <;> rfl
  · split <;> simp [e]

theorem port_offline (s : State) (p q : Port) (a : AdminState) :
    (offline s p a).port q =
      if q = p then { s.port p with
        record := { (s.port p).record with admin := a }
        receiver := (s.port p).receiver.stopped
        transmitter := { (s.port p).transmitter.stopped with queue := [] } }
      else s.port q := by
  unfold offline
  by_cases e : q = p
  · subst e
    rw [State.port_flushQueue_same, port_stopReceiver]
    simp
  · rw [State.port_flushQueue_other _ e, port_stopReceiver]
    simp [e]

/-- A flush of a queue raises no notice. -/
theorem flushQueue_raised (s : State) (p : Port) : (s.flushQueue p).words.raised = s.words.raised :=
  (Traffic.departs (s := s.modifyTransmitter p fun t => { t with queue := [] }) .flushed _).raised

theorem Traffic.offline {a : AdminState} (down : a.isDown = true) : Traffic s (offline s p a) := by
  refine ⟨?_, ?_, fun q => ?_⟩
  · have h := (State.flushQueue_traffic ((s.modifyPort p fun x =>
      { x with record := { x.record with admin := a }, transmitter := x.transmitter.stopped }).stopReceiver p) p)
    unfold Safety.offline
    rw [h, stopReceiver_only]; rfl
  · unfold Safety.offline
    rw [flushQueue_raised, stopReceiver_only]; rfl
  · rw [port_offline]
    by_cases e : q = p
    · rw [if_pos e, e]; exact .single (.goesDown a down)
    · rw [if_neg e]

theorem Traffic.comeUp {a : AdminState} (hs : s.phase = .inService) (was : (s.admin p).isDown = true)
    (up : a.isDown = false) : Traffic s (s.comeUp p a) := .port_one (.comesUp a hs was up)

theorem Traffic.setPortOptions (learn floodUnknown autoRecover : Bool) :
    Traffic s (s.setPortOptions p learn floodUnknown autoRecover) :=
  .times (f := fun x => { x with record := { x.record with
    autoRecover := autoRecover, floodUnknown := floodUnknown, learn := learn
    recovery := x.record.recoveryWith autoRecover } }) rfl

/-! ## Rate applications -/

/-- What a rate application can make of a receiver: OFF and ECHO it leaves, another state it makes RESYNC. -/
def RateAnswered (r r' : Receiver) : Prop :=
  r'.state = r.state ∧ r'.currentSlot = r.currentSlot ∨ ReceivesFreely r ∧ ReceivesFreely r' ∧ SlotInProgress r'

theorem rateAtReceiver_port (s : State) (p q : Port) :
    (s.rateAtReceiver p).port q =
      if q = p then { s.port p with
        receiver := ((s.rateAtReceiver p).port p).receiver, counters := ((s.rateAtReceiver p).port p).counters }
      else s.port q := by
  by_cases e : q = p
  · subst e
    rw [if_pos rfl]
    unfold State.rateAtReceiver State.abortFrame State.abandonFrame
    dsimp only
    split <;> (try split) <;> (try split) <;> simp
  · rw [if_neg e]
    unfold State.rateAtReceiver State.abortFrame State.abandonFrame
    dsimp only
    split <;> (try split) <;> (try split) <;> simp [e]

theorem rateAtReceiver_answered (s : State) (p : Port) :
    RateAnswered (s.port p).receiver ((s.rateAtReceiver p).port p).receiver := by
  have aborts : ∀ k, FreeState (s.port p).receiver.state → RateAnswered (s.port p).receiver
      (((s.abortFrame p .resync k).modifyReceiver p fun r => { r with spaceInterval := 0 }).port p).receiver := by
    intro k f
    rw [State.port_modifyReceiver_same, receiver_abortFrame]
    exact .inr ⟨f, by simp [ReceivesFreely, Receiver.withoutFrame], by simp [SlotInProgress, Receiver.withoutFrame]⟩
  have syncs : FreeState (s.port p).receiver.state → RateAnswered (s.port p).receiver
      ((s.modifyReceiver p fun r => { r.withoutFrame .resync with spaceInterval := 0 }).port p).receiver := fun f => by
    rw [State.port_modifyReceiver_same]
    exact .inr ⟨f, by simp [ReceivesFreely, Receiver.withoutFrame], by simp [SlotInProgress, Receiver.withoutFrame]⟩
  unfold State.rateAtReceiver
  split
  · exact .inl ⟨rfl, rfl⟩
  · exact .inl (by simp)
  · next h => exact syncs (by simp [h, FreeState])
  · next h => exact syncs (by simp [h, FreeState])
  all_goals next h => exact aborts _ (by simp [h, FreeState])

theorem rateAtTransmitter_port (s : State) (p q : Port) :
    (s.rateAtTransmitter p).port q =
      if q = p then { s.port p with
        transmitter := ((s.rateAtTransmitter p).port p).transmitter
        counters := ((s.rateAtTransmitter p).port p).counters }
      else s.port q := by
  by_cases e : q = p
  · subst e
    rw [if_pos rfl]
    unfold State.rateAtTransmitter State.collide
    split <;> simp
  · rw [if_neg e]
    unfold State.rateAtTransmitter State.collide
    split <;> simp [e]

theorem rateAtTransmitter_sending (s : State) (p : Port) (h : (s.port p).transmitter.state = .sending) :
    ((s.rateAtTransmitter p).port p).transmitter = { (s.port p).transmitter.collided with quietInterval := 0 } := by
  simp [State.rateAtTransmitter, h, State.collide]

theorem rateAtTransmitter_quiet (s : State) (p : Port) (h : (s.port p).transmitter.state ≠ .sending) :
    ((s.rateAtTransmitter p).port p).transmitter = { (s.port p).transmitter with
      backoff := ((s.rateAtTransmitter p).port p).transmitter.backoff
      jamTime := ((s.rateAtTransmitter p).port p).transmitter.jamTime
      quietInterval := ((s.rateAtTransmitter p).port p).transmitter.quietInterval } := by
  unfold State.rateAtTransmitter
  split
  · rfl
  · simp
  · simp
  · next sending => exact absurd sending h
  · simp
  · simp

theorem abandonFrame_only (s : State) (p : Port) (st : ReceiverState) :
    s.abandonFrame p st = { s with ports := (s.abandonFrame p st).ports, slots := (s.abandonFrame p st).slots } := by
  unfold State.abandonFrame
  dsimp only
  split
  · rw [State.letGo_only]
    rfl
  · rfl

theorem abortFrame_only (s : State) (p : Port) (st : ReceiverState) (counter : PortCounters → PortCounters) :
    s.abortFrame p st counter = { s with
      ports := (s.abortFrame p st counter).ports, slots := (s.abortFrame p st counter).slots } := by
  unfold State.abortFrame
  split
  · rw [abandonFrame_only]
    rfl
  · exact abandonFrame_only ..

theorem rateAtReceiver_only (s : State) (p : Port) :
    s.rateAtReceiver p = { s with ports := (s.rateAtReceiver p).ports, slots := (s.rateAtReceiver p).slots } := by
  unfold State.rateAtReceiver
  split
  case h_5 | h_6 | h_7 => rw [abortFrame_only]; rfl
  all_goals rfl

theorem rateAtTransmitter_only (s : State) (p : Port) :
    s.rateAtTransmitter p = { s with ports := (s.rateAtTransmitter p).ports } := by
  unfold State.rateAtTransmitter
  split <;> rfl

/-- The state at a rate application once the framer has answered it. -/
def clocked (s : State) (p : Port) (c : RateCode) : State :=
  { s.modifyPort p fun x => { x with framer := x.framer.atRate, record := { x.record with currentRate := c } } with
    timeBase := { s.timeBase with samplePhase := s.timeBase.samplePhase.set p 0 } }

theorem applyRate_eq (s : State) (p : Port) (c : RateCode) :
    s.applyRate p c = ((clocked s p c).rateAtReceiver p).rateAtTransmitter p := rfl

theorem applyRate_only (s : State) (p : Port) (c : RateCode) :
    s.applyRate p c = { s with
      ports := (s.applyRate p c).ports, slots := (s.applyRate p c).slots, timeBase := (s.applyRate p c).timeBase } := by
  rw [applyRate_eq, rateAtTransmitter_only, rateAtReceiver_only]; rfl

theorem port_clocked (s : State) (p q : Port) (c : RateCode) :
    (clocked s p c).port q = if q = p then { s.port p with
      framer := (s.port p).framer.atRate, record := { (s.port p).record with currentRate := c } } else s.port q := by
  by_cases e : q = p
  · subst e; exact (Four.get_set_same ..).trans (if_pos rfl).symm
  · rw [if_neg e]; exact Four.get_set_other _ _ e

theorem port_applyRate_other (s : State) {p q : Port} (c : RateCode) (h : q ≠ p) :
    (s.applyRate p c).port q = s.port q := by
  rw [applyRate_eq, rateAtTransmitter_port, if_neg h, rateAtReceiver_port, if_neg h, port_clocked, if_neg h]

/-- A rate application and the change of the rate phase with it, as moves of the port. -/
theorem portMoves_applyRate {phase : Phase} (s : State) (p : Port) (c : RateCode) (f : PortRecord → PortRecord)
    (hf : ∀ r, f r = { r with confirmedRate := (f r).confirmedRate, ratePhase := (f r).ratePhase })
    (confirmed : ∀ r, r.currentRate = c → r.confirmedRate = (s.port p).record.confirmedRate →
      (f r).ratePhase = .steady → c = (f r).confirmedRate) :
    PortMoves phase (s.port p) (((s.applyRate p c).modifyRecord p f).port p) := by
  generalize hR : (((clocked s p c).rateAtReceiver p).port p).receiver = R
  generalize hK : (((clocked s p c).rateAtReceiver p).port p).counters = K
  have atReceiver : ((clocked s p c).rateAtReceiver p).port p = { s.port p with
      framer := (s.port p).framer.atRate, record := { (s.port p).record with currentRate := c }, receiver := R
      counters := K } := by
    rw [rateAtReceiver_port, if_pos rfl, hR, hK, port_clocked, if_pos rfl]
  have answered : RateAnswered (s.port p).receiver R := by
    have := rateAtReceiver_answered (clocked s p c) p
    rwa [hR, port_clocked, if_pos rfl] at this
  generalize hT : (((clocked s p c).rateAtReceiver p).rateAtTransmitter p |>.port p).transmitter = T
  generalize hL : (((clocked s p c).rateAtReceiver p).rateAtTransmitter p |>.port p).counters = L
  have whole : (s.applyRate p c).port p = { s.port p with
      framer := (s.port p).framer.atRate, record := { (s.port p).record with currentRate := c }, receiver := R
      transmitter := T, counters := L } := by
    rw [applyRate_eq, rateAtTransmitter_port, if_pos rfl, hT, hL, atReceiver]
  have framed : PortMoves phase (s.port p)
      { s.port p with framer := (s.port p).framer.atRate, receiver := R, counters := L } := by
    rcases answered with ⟨hs, hc⟩ | ⟨before, after, slot⟩
    · exact .single (.times (by unfold SameCore; simp [← hs, ← hc]))
    · exact .tail (.single (.receives R before after slot)) (.times rfl)
  have answer : PortMoves phase { s.port p with framer := (s.port p).framer.atRate, receiver := R, counters := L }
      { s.port p with framer := (s.port p).framer.atRate, receiver := R, transmitter := T, counters := L } ∧
      T.state ≠ .sending := by
    by_cases sending : (s.port p).transmitter.state = .sending
    · have hT' : T = { (s.port p).transmitter.collided with quietInterval := 0 } := by
        rw [← hT, rateAtTransmitter_sending _ _ (by rw [atReceiver]; exact sending), atReceiver]
      exact ⟨.tail (.single (.collides sending)) (.times (by rw [hT']; rfl)), by simp [hT']⟩
    · have hT' := rateAtTransmitter_quiet ((clocked s p c).rateAtReceiver p) p (by rw [atReceiver]; exact sending)
      rw [hT, atReceiver] at hT'
      exact ⟨.single (.times (congrArg (fun t => ({ s.port p with
        framer := (s.port p).framer.atRate, receiver := R, transmitter := t, counters := L } : LinePort)) hT')), by rw [hT']; exact sending⟩
  rw [State.port_modifyRecord_same, whole]
  refine (framed.trans answer.1).tail (.changesRate (f { (s.port p).record with currentRate := c }) answer.2 ?_ ?_)
  · rw [hf]
  · intro steady
    rw [hf]
    exact confirmed _ rfl rfl steady

theorem Traffic.applyRate (c : RateCode) (f : PortRecord → PortRecord)
    (hf : ∀ r, f r = { r with confirmedRate := (f r).confirmedRate, ratePhase := (f r).ratePhase })
    (confirmed : ∀ r, r.currentRate = c → r.confirmedRate = (s.port p).record.confirmedRate →
      (f r).ratePhase = .steady → c = (f r).confirmedRate) :
    Traffic s ((s.applyRate p c).modifyRecord p f) := by
  refine ⟨?_, ?_, fun q => ?_⟩
  · unfold State.modifyRecord State.modifyPort
    rw [applyRate_only]
  · simp
  · by_cases e : q = p
    · rw [e]; exact portMoves_applyRate s p c f hf confirmed
    · rw [State.port_modifyRecord_other _ _ e, port_applyRate_other s c e]

theorem Traffic.openWindow (c : RateCode) (seconds : Nat) : Traffic s (s.openWindow p c seconds) :=
  .applyRate c _ (fun _ => rfl) (fun _ _ _ h => by cases h)

theorem Traffic.takeRateReply : Traffic s (takeRateReply p s) := by
  unfold Machine.takeRateReply
  dsimp only
  split
  · have taken : Traffic s (s.modifyWords fun w => { w with rateReplies := w.rateReplies.erase p }) := .off rfl rfl
    split
    · exact taken.trans (.openWindow ..)
    · exact taken
    · exact taken
  · exact .refl s

end Sys2Proof.Safety
end

section
/-! PROOFS. What one command can do, as a list of moves of the whole relay (`Move`): every command is moves one after another
(`exec_reaches`), and the invariants outside the Frame Store are read off the list. -/

namespace Sys2Proof.Safety

open Sys2Proof.Machine

/-! ## Lists in order -/

/-- The entries of a Station Map in order, for a relay with own address `own` (R78). -/
structure StationList (own : Byte) (l : List StationEntry) : Prop where
  room : l.length ≤ 96
  ascends : l.Pairwise fun a b => a.address.toNat < b.address.toNat
  stations : ∀ e ∈ l, isStationAddress e.address = true ∧ e.address ≠ own

theorem stationsInOrder_iff (s : State) : StationsInOrder s ↔
    isStationAddress s.management.ownAddress = true ∧ StationList s.management.ownAddress s.map.entries :=
  ⟨fun ⟨h1, h2, h3, h4⟩ => ⟨h1, h2, h3, h4⟩, fun ⟨h1, h⟩ => ⟨h1, h.1, h.2, h.3⟩⟩

/-- Some of the addresses, in their order, stay in order, whatever else the entries hold. -/
theorem StationList.of_addresses {own : Byte} {l l' : List StationEntry} (h : StationList own l)
    (sub : (l'.map (·.address)).Sublist (l.map (·.address))) : StationList own l' := by
  have ascends : (l.map (·.address)).Pairwise fun a b : Byte => a.toNat < b.toNat := List.pairwise_map.mpr h.ascends
  have some := ascends.sublist sub
  refine ⟨?_, (List.pairwise_map (R := fun a b : Byte => a.toNat < b.toNat) (f := fun e : StationEntry => e.address)).mp some,
    fun e he => ?_⟩
  · simpa using sub.length_le.trans (by simpa using h.room)
  · obtain ⟨x, hx, hxe⟩ := List.mem_map.mp (sub.subset (List.mem_map_of_mem he))
    rw [← hxe]; exact h.stations x hx

theorem StationList.filter {own : Byte} {l : List StationEntry} (h : StationList own l) (f : StationEntry → Bool) :
    StationList own (l.filter f) := h.of_addresses (List.filter_sublist.map _)

theorem mem_insertStation {e x : StationEntry} {l : List StationEntry} :
    x ∈ insertStation e l ↔ x = e ∨ x ∈ l := by
  induction l with
  | nil => simp [insertStation]
  | cons y l ih =>
    unfold insertStation
    split
    · simp
    · simp only [List.mem_cons, ih]; exact or_left_comm

theorem length_insertStation (e : StationEntry) (l : List StationEntry) :
    (insertStation e l).length = l.length + 1 := by
  induction l with
  | nil => rfl
  | cons y l ih =>
    unfold insertStation
    split
    · rfl
    · simp [ih]

/-- An entry for a new address, put in its place, keeps the order. -/
theorem StationList.insert {own : Byte} {l : List StationEntry} (h : StationList own l) {e : StationEntry}
    (room : l.length < 96) (fresh : ∀ x ∈ l, x.address ≠ e.address) (station : isStationAddress e.address = true)
    (notOwn : e.address ≠ own) : StationList own (insertStation e l) := by
  obtain ⟨-, ascends, stations⟩ := h
  refine ⟨by rw [length_insertStation]; exact room, ?_, fun x hx => ?_⟩
  · clear room stations
    induction l with
    | nil => exact List.pairwise_singleton ..
    | cons y l ih =>
      obtain ⟨low, rest⟩ := List.pairwise_cons.mp ascends
      unfold insertStation
      split
      · next lt =>
        refine List.pairwise_cons.mpr ⟨fun x hx => ?_, ascends⟩
        rcases List.mem_cons.mp hx with rfl | hx
        · exact lt
        · exact lt.trans (low x hx)
      · next ge =>
        refine List.pairwise_cons.mpr ⟨fun x hx => ?_, ih (fun x hx => fresh x (List.mem_cons_of_mem _ hx)) rest⟩
        rcases mem_insertStation.mp hx with rfl | hx
        · have : y.address.toNat ≠ x.address.toNat := fun c => fresh y (by simp) (BitVec.eq_of_toNat_eq c)
          omega
        · exact low x hx
  · rcases mem_insertStation.mp hx with rfl | hx
    · exact ⟨station, notOwn⟩
    · exact stations x hx

/-- The records of an exchange table in order (R111). -/
structure RecordList (l : List Exchange) : Prop where
  room : l.length ≤ 16
  keys : l.Pairwise fun x y => x.key ≠ y.key
  attempts : ∀ x ∈ l, x.attempt ≤ 2

theorem exchangesInOrder_iff (s : State) : ExchangesInOrder s ↔ RecordList s.exchanges :=
  ⟨fun ⟨h1, h2, h3⟩ => ⟨h1, h2, h3⟩, fun h => ⟨h.1, h.2, h.3⟩⟩

theorem RecordList.sublist {l l' : List Exchange} (h : RecordList l) (sub : l'.Sublist l) : RecordList l' :=
  ⟨sub.length_le.trans h.room, h.keys.sublist sub, fun x hx => h.attempts x (sub.subset hx)⟩

theorem RecordList.append {l : List Exchange} (h : RecordList l) {x : Exchange} (room : l.length < 16)
    (fresh : ∀ y ∈ l, y.key ≠ x.key) (attempt : x.attempt ≤ 2) : RecordList (l ++ [x]) := by
  refine ⟨by simpa using room, List.pairwise_append.mpr ⟨h.keys, List.pairwise_singleton .., fun y hy z hz => ?_⟩,
    fun y hy => ?_⟩
  · rw [List.mem_singleton.mp hz]; exact fresh y hy
  · rcases List.mem_append.mp hy with hy | hy
    · exact h.attempts y hy
    · rw [List.mem_singleton.mp hy]; exact attempt

theorem RecordList.map {l : List Exchange} (h : RecordList l) {f : Exchange → Exchange} (key : ∀ x, (f x).key = x.key)
    (attempt : ∀ x, x.attempt ≤ 2 → (f x).attempt ≤ 2) : RecordList (l.map f) := by
  refine ⟨by simpa using h.room, List.pairwise_map.mpr (h.keys.imp fun c => by rwa [key, key]), fun y hy => ?_⟩
  obtain ⟨x, hx, rfl⟩ := List.mem_map.mp hy
  exact attempt x (h.attempts x hx)

/-! ## Moves of the relay -/

/-- The Notice Unit with its list and its numbers kept, and the notice in flight, where it has not been acknowledged, the one
it was or the head. -/
structure NoticeKept (u v : NoticeUnit) : Prop where
  list : v.list = u.list
  next : v.next = u.next
  target : v.target = u.target ∨ ∀ t ∈ v.target, isStationAddress t = true
  interval : v.interval = u.interval ∨ 1 ≤ v.interval ∧ v.interval ≤ 60
  carried : ∀ f ∈ v.inFlight, f.acknowledged = false →
    (∃ g ∈ u.inFlight, g.acknowledged = false ∧ g.sequence = f.sequence) ∨
      u.list.head?.map (·.sequence) = some f.sequence

/-- The timeout values lie in their range (R112). -/
def TimeoutsInRange (v : Four Nat) : Prop := ∀ c : TimeoutClass, 10 ≤ v.get c ∧ v.get c ≤ 2550 ∧ v.get c % 10 = 0

/-- The manager set lies in its range (R158). -/
def ManagersInRange (l : List Byte) : Prop := l.length ≤ 4 ∧ l.Nodup ∧ ∀ a ∈ l, isStationAddress a = true

/-- What a command does, one piece at a time, a cold start aside. -/
inductive Move : State → State → Prop
  | traffic {s t} (h : Traffic s t) : Move s t
  | raises {s} (kind : NoticeKind) (subject detail : Byte) (own : kind ≠ .imageResult) (service : s.phase = .inService) :
      Move s (s.raise kind subject detail)
  | takes {s} (n : RaisedNotice) : Move s (takeRaised n s)
  | notices {s} (u : NoticeUnit) (kept : NoticeKept s.notices u) : Move s { s with notices := u }
  | acknowledges {s t} (sequence : Byte) (h : s.acknowledge sequence = some t) : Move s t
  | exchanges {s} (l : List Exchange) (keeps : RecordList s.exchanges → RecordList l) : Move s { s with exchanges := l }
  | map {s} (m : StationMap)
      (keeps : StationList s.management.ownAddress s.map.entries → StationList s.management.ownAddress m.entries)
      (period : m.period = s.map.period ∨ 10 ≤ m.period ∧ m.period ≤ 3600) : Move s { s with map := m }
  | ownAddress {s} (a : Byte) (station : isStationAddress a = true) :
      Move s ((s.modifyManagement fun m => { m with ownAddress := a }).removeStations fun e => e.address == a)
  | timeouts {s} (v : Four Nat) (range : TimeoutsInRange v) : Move s { s with timeoutTable := v }
  | managers {s} (l : List Byte) (range : ManagersInRange l) : Move s (s.modifyManagement fun m => { m with managers := l })
  | requests {s} (l : List HeldFrame) (room : s.management.queue.length ≤ 4 → l.length ≤ 4) :
      Move s (s.modifyManagement fun m => { m with queue := l })
  | rules {s} (r : RelayUnit) (room : s.relay.rules.length ≤ 32 → r.rules.length ≤ 32) : Move s { s with relay := r }
  | flushes {s} (service : s.phase = .inService) : Move s (beginFlush s)
  | flushed {s} (flushes : s.phase = .flushing true) : Move s s.enterService
  | startsUp {s} (reset : s.phase = .inReset) : Move s s.endOfStartUp
  | loads {s} (reset : s.phase = .inReset) : Move s (({ s with phase := .loading }).beginPass .pass1)
  | turns {s} (loads : s.phase = .loading) (first : s.loader.state = .pass1) : Move s (s.endPass.beginPass .pass2)
  | loaded {s} (loads : s.phase = .loading) (status : ImageStatus) : Move s (s.endLoad status)

/-- Moves of the relay, one after another. -/
abbrev Moves : State → State → Prop := Relation.ReflTransGen Move

/-- No move touches the queue of commands. -/
theorem Move.pending {s t : State} (m : Move s t) : t.pending = s.pending := by
  cases m with
  | traffic h => rw [h.only]
  | takes n =>
    unfold takeRaised
    split <;> simp
  | acknowledges sequence h =>
    obtain ⟨n, rest, -, -, eq⟩ := State.acknowledge_some h
    rw [eq]
    rfl
  | startsUp reset =>
    unfold State.endOfStartUp
    split <;> rfl
  | loaded loads status =>
    unfold State.endLoad State.endOfStartUp
    dsimp only
    split <;> rfl
  | _ => rfl

theorem Moves.pending {s t : State} (m : Moves s t) : t.pending = s.pending := by
  induction m with
  | refl => rfl
  | tail _ m ih => exact m.pending.trans ih

/-- What a command comes to: moves, or a cold start. -/
inductive Reaches (s : State) : State → Prop
  | moves {t} (h : Moves s t) : Reaches s t
  | cold (u : State) (causes : ResetCauses) (resetHigh : Bool) (same : u.pending = s.pending) :
    Reaches s (u.coldStarted causes resetHigh)

theorem Reaches.pending {s t : State} (r : Reaches s t) : t.pending = s.pending := by
  cases r with
  | moves m => exact m.pending
  | cold u causes resetHigh same => exact same

theorem Reaches.after {s t u : State} (h : Moves s t) (k : Reaches t u) : Reaches s u := by
  cases k with
  | moves k => exact .moves (h.trans k)
  | cold v causes resetHigh same => exact .cold v causes resetHigh (same.trans h.pending)

variable {s t : State} {p : Port}

theorem Traffic.moves (h : Traffic s t) : Moves s t := .single (.traffic h)

/-! ## Exchanges -/

theorem moves_dropRecord (x : Exchange) : Move s (s.dropRecord x) :=
  .exchanges _ fun h => h.sublist (List.eraseP_sublist)

theorem moves_modifyExchange (k : ExchangeKey) {f : Exchange → Exchange} (key : ∀ x, (f x).key = x.key)
    (attempt : ∀ x, x.attempt ≤ 2 → (f x).attempt ≤ 2) : Move s (s.modifyExchange k f) :=
  .exchanges _ fun h => h.map (fun x => by split <;> simp [key]) (fun x hx => by
    split
    · exact attempt x hx
    · exact hx)

theorem moves_closeExchange (x : Exchange) (c : Closure) : Moves s (s.closeExchange x c) := by
  have traffic : Traffic (s.dropRecord x)
      (((((s.dropRecord x).modifyWords (c.words x)).withdraw x.slot).releaseRef x.slot).count c.count) := by
    have words : Traffic (s.dropRecord x) ((s.dropRecord x).modifyWords (c.words x)) := .off rfl rfl
    have release : ∀ u : State, Traffic u (u.releaseRef x.slot) := fun u =>
      .off (by rw [State.releaseRef_only]) (by simp)
    exact ((words.trans (.withdraw _)).trans (release _)).trans (.count _)
  refine .head (moves_dropRecord x) ?_
  unfold State.closeExchange
  dsimp only
  generalize ((((s.dropRecord x).modifyWords (c.words x)).withdraw x.slot).releaseRef x.slot).count c.count = released
    at traffic ⊢
  cases c.report with
  | some r => exact (traffic.trans (Traffic.off (t := released.askReport r x.key x.requesterPort) rfl rfl)).moves
  | none => exact traffic.moves

theorem phase_closeExchange (x : Exchange) (c : Closure) : (s.closeExchange x c).phase = s.phase := by
  rw [s.closeExchange_only x c]

theorem moves_takeTrackerWord {i : SlotId} {m : Manner} {x : Exchange} {age : Nat}
    (h : s.takeTrackerWord i m = some (x, age, t)) : Traffic s t := by
  obtain ⟨d, -, -, -, -, rfl⟩ := s.takeTrackerWord_some h
  exact .off rfl rfl

theorem moves_takeCompleted (i : SlotId) : Moves s (takeCompleted i s) := by
  unfold takeCompleted
  split
  · next x age u h =>
    have taken := (moves_takeTrackerWord h).moves
    split
    · exact taken.tail (moves_modifyExchange _ (fun _ => rfl) fun _ h => h)
    · exact taken.tail (moves_modifyExchange _ (fun _ => rfl) fun _ h => h)
    · exact taken
    · exact taken
  · exact .refl

theorem moves_loseCopy (x : Exchange) (c : Closure) : Moves s (s.loseCopy x c) := by
  unfold State.loseCopy
  split
  · split
    · exact .refl
    · exact moves_closeExchange x c
  · exact moves_closeExchange x c
  · exact .refl
  · exact .refl

theorem moves_takeDiscarded (i : SlotId) : Moves s (takeDiscarded i s) := by
  unfold takeDiscarded
  split
  · next h => exact (moves_takeTrackerWord h).moves.trans (moves_loseCopy ..)
  · exact .refl

theorem moves_takeDisplaced (i : SlotId) : Moves s (takeDisplaced i s) := by
  unfold takeDisplaced
  split
  · next h => exact (moves_takeTrackerWord h).moves.trans (moves_loseCopy ..)
  · exact .refl

theorem moves_retryExchange (hs : s.phase = .inService) (x : Exchange) : Moves s (s.retryExchange x p) := by
  have offered : Traffic s (s.offer p ⟨.ordinary, 0, .relayed, x.slot⟩).1 := .offer hs ⟨by simp, by simp⟩
  unfold State.retryExchange
  split
  · next u h =>
    rw [h] at offered
    have changed := moves_modifyExchange (s := u) x.key (f := fun y =>
      { y with attempt := 2, deadline := none, responderPort := .port p, state := .retryPending }) (fun _ => rfl)
      fun _ _ => Nat.le_refl 2
    exact (offered.moves.tail changed).trans (Traffic.count _).moves
  · next h =>
    rw [h] at offered
    exact offered.moves.trans (moves_closeExchange ..)

theorem moves_expireFirst (hs : s.phase = .inService) (k : ExchangeKey) : Moves s (expireFirst k s) := by
  unfold expireFirst
  split
  · split
    · split
      · exact moves_retryExchange hs _
      · exact moves_closeExchange ..
    · exact .refl
  · exact .refl

theorem moves_expireSecond (k : ExchangeKey) : Moves s (expireSecond k s) := by
  unfold expireSecond
  split
  · split
    · exact moves_closeExchange ..
    · exact .refl
  · exact .refl

theorem moves_takePortDown : Moves s (takePortDown p s) := by
  have judges : ∀ (l : List Exchange) (s : State), Moves s (l.foldl (State.judgePortDown p) s) := by
    intro l
    induction l with
    | nil => exact fun _ => .refl
    | cons x l ih =>
      intro s
      have first : Moves s (s.judgePortDown p x) := by
        unfold State.judgePortDown
        split
        · exact moves_closeExchange ..
        · exact .refl
      exact first.trans (ih _)
  unfold takePortDown
  split
  · have taken : Traffic s (s.modifyWords fun w => { w with portDown := w.portDown.erase p }) := .off rfl rfl
    exact taken.moves.trans (judges ..)
  · exact .refl

theorem moves_takeReport (hs : s.phase = .inService) : Moves s (takeReport s) := by
  have loses : ∀ u : State, Traffic u u.loseReport := fun u => .count _
  unfold takeReport
  split
  · exact .refl
  · next r rest hr =>
    have taken : Traffic s { s with reports := rest } := .off rfl rfl
    dsimp only
    split
    · exact (taken.trans (loses _)).moves
    · next i claimed hc =>
      obtain ⟨j, -, e⟩ := Option.map_eq_some_iff.mp hc
      cases e
      have claim := taken.trans (.modifySlot i fun _ => ⟨[], 0, .inUse⟩)
      have sent := claim.trans (.sendGenerated (claim.phase.trans hs) i (reportFrame s.management.ownAddress r) [r.port])
      split
      · next h => rw [h] at sent; exact (sent.trans (loses _)).moves
      · next h => rw [h] at sent; exact sent.moves

/-! ## The Station Map -/

theorem lookup_eq_none {s : State} {a : Byte} (h : s.lookup a = none) : ∀ x ∈ s.map.entries, x.address ≠ a := by
  simpa [State.lookup] using h

theorem lookup_eq_some {s : State} {a : Byte} {e : StationEntry} (h : s.lookup a = some e) :
    e ∈ s.map.entries ∧ e.address = a :=
  ⟨List.mem_of_find?_eq_some h, by simpa using List.find?_some h⟩

/-- An entry changed at its address keeps the order. -/
theorem move_modifyStation (a : Byte) {f : StationEntry → StationEntry} (hf : ∀ e, e.address = a → (f e).address = a) :
    Move s (s.modifyStation a f) := by
  refine .map _ (fun h => h.of_addresses ?_) (.inl rfl)
  have same : ((s.map.entries.map fun e => if e.address = a then f e else e).map (·.address)) =
      s.map.entries.map (·.address) := by
    rw [List.map_map]
    refine List.map_congr_left fun e _ => ?_
    show (if e.address = a then f e else e).address = _
    split
    · next c => rw [hf e c, c]
    · rfl
  exact same ▸ .refl _

theorem move_removeStations (gone : StationEntry → Bool) : Move s (s.removeStations gone) :=
  .map _ (fun h => h.filter _) (.inl rfl)

theorem move_addStation {e : StationEntry} (room : s.map.entries.length < 96) (fresh : s.lookup e.address = none)
    (station : isStationAddress e.address = true) (notOwn : e.address ≠ s.management.ownAddress) :
    Move s (s.addStation e) :=
  .map _ (fun h => h.insert room (lookup_eq_none fresh) station notOwn) (.inl rfl)

theorem move_startAging : Move s s.startAging := .map _ id (.inl rfl)

theorem moves_raise {kind : NoticeKind} {subject detail : Byte} (own : kind ≠ .imageResult)
    (service : s.phase = .inService) (h : Moves t s) : Moves t (s.raise kind subject detail) :=
  h.tail (.raises kind subject detail own service)

/-- The map update of a decision is moves of the map, and it stays in service. -/
theorem moves_updateMap (hs : s.phase = .inService) {a : Byte} (station : isStationAddress a = true)
    (notOwn : a ≠ s.management.ownAddress) : Moves s (s.updateMap a p).1 := by
  have counted : ∀ (u : State) (f), Move u (u.count f) := fun _ f => .traffic (.count f)
  unfold State.updateMap
  split
  · next none =>
    split
    · exact .refl
    · unfold State.learnNew
      split
      · split
        · next room => exact .single (move_addStation (by simpa [State.mapHasRoom] using room) none station notOwn)
        · exact moves_raise (by simp) hs (.single (counted _ _))
      · exact .refl
  · next e he =>
    have hea := (lookup_eq_some he).2
    split
    · exact moves_raise (by simp) hs (.single (counted _ _))
    · split
      · exact .refl
      · split
        · refine .single (move_modifyStation a fun e h => ?_)
          unfold StationEntry.refreshed
          split <;> exact h
        · unfold State.moveStation
          split
          · have moved := move_modifyStation (s := s) e.address
              (f := fun e => { e with origin := .learned 0, port := p, silence := 0 }) fun _ h => h
            exact moves_raise (by simp) hs ((Relation.ReflTransGen.single moved).tail (counted _ _))
          · exact .single (move_modifyStation _ fun _ h => h)

/-- Aging keeps an entry's address. -/
theorem aged_address {e y : StationEntry} (h : e.aged = some y) : y.address = e.address := by
  unfold StationEntry.aged at h
  split at h
  · split at h
    · cases h
    · cases h; rfl
  · cases h; rfl

theorem moves_expireAging : Moves s (expireAging s) := by
  unfold expireAging
  split
  · refine .tail (.single (.map { s.map with entries := s.map.entries.filterMap StationEntry.aged }
      (fun h => h.of_addresses ?_) (.inl rfl))) move_startAging
    have aged : ∀ l : List StationEntry, ((l.filterMap StationEntry.aged).map (·.address)).Sublist (l.map (·.address)) := by
      intro l
      induction l with
      | nil => exact .slnil
      | cons e l ih =>
        rw [List.filterMap_cons]
        cases h : e.aged with
        | none => exact ih.trans (List.sublist_cons_self ..)
        | some y => simpa [aged_address h] using ih.cons_cons e.address
    exact aged _
  · exact .refl

theorem moves_takeTimeoutWord (hs : s.phase = .inService) (a : Byte) : Moves s (takeTimeoutWord a s) := by
  unfold takeTimeoutWord
  split
  · have word : Traffic s (s.modifyWords fun w => { w with timeouts := w.timeouts.erase a }) := .off rfl rfl
    have taken := word.moves
    dsimp only
    split
    · split
      · exact taken
      · have risen := taken.tail (move_modifyStation a (f := fun e => { e with silence := e.silence + 1 }) fun _ h => h)
        split
        · exact moves_raise (by simp) hs risen
        · exact risen
    · exact taken
  · exact .refl

/-- The entry evicted stands in the map. -/
theorem evictionChoice_mem {l : List StationEntry} {x : StationEntry} (h : evictionChoice l = some x) : x ∈ l := by
  induction l generalizing x with
  | nil => cases h
  | cons e l ih =>
    unfold evictionChoice at h
    split at h
    · split at h
      · cases h; exact List.mem_cons_self
      · cases h
    · next y hy =>
      split at h
      · cases h; exact List.mem_cons_self
      · cases h; exact List.mem_cons_of_mem _ (ih hy)

theorem move_writeStatic {e : StationEntry} (station : isStationAddress e.address = true)
    (notOwn : e.address ≠ s.management.ownAddress) (h : s.writeStatic e = some t) : Move s t := by
  unfold State.writeStatic at h
  split at h
  · cases h
    exact move_modifyStation e.address (f := fun _ => e) fun _ _ => rfl
  · next none =>
    split at h
    · next room => cases h; exact move_addStation (by simpa [State.mapHasRoom] using room) none station notOwn
    · obtain ⟨x, hx, rfl⟩ := Option.map_eq_some_iff.mp h
      refine .map _ (fun h => (h.filter fun y => !(y.address == x.address)).insert ?_ ?_ station notOwn) (.inl rfl)
      · have fewer : (s.map.entries.filter fun y => !(y.address == x.address)).length < s.map.entries.length :=
          List.length_filter_lt_length_iff_exists.mpr ⟨x, evictionChoice_mem hx, by simp⟩
        exact fewer.trans_le h.room
      · exact fun y hy => lookup_eq_none none y (List.mem_of_mem_filter hy)

end Sys2Proof.Safety
end

section
/-! PROOFS. The units of the relay as moves: decisions, notices, Port Control, requests, restarts and the loader;. -/

namespace Sys2Proof.Safety

open Sys2Proof.Machine

variable {s t : State} {p : Port}

/-! ## Relay decisions -/

theorem Traffic.carry (hs : s.phase = .inService) (h : HeldFrame) (f : Slot) (output : List Port) :
    Traffic s (s.carry h f output).1 := by
  have raised : Traffic s (s.modifySlot h.slot Slot.raiseHop) := .modifySlot ..
  refine raised.trans (.offerAll (raised.phase.trans hs) ⟨by simp, by simp⟩ output)

theorem moves_carryRequest (hs : s.phase = .inService) (h : HeldFrame) (f : Slot) (output : List Port)
    (room : s.exchanges.length < 16) (fresh : s.findExchange f.requestKey = none) :
    Moves s (s.carryRequest h f output) := by
  have opens : Moves s (s.openExchange (s.newExchange h f output)) := by
    have new : ∀ y ∈ s.exchanges, y.key ≠ f.requestKey := by simpa [State.findExchange] using fresh
    exact (Relation.ReflTransGen.single (.exchanges _ fun l => l.append room new (by simp [State.newExchange]))).trans
      (Traffic.addRef _).moves
  have carried := opens.trans (Traffic.carry (s := s.openExchange (s.newExchange h f output)) hs h f output).moves
  unfold State.carryRequest
  dsimp only
  split
  · next e => rw [e] at carried; exact carried.trans (moves_closeExchange ..)
  · next e => rw [e] at carried; exact carried

theorem moves_openAndCarry (hs : s.phase = .inService) (h : HeldFrame) (f : Slot) (output : List Port) :
    Moves s (s.openAndCarry h f output) := by
  unfold State.openAndCarry
  split
  · split
    · exact (Traffic.count _).moves
    · next fresh =>
      split
      · next room => exact moves_carryRequest hs h f output room (by simpa using fresh)
      · exact ((Traffic.count _).trans (.askReport ..)).moves
  · exact (Traffic.carry hs h f output).moves

theorem moves_routeFrame (hs : s.phase = .inService) (h : HeldFrame) (f : Slot) (route : Route) :
    Moves s (s.routeFrame h f route) := by
  unfold State.routeFrame
  split
  · exact (Traffic.count _).moves
  · split
    · exact (Traffic.count _).moves
    · split
      · exact (Traffic.count _).moves
      · exact moves_openAndCarry hs ..

/-- A rule hit keeps the number of rules. -/
theorem firstMatch_length {h : HeldFrame} {f : Slot} {l l' : List Rule} {r : RuleFields}
    (e : firstMatch h f l = some (r, l')) : l'.length = l.length := by
  induction l generalizing r l' with
  | nil => cases e
  | cons x l ih =>
    unfold firstMatch at e
    split at e
    · cases e; rfl
    · obtain ⟨⟨r', l''⟩, hx, he⟩ := Option.map_eq_some_iff.mp e
      cases he
      simpa using ih hx

theorem moves_applyRules (hs : s.phase = .inService) (h : HeldFrame) (f : Slot) : Moves s (s.applyRules h f) := by
  have drops : ∀ u : State, Traffic u u.dropByRule := fun u => .count _
  unfold State.applyRules
  split
  · next r rules e =>
    have hit : Move s { s with relay := { s.relay with rules := rules } } := .rules _ fun l => (firstMatch_length e) ▸ l
    dsimp only
    split
    · exact .head hit (moves_routeFrame (s := { s with relay := { s.relay with rules := rules } }) hs ..)
    · exact .head hit (drops _).moves
    · exact .head hit (moves_routeFrame (s := { s with relay := { s.relay with rules := rules } }) hs ..)
  · split
    · exact moves_routeFrame hs ..
    · exact (drops _).moves

theorem moves_matchReply (hs : s.phase = .inService) (h : HeldFrame) (f : Slot) : Moves s (s.matchReply h f) := by
  unfold State.matchReply
  split
  · split
    · exact (moves_closeExchange ..).trans (moves_applyRules ((phase_closeExchange ..).trans hs) ..)
    · split
      · exact (Traffic.count _).moves
      · exact moves_applyRules hs ..
  · exact moves_applyRules hs ..

theorem moves_handOver (h : HeldFrame) (f : Slot) : Moves s (s.handOver h f) := by
  unfold State.handOver
  split
  · split
    · next room => exact .single (.requests _ fun _ => by simpa using room)
    · exact (Traffic.count _).moves
  · exact (Traffic.count _).moves

theorem moves_judgeFrame (hs : s.phase = .inService) (h : HeldFrame) (f : Slot) : Moves s (s.judgeFrame h f) := by
  unfold State.judgeFrame
  split
  · exact (Traffic.count _).moves
  · next source =>
    have station : isStationAddress f.source = true := by simpa [isStationAddress] using source
    split
    · exact moves_raise (by simp) hs (Traffic.count _).moves
    · next notOwn =>
      have updates := moves_updateMap (p := h.ingress) hs station notOwn
      have phase : (s.updateMap f.source h.ingress).1.phase = s.phase := by rw [Statements.updateMap_only]
      split
      · next u e =>
        rw [e] at updates phase
        refine updates.trans ?_
        unfold State.judgeDestination
        split
        · exact (Traffic.count _).moves
        · split
          · exact moves_handOver ..
          · exact moves_matchReply (phase.trans hs) ..
      · next e => rw [e] at updates; exact updates

theorem moves_takeDecision (hs : s.phase = .inService) : Moves s (takeDecision s) := by
  unfold takeDecision
  split
  · exact .refl
  · next h rest _ =>
    have taken : Traffic s { s with relay := { s.relay with input := rest } } := .off rfl rfl
    exact (taken.moves.trans (moves_judgeFrame (s := { s with relay := { s.relay with input := rest } }) hs ..)).trans
      (Traffic.letGo _).moves

/-! ## Notices -/

/-- A change of slot wait and of the timer keeps the rest of the unit. -/
theorem NoticeKept.of_carried {u v : NoticeUnit} (list : v.list = u.list) (next : v.next = u.next)
    (target : v.target = u.target) (interval : v.interval = u.interval)
    (carried : ∀ f ∈ v.inFlight, f.acknowledged = false →
      (∃ g ∈ u.inFlight, g.acknowledged = false ∧ g.sequence = f.sequence) ∨
        u.list.head?.map (·.sequence) = some f.sequence) : NoticeKept u v :=
  ⟨list, next, .inl target, .inl interval, carried⟩

theorem NoticeKept.of_inFlight {u v : NoticeUnit} (h : v = { u with
    slotWait := v.slotWait, timer := v.timer, inFlight := v.inFlight })
    (inFlight : v.inFlight = u.inFlight ∨ v.inFlight = none) : NoticeKept u v := by
  refine .of_carried (by rw [h]) (by rw [h]) (by rw [h]) (by rw [h]) fun f hf ha => ?_
  rcases inFlight with e | e
  · exact .inl ⟨f, e ▸ hf, ha, rfl⟩
  · rw [e] at hf; cases hf

theorem move_retestSlotWait : Move s s.retestSlotWait := by
  rw [State.retestSlotWait_only]
  exact .notices _ (.of_inFlight rfl (.inl rfl))

theorem moves_offerNotice (hs : s.phase = .inService) (i : SlotId) (n : Notice) (target : Byte) (l : List Notice)
    (head : s.notices.list = n :: l) : Moves s (s.offerNotice i n target) := by
  have waits : Move s (s.modifyNotices fun u => { u with slotWait := false }) :=
    .notices _ (.of_inFlight rfl (.inl rfl))
  have sent : Moves s _ := .head waits (Traffic.sendGenerated (s := s.modifyNotices fun u => { u with slotWait := false })
    hs i (noticeFrame target s.management.ownAddress s.notices.lost n) (s.noticePorts target)).moves
  have notices := (State.sendGenerated_traffic (s.modifyNotices fun u => { u with slotWait := false }) i
    (noticeFrame target s.management.ownAddress s.notices.lost n) (s.noticePorts target)).fields.2.2.2.2.2.2.2.2.2.1
  unfold State.offerNotice
  dsimp only
  split
  · next e => rw [e] at sent; exact sent.tail (.notices _ (.of_inFlight rfl (.inr rfl)))
  · next e =>
    rw [e] at sent notices
    refine sent.tail (.notices _ (.of_carried rfl rfl rfl rfl fun f hf _ => .inr ?_))
    cases hf
    rw [notices]
    simp [head]

theorem moves_sendNotice (hs : s.phase = .inService) : Moves s (sendNotice s) := by
  unfold sendNotice
  split
  · next n target due _ _ =>
    have head : ∃ l, s.notices.list = n :: l := by
      unfold State.noticeDue at due
      split at due
      · next m l t hl _ =>
        split at due
        · cases due
        · cases due; exact ⟨l, hl⟩
      · cases due
    obtain ⟨l, head⟩ := head
    split
    · next i claimed hc =>
      obtain ⟨j, -, e⟩ := Option.map_eq_some_iff.mp hc
      cases e
      have claim : Traffic s (s.modifySlot i fun _ => ⟨[], 0, .inUse⟩) := .modifySlot ..
      exact claim.moves.trans (moves_offerNotice (s := s.modifySlot i fun _ => ⟨[], 0, .inUse⟩) hs i n target l head)
    · exact .single (.notices _ (.of_inFlight rfl (.inl rfl)))
  · exact .refl

theorem moves_takeNoticeCopy : Moves s (takeNoticeCopy s) := by
  unfold takeNoticeCopy
  split
  · next d rest f _ hf =>
    have taken : Traffic s (s.modifyWords fun w => { w with noticeCopies := rest }) := .off rfl rfl
    refine taken.moves.tail (.notices _ ?_)
    split
    · exact .of_inFlight rfl (.inr rfl)
    · refine .of_carried rfl rfl rfl rfl fun g hg ha => .inl ⟨f, hf, ?_⟩
      cases hg
      exact ⟨ha, rfl⟩
  · exact .refl

theorem moves_expireNoticeInterval : Moves s (expireNoticeInterval s) := by
  unfold expireNoticeInterval
  split
  · exact .single (.notices _ (.of_inFlight rfl (.inl rfl)))
  · exact .refl

theorem moves_setNoticeTarget {target : Option Byte} {interval : Nat} (station : ∀ t ∈ target, isStationAddress t = true)
    (range : 1 ≤ interval ∧ interval ≤ 60) : Moves s (s.setNoticeTarget target interval) := by
  have set : NoticeKept s.notices { s.notices with interval := interval, target := target, timer := none } :=
    ⟨rfl, rfl, .inr station, .inr range, fun f hf ha => .inl ⟨f, hf, ha, rfl⟩⟩
  exact .tail (.single (.notices _ set)) move_retestSlotWait

/-! ## Port Control -/

theorem moves_goDown {a : AdminState} (down : a.isDown = true) : Moves s (s.goDown p a) := by
  rw [goDown_eq]
  have word : ∀ u : State, Traffic u (u.modifyWords fun w => { w with portDown := w.portDown ++ [p] }) :=
    fun _ => .off rfl rfl
  exact ((Traffic.offline down).moves.tail (move_removeStations _)).trans (word _).moves

theorem goDown_phase (s : State) (p : Port) (a : AdminState) : (s.goDown p a).phase = s.phase := by
  have h := (State.flushQueue_traffic ((s.modifyPort p fun x =>
    { x with record := { x.record with admin := a }, transmitter := x.transmitter.stopped }).stopReceiver p) p)
  rw [goDown_eq]
  unfold offline
  rw [h, stopReceiver_only]
  simp

/-- A change of a port's record that leaves its administrative state and its rates. -/
theorem Traffic.recordTimes {f : PortRecord → PortRecord} (h : ∀ r, f r = { r with
    autoRecover := (f r).autoRecover, floodUnknown := (f r).floodUnknown, learn := (f r).learn
    recovery := (f r).recovery }) : Traffic s (s.modifyRecord p f) :=
  .times (f := fun x => { x with record := f x.record }) (by unfold SameCore; simp only; rw [← h])

theorem moves_setPortState (hs : s.phase = .inService) (a : AdminState) :
    Moves s (s.setPortState p a) ∧ (s.setPortState p a).phase = s.phase := by
  have admin : ∀ b, s.admin p = b → (s.port p).record.admin = b := fun _ h => h
  have ups : ∀ b, s.admin p = b → b.isDown = true → ∀ c : AdminState, c.isDown = false →
      Moves s (s.comeUp p c) ∧ (s.comeUp p c).phase = s.phase :=
    fun b h hb c up => ⟨(Traffic.comeUp hs (by rw [h]; exact hb) up).moves, rfl⟩
  unfold State.setPortState
  split
  · next h => exact ⟨(Traffic.port_one (.holds (admin _ h))).moves, rfl⟩
  · next h => exact ⟨(Traffic.port_one (.enables (admin _ h))).moves, rfl⟩
  · exact ⟨moves_goDown rfl, goDown_phase ..⟩
  · exact ⟨moves_goDown rfl, goDown_phase ..⟩
  · next h => exact ups _ h rfl _ rfl
  · next h => exact ups _ h rfl _ rfl
  · next h => exact ups _ h rfl _ rfl
  · next h => exact ups _ h rfl _ rfl
  · next h =>
    exact ⟨(Traffic.port_one (f := fun x => { x with record := { x.record with admin := .disabled, recovery := none } })
      (.disables (admin _ h))).moves, rfl⟩
  all_goals exact ⟨.refl, rfl⟩

theorem moves_takeStuckLine (hs : s.phase = .inService) : Moves s (takeStuckLine p s) := by
  unfold takeStuckLine
  split
  · have word : Traffic s (s.modifyWords fun w => { w with stuckLine := w.stuckLine.erase p }) := .off rfl rfl
    dsimp only
    split
    · exact word.moves
    · unfold State.isolate
      refine moves_raise (by simp) ((goDown_phase ..).trans hs)
        (word.moves.trans ((moves_goDown (p := p) (a := .isolated) rfl).trans ?_))
      exact (Traffic.recordTimes fun _ => rfl).moves
  · exact .refl

theorem moves_recoverPort (hs : s.phase = .inService) : Moves s (recoverPort p s) := by
  unfold recoverPort
  split
  · next isolated _ =>
    split
    · exact moves_raise (by simp) hs (Traffic.comeUp hs (by rw [isolated]; rfl) rfl).moves
    · exact .refl
  · exact .refl

theorem moves_expireWindow (hs : s.phase = .inService) : Moves s (expireWindow p s) := by
  unfold expireWindow
  split
  · have applied : Traffic s ((s.applyRate p (s.port p).record.confirmedRate).modifyRecord p fun r =>
        { r with ratePhase := .steady }) := .applyRate _ _ (fun _ => rfl) (fun _ _ h _ => h.symm)
    exact moves_raise (by simp) (applied.phase.trans hs) applied.moves
  · exact .refl
  · exact .refl
  · exact .refl

/-! ## Restarts -/

theorem reaches_takeRestart (hs : s.phase = .inService) : Reaches s s.takeRestart := by
  unfold State.takeRestart
  split
  · split
    · exact .moves (.single (.flushes hs))
    · exact .cold _ _ _ rfl
  · exact .moves .refl

theorem reaches_expireRestart (hs : s.phase = .inService) : Reaches s (expireRestart s) := by
  unfold expireRestart
  split
  · split
    · exact reaches_takeRestart hs
    · exact .moves .refl
  · exact .moves .refl

theorem reaches_takeWatchedReply (hs : s.phase = .inService) (i : SlotId) : Reaches s (takeWatchedReply i s) := by
  unfold takeWatchedReply
  split
  · next d w _ _ =>
    have taken : Traffic s ((s.modifyWords fun x => { x with watchedReplies := x.watchedReplies.erase d }).modifyManagement
      fun m => { m with watch := m.watch.erase w }) := .off rfl rfl
    refine .after taken.moves ?_
    unfold State.takeWatched
    split
    · exact .moves (Traffic.modifyWords rfl).moves
    · exact reaches_takeRestart hs
  · exact .moves .refl

end Sys2Proof.Safety
end

section
/-! PROOFS. Requests, the loader and every command as moves of the relay (`exec_reaches`). -/

namespace Sys2Proof.Safety

open Sys2Proof.Machine

variable {s t : State} {p : Port}

/-! ## The commands of requests and records -/

/-- What a command comes to, run in phase `phase`: moves that keep the phase, and no new own address that is no station
address. -/
structure ComesTo (phase : Phase) (s : State) (x : Executed) : Prop where
  moves : Moves s x.state
  phase : x.state.phase = phase
  waits : ∀ a, x.waits = .address a → isStationAddress a = true

/-- A command moves the relay from every state in phase `phase`. -/
def Moving (phase : Phase) (command : Command) : Prop :=
  ∀ (ingress : Port) (args : List Byte) (s : State), s.phase = phase → ComesTo phase s (command ingress args s)

variable {phase : Phase}

theorem comesTo_fails (h : s.phase = phase) (r : Result) : ComesTo phase s (s.fails r) := ⟨.refl, h, by simp [State.fails]⟩

theorem comesTo_answers (h : s.phase = phase) (data : List Byte) : ComesTo phase s (s.answers data) :=
  ⟨.refl, h, by simp [State.answers]⟩

theorem comesTo_done (m : Moves s t) (h : t.phase = phase) : ComesTo phase s t.done :=
  ⟨m, h, by simp [State.done, State.answers]⟩

theorem moving_readStatus : Moving phase readStatus := by
  intro ingress args s h
  unfold readStatus
  split
  · split
    · exact ⟨(Traffic.off (t := s.modifyManagement fun m => { m with causes := .clear }) rfl rfl).moves, h, by simp⟩
    · exact comesTo_answers h _
    · exact comesTo_fails h _
  · exact comesTo_fails h _

theorem traffic_clearCounters (sel : Selection) (start n : Nat) : Traffic s (s.clearCounters sel start n) := by
  unfold State.clearCounters
  split
  · exact .countPort _
  · exact .count _

theorem moving_readCounters : Moving phase readCounters := by
  intro ingress args s h
  unfold readCounters
  split
  · split
    · split
      · dsimp only
        split
        · exact ⟨(traffic_clearCounters ..).moves, (traffic_clearCounters ..).phase.trans h, by simp⟩
        · exact comesTo_answers h _
      · exact comesTo_fails h _
    · exact comesTo_fails h _
  · exact comesTo_fails h _

theorem moving_readStation : Moving phase readStation := by
  intro ingress args s h
  unfold readStation
  split
  · split
    · exact comesTo_answers h _
    · exact comesTo_fails h _
  · exact comesTo_fails h _

theorem writeStatic_phase {e : StationEntry} (h : s.writeStatic e = some t) : t.phase = s.phase := by
  unfold State.writeStatic at h
  split at h
  · cases h; rfl
  · split at h
    · cases h; rfl
    · obtain ⟨x, -, rfl⟩ := Option.map_eq_some_iff.mp h; rfl

theorem moving_writeStation : Moving phase writeStation := by
  intro ingress args s h
  unfold writeStation
  split
  · split
    · next station =>
      split
      · split
        · next written =>
          exact comesTo_done (.single (move_writeStatic station.1 station.2 written)) ((writeStatic_phase written).trans h)
        · exact comesTo_fails h _
      · exact comesTo_fails h _
    · exact comesTo_fails h _
  · exact comesTo_fails h _

theorem moving_removeStation : Moving phase removeStation := by
  intro ingress args s h
  unfold removeStation
  split
  · split
    · exact comesTo_done (.single (move_removeStations _)) h
    · exact comesTo_fails h _
  · exact comesTo_fails h _

theorem moving_listStations : Moving phase listStations := by
  intro ingress args s h
  unfold listStations
  split
  · exact comesTo_answers h _
  · exact comesTo_fails h _

theorem moving_flushLearned : Moving phase flushLearned := by
  intro ingress args s h
  unfold flushLearned
  split
  · split
    · exact ⟨.single (move_removeStations _), h, by simp⟩
    · exact comesTo_fails h _
  · exact comesTo_fails h _

theorem moving_readRule : Moving phase readRule := by
  intro ingress args s h
  unfold readRule
  split
  · split
    · exact comesTo_answers h _
    · exact comesTo_fails h _
  · exact comesTo_fails h _

theorem move_modifyRules {f : List Rule → List Rule} (room : s.relay.rules.length ≤ 32 → (f s.relay.rules).length ≤ 32) :
    Move s (s.modifyRules f) := .rules _ room

theorem moving_insertRule : Moving phase insertRule := by
  intro ingress args s h
  unfold insertRule
  split
  · split
    · split
      · split
        · next at_ r _ room =>
          refine comesTo_done (.single (move_modifyRules fun _ => ?_)) h
          exact (List.length_insertIdx_le_succ ..).trans room
        · exact comesTo_fails h _
      · exact comesTo_fails h _
    · exact comesTo_fails h _
  · exact comesTo_fails h _

theorem moving_deleteRule : Moving phase deleteRule := by
  intro ingress args s h
  unfold deleteRule
  split
  · split
    · exact comesTo_done (.single (move_modifyRules fun room => (List.length_eraseIdx_le ..).trans room)) h
    · exact comesTo_fails h _
  · exact comesTo_fails h _

theorem moving_replaceRule : Moving phase replaceRule := by
  intro ingress args s h
  unfold replaceRule
  split
  · split
    · split
      · exact comesTo_done (.single (move_modifyRules fun room => by simpa using room)) h
      · exact comesTo_fails h _
    · exact comesTo_fails h _
  · exact comesTo_fails h _

theorem moving_setRuleDefaults : Moving phase setRuleDefaults := by
  intro ingress args s h
  unfold setRuleDefaults
  split
  · split
    · exact comesTo_done (.single (.rules _ id)) h
    · exact comesTo_fails h _
  · exact comesTo_fails h _

theorem moving_readPort : Moving phase readPort := by
  intro ingress args s h
  unfold readPort
  split
  · split
    · exact comesTo_answers h _
    · exact comesTo_fails h _
  · exact comesTo_fails h _

theorem moving_setPortState : Moving .inService setPortState := by
  intro ingress args s h
  unfold setPortState
  split
  · split
    · exact comesTo_done (moves_setPortState h _).1 ((moves_setPortState h _).2.trans h)
    · exact comesTo_fails h _
  · exact comesTo_fails h _

theorem moving_setRate : Moving phase setRate := by
  intro ingress args s h
  unfold setRate
  split
  · split
    · split
      · split
        · next p c seconds _ _ _ =>
          have asks : Traffic s (s.modifyRecord p fun r => { r with ratePhase := .awaitingReply c seconds }) :=
            .port_one (f := fun x => { x with record := { x.record with ratePhase := .awaitingReply c seconds } })
              (.asksRate c seconds)
          exact ⟨asks.moves, h, by simp⟩
        · exact comesTo_done (Traffic.openWindow ..).moves ((Traffic.openWindow ..).phase.trans h)
      · exact comesTo_fails h _
    · exact comesTo_fails h _
  · exact comesTo_fails h _

theorem moving_confirmRate : Moving phase confirmRate := by
  intro ingress args s h
  unfold confirmRate
  split
  · split
    · split
      · exact comesTo_done (Traffic.port_one .confirmsRate).moves h
      · exact comesTo_fails h _
      · exact comesTo_fails h _
    · exact comesTo_fails h _
  · exact comesTo_fails h _

theorem moving_setPortOptions : Moving phase setPortOptions := by
  intro ingress args s h
  unfold setPortOptions
  split
  · split
    · split
      · exact comesTo_done (Traffic.setPortOptions ..).moves h
      · exact comesTo_fails h _
    · exact comesTo_fails h _
  · exact comesTo_fails h _

theorem moving_readExchanges : Moving phase readExchanges := by
  intro ingress args s h
  unfold readExchanges
  split
  · split
    · exact comesTo_answers h _
    · exact comesTo_fails h _
  · exact comesTo_fails h _

/-- Units of 10 ms, 1 to 255 of them, lie in the range of a timeout value. -/
theorem timeoutsInRange_units {a b c d : Byte} (h : ¬ (a = 0 ∨ b = 0 ∨ c = 0 ∨ d = 0)) :
    TimeoutsInRange ((Four.mk a b c d).map fun v : Byte => 10 * v.toNat) := by
  have unit : ∀ v : Byte, v ≠ 0 → 10 ≤ 10 * v.toNat ∧ 10 * v.toNat ≤ 2550 ∧ 10 * v.toNat % 10 = 0 := fun v hv => by
    have : v.toNat ≠ 0 := fun e => hv (BitVec.eq_of_toNat_eq e)
    have := v.isLt
    omega
  simp only [not_or] at h
  obtain ⟨ha, hb, hc, hd⟩ := h
  intro i
  rw [Four.get_map]
  match i with
  | 0 => exact unit a ha
  | 1 => exact unit b hb
  | 2 => exact unit c hc
  | 3 => exact unit d hd

theorem moving_setTimeouts : Moving phase setTimeouts := by
  intro ingress args s h
  unfold setTimeouts
  split
  · split
    · exact comesTo_fails h _
    · next nonzero => exact comesTo_done (.single (.timeouts _ (timeoutsInRange_units nonzero))) h
  · exact comesTo_fails h _

theorem periodArgument_range {high low : Byte} {n : Nat} (h : periodArgument high low = some n) : 10 ≤ n ∧ n ≤ 3600 := by
  unfold periodArgument at h
  split at h
  · next range => cases h; exact range
  · cases h

theorem move_setPeriod {n : Nat} (range : 10 ≤ n ∧ n ≤ 3600) : Move s (s.setPeriod n) := .map _ id (.inr range)

theorem moving_setAging : Moving phase setAging := by
  intro ingress args s h
  unfold setAging
  split
  · split
    · next range =>
      exact comesTo_done (.tail (.single (move_setPeriod (periodArgument_range range))) move_startAging) h
    · exact comesTo_fails h _
  · exact comesTo_fails h _

/-- The addresses of a list taken each once: no more than the list holds, none twice. -/
theorem eachOnce_spec (l held : List Byte) (hn : held.Nodup) :
    let r := l.foldl (fun held a => if held.contains a then held else held ++ [a]) held
    r.Nodup ∧ r.length ≤ held.length + l.length ∧ ∀ a ∈ r, a ∈ held ∨ a ∈ l := by
  induction l generalizing held with
  | nil => exact ⟨hn, by simp, fun a ha => .inl ha⟩
  | cons b l ih =>
    simp only [List.foldl_cons]
    by_cases hb : b ∈ held
    · obtain ⟨h1, h2, h3⟩ := ih held hn
      rw [if_pos (List.contains_iff_mem.mpr hb)]
      exact ⟨h1, h2.trans (by simp), fun a ha => (h3 a ha).imp id (List.mem_cons_of_mem _)⟩
    · obtain ⟨h1, h2, h3⟩ := ih (held ++ [b]) (List.nodup_append.mpr ⟨hn, by simp, fun a ha c hc e => by
        rw [List.mem_singleton] at hc; exact hb (hc ▸ e ▸ ha)⟩)
      rw [if_neg (fun c => hb (List.contains_iff_mem.mp c))]
      refine ⟨h1, h2.trans (by simp only [List.length_append, List.length_cons, List.length_nil]; omega), fun a ha => ?_⟩
      rcases h3 a ha with ha | ha
      · rcases List.mem_append.mp ha with ha | ha
        · exact .inl ha
        · rw [List.mem_singleton.mp ha]; exact .inr (by simp)
      · exact .inr (List.mem_cons_of_mem _ ha)

theorem managersInRange_eachOnce {l : List Byte} (room : l.length ≤ 4) (stations : l.all isStationAddress = true) :
    ManagersInRange (eachOnce l) := by
  obtain ⟨h1, h2, h3⟩ := eachOnce_spec l [] .nil
  refine ⟨h2.trans (by simpa using room), h1, fun a ha => ?_⟩
  exact List.all_eq_true.mp stations a ((h3 a ha).resolve_left (by simp))

theorem moving_setManagers : Moving phase setManagers := by
  intro ingress args s h
  unfold setManagers
  split
  · split
    · exact comesTo_fails h _
    · next few =>
      split
      · exact comesTo_fails h _
      · split
        · next stations =>
          exact comesTo_done (.single (.managers _ (managersInRange_eachOnce (by
            rw [List.length_take]; omega) stations))) h
        · exact comesTo_fails h _
  · exact comesTo_fails h _

theorem moving_setAddress : Moving phase setAddress := by
  intro ingress args s h
  unfold setAddress
  split
  · split
    · next station =>
      split
      · exact comesTo_done .refl h
      · exact ⟨.refl, h, fun a e => by cases e; exact station⟩
    · exact comesTo_fails h _
  · exact comesTo_fails h _

theorem retestSlotWait_phase (s : State) : s.retestSlotWait.phase = s.phase := by
  rw [State.retestSlotWait_only]; rfl

theorem moving_setNoticeTarget : Moving phase setNoticeTarget := by
  intro ingress args s h
  unfold setNoticeTarget
  split
  · next a interval _ =>
    split
    · exact comesTo_fails h _
    · next ok =>
      simp only [not_or, Nat.not_lt] at ok
      obtain ⟨notAll, low, high⟩ := ok
      refine comesTo_done (moves_setNoticeTarget (fun t ht => ?_) ⟨Nat.one_le_iff_ne_zero.mpr low, high⟩)
        ((retestSlotWait_phase _).trans h)
      split at ht
      · cases ht
      · next some =>
        cases ht
        simp only [isStationAddress, Bool.and_eq_true, bne_iff_ne]
        exact ⟨some, notAll⟩
  · exact comesTo_fails h _

theorem acknowledge_phase {sequence : Byte} (h : s.acknowledge sequence = some t) : t.phase = s.phase := by
  obtain ⟨_, _, _, _, e⟩ := State.acknowledge_some h
  rw [e]; rfl

theorem moving_ackNotice : Moving phase ackNotice := by
  intro ingress args s h
  unfold ackNotice
  split
  · split
    · next acks => exact comesTo_done (.single (.acknowledges _ acks)) ((acknowledge_phase acks).trans h)
    · exact comesTo_fails h _
  · exact comesTo_fails h _

theorem moving_restart : Moving phase restart := by
  intro ingress args s h
  unfold restart
  split
  · split
    · split
      · exact comesTo_fails h _
      · next kind _ _ =>
        exact ⟨(Traffic.off (t := s.modifyManagement fun m => { m with pendingRestart := some ⟨kind, msCycles 500⟩ })
          rfl rfl).moves, h, by simp⟩
    · exact comesTo_fails h _
  · exact comesTo_fails h _

/-! ## Requests -/

theorem moves_changeOwnAddress {a : Byte} (station : isStationAddress a = true) : Moves s (s.changeOwnAddress a) :=
  .tail (.single (.ownAddress a station)) move_retestSlotWait

theorem reaches_settle (hs : s.phase = .inService) {w : Waiting} (i : SlotId) (admitted : Bool)
    (waits : ∀ a, w = .address a → isStationAddress a = true) : Reaches s (s.settle w i admitted) := by
  have watches : ∀ c : WatchedCommand, Traffic s (s.modifyManagement fun m => { m with watch := m.watch ++ [⟨i, c⟩] }) :=
    fun _ => .off rfl rfl
  unfold State.settle
  split
  · exact .moves .refl
  · exact .moves (moves_changeOwnAddress (waits _ rfl))
  · split
    · exact .moves (watches _).moves
    · exact .moves (Traffic.modifyWords rfl).moves
  · split
    · exact .moves (watches _).moves
    · exact reaches_takeRestart hs

theorem reaches_executeRequest (hs : s.phase = .inService) {command : Command} (m : Moving .inService command)
    (h : HeldFrame) (i : SlotId) : Reaches s (s.executeRequest h i command) := by
  have performed : ComesTo .inService s (s.perform h (s.slot h.slot) command) := by
    unfold State.perform
    split
    · exact m _ _ _ hs
    · exact comesTo_fails hs _
  obtain ⟨moves, phase, waits⟩ := performed
  unfold State.executeRequest
  dsimp only
  generalize s.perform h (s.slot h.slot) command = done at moves phase waits ⊢
  have sent : ∀ frame, Traffic done.state (done.state.sendGenerated i frame [h.ingress]).1 :=
    fun frame => .sendGenerated phase i frame _
  have replied : Traffic done.state (done.state.sendReply i (s.slot h.slot) h.ingress
      (replyPayload (s.slot h.slot).code done.result done.data)).1 := sent _
  generalize done.state.sendReply i (s.slot h.slot) h.ingress
    (replyPayload (s.slot h.slot).code done.result done.data) = reply at replied ⊢
  obtain ⟨u, admitted⟩ := reply
  have finished : Moves u (u.finishRequest h) := by
    refine .head (.requests (u.management.queue.drop 1) fun room => ?_) (Traffic.letGo _).moves
    exact (List.length_drop ▸ Nat.sub_le ..).trans room
  have still : (u.finishRequest h).phase = .inService := by
    unfold State.finishRequest
    rw [(State.letGo_fields ..).1]
    exact replied.phase.trans phase
  exact .after ((moves.trans replied.moves).trans finished) (reaches_settle still i admitted waits)

theorem reaches_runRequest (hs : s.phase = .inService) {command : Command} (m : Moving .inService command)
    (selects : List Byte → Bool) : Reaches s (runRequest selects command s) := by
  unfold runRequest
  split
  · exact .moves .refl
  · split
    · split
      · next i claimed hc =>
        obtain ⟨j, -, e⟩ := Option.map_eq_some_iff.mp hc
        cases e
        have claim : Traffic s (s.modifySlot i fun _ => ⟨[], 0, .inUse⟩) := .modifySlot ..
        exact .after claim.moves (reaches_executeRequest (s := s.modifySlot i fun _ => ⟨[], 0, .inUse⟩) hs m ..)
      · exact .moves .refl
    · exact .moves .refl

theorem reaches_runUnknown (hs : s.phase = .inService) : Reaches s (runUnknown s) := by
  unfold runUnknown
  split
  · exact .moves .refl
  · refine reaches_runRequest hs (fun _ _ s h => ?_) _
    split
    · exact comesTo_fails h _
    · exact comesTo_fails h _

/-! ## The Image Loader -/

theorem moving_loadPortState : Moving .loading loadPortState := by
  intro ingress args s h
  unfold loadPortState
  split
  · split
    · exact comesTo_done (Traffic.port_one (.loadsAdmin _ h)).moves h
    · exact comesTo_fails h _
  · exact comesTo_fails h _

theorem moving_loadRate : Moving phase loadRate := by
  intro ingress args s h
  unfold loadRate
  split
  · split
    · next p c _ _ =>
      have applied : Traffic s ((s.applyRate p c).modifyRecord p fun r => { r with confirmedRate := c, ratePhase := .steady }) :=
        .applyRate c _ (fun _ => rfl) (fun _ _ _ _ => rfl)
      exact comesTo_done applied.moves (applied.phase.trans h)
    · exact comesTo_fails h _
  · exact comesTo_fails h _

theorem moving_loadAging : Moving phase loadAging := by
  intro ingress args s h
  unfold loadAging
  split
  · split
    · next range => exact comesTo_done (.single (move_setPeriod (periodArgument_range range))) h
    · exact comesTo_fails h _
  · exact comesTo_fails h _

theorem moving_loadAddress : Moving phase loadAddress := by
  intro ingress args s h
  unfold loadAddress
  split
  · split
    · next station =>
      split
      · exact comesTo_done .refl h
      · exact comesTo_done (moves_changeOwnAddress station) ((retestSlotWait_phase _).trans h)
    · exact comesTo_fails h _
  · exact comesTo_fails h _

theorem moving_recordCommand {code : Byte} {command : Command} (h : recordCommand code = some command) :
    Moving .loading command := by
  unfold recordCommand at h
  have next : ∀ {b : Prop} [Decidable b] {c : Command} {o : Option Command}, (if b then some c else o) = some command →
      Moving .loading c → (o = some command → Moving .loading command) → Moving .loading command := by
    intro b _ c o h hc ho
    split at h
    · cases h; exact hc
    · exact ho h
  refine next h moving_writeStation fun h => next h moving_insertRule fun h => next h moving_setRuleDefaults fun h =>
    next h moving_loadPortState fun h => next h moving_loadRate fun h => next h moving_setPortOptions fun h =>
    next h moving_setTimeouts fun h => next h moving_loadAging fun h => next h moving_setManagers fun h =>
    next h moving_loadAddress fun h => next h moving_setNoticeTarget fun h => by cases h

theorem moves_skipRecord : Moves s s.skipRecord :=
  (Traffic.off (t := s.modifyLoader fun l => { l with errors := stoppingSucc l.errors }) rfl rfl).moves

theorem moves_readRecord (m : SerialMemory) : Moves s (readRecord m s) := by
  unfold readRecord
  split
  · next loads =>
    split
    · next payload pos running _ =>
      have read : Traffic s (s.modifyLoader fun l =>
        { l with position := pos, recordsRead := l.recordsRead + 1, runningCheck := running }) := .off rfl rfl
      refine read.moves.trans ?_
      unfold State.applyRecord
      split
      · exact moves_skipRecord
      · split
        · next command hc =>
          dsimp only
          split
          · exact (moving_recordCommand hc _ _ (s.modifyLoader _) loads.1).moves
          · exact moves_skipRecord
        · exact moves_skipRecord
    · exact .refl
  · exact .refl

theorem moves_finishPass1 (m : SerialMemory) : Moves s (finishPass1 m s) := by
  unfold finishPass1
  split
  · next loads =>
    split
    · next status n records _ =>
      have read : Traffic s (s.modifyLoader fun l =>
        { l.withHeader m n with
          position := n, recordsRead := records, runningCheck := checkOf (checkedBytes m n) }) := .off rfl rfl
      exact read.moves.tail (.loaded (s := s.modifyLoader _) loads.1 status)
    · have read : Traffic s (s.modifyLoader fun l =>
        { l.withHeader m 6 with errors := 0, pass1Check := checkOf (memoryBytes m 0 (imageLength m - 2)) }) := .off rfl rfl
      exact read.moves.tail (.turns (s := s.modifyLoader _) loads.1 loads.2)
  · exact .refl

theorem moves_finishPass2 (m : SerialMemory) : Moves s (finishPass2 m s) := by
  unfold finishPass2
  split
  · next loads =>
    split
    · next status pos running _ =>
      have read : Traffic s (s.modifyLoader fun l => { l with position := pos, runningCheck := running }) := .off rfl rfl
      exact read.moves.tail (.loaded (s := s.modifyLoader _) loads.1 status)
  · exact .refl

theorem moves_releaseReset (cfgen : Bool) : Moves s (releaseReset cfgen s) := by
  unfold releaseReset
  split
  · next reset =>
    have released : Traffic s { s with pins := { s.pins with resetHigh := true, cfgen := cfgen } } := .off rfl rfl
    dsimp only
    split
    · exact released.moves.tail (.loads reset)
    · exact released.moves.tail (.startsUp reset)
  · exact .refl

theorem moves_endFlush : Moves s (endFlush s) := by
  unfold endFlush
  split
  · next flushes => exact .single (.flushed flushes)
  · exact .refl

/-! ## Every command -/

theorem reaches_whenInService {f : State → State} (h : s.phase = .inService → Reaches s (f s))
    (e : s.whenInService f = .next t) : Reaches s t := by
  unfold State.whenInService at e
  split at e
  · next hs => cases e; exact h hs
  · cases e; exact .moves .refl

theorem moves_whenInService {f : State → State} (h : s.phase = .inService → Moves s (f s)) (e : s.whenInService f = .next t) :
    Reaches s t := reaches_whenInService (fun hs => .moves (h hs)) e

theorem moves_whenFramersRun {f : State → State} {coming : List Bool} (h : ∀ u, Traffic u (f u))
    (e : (s.lineBrings p coming).whenFramersRun f = .next t) : Reaches s t := by
  have brought : Traffic s (s.lineBrings p coming) := .off rfl rfl
  unfold State.whenFramersRun at e
  split at e
  · cases e; exact .moves brought.moves
  · cases e; exact .moves (brought.trans (h _)).moves

/-- Every command is moves of the relay, one after another, or a cold start. -/
theorem exec_reaches {c : Instr} (e : exec c s = .next t) : Reaches s t := by
  have requests : ∀ {command : Command} {selects : List Byte → Bool}, Moving .inService command →
      s.whenInService (runRequest selects command) = .next t → Reaches s t :=
    fun m e => reaches_whenInService (fun hs => reaches_runRequest hs m _) e
  cases c with
  | powerOn => cases e; exact .cold _ _ _ rfl
  | pinReset => cases e; exact .cold _ _ _ rfl
  | coldStart cfgen => cases e; exact .moves (moves_releaseReset cfgen)
  | pass1End m => cases e; exact .moves (moves_finishPass1 m)
  | imageRecord m => cases e; exact .moves (moves_readRecord m)
  | pass2End m => cases e; exact .moves (moves_finishPass2 m)
  | flushEnd => cases e; exact .moves moves_endFlush
  | characterDelivered p coming => exact moves_whenFramersRun (fun _ => .deliverCharacter) e
  | judgedLineLevelChange p coming => exact moves_whenFramersRun (fun _ => .judgeLevel) e
  | missingEcho p => exact moves_whenInService (fun _ => Traffic.missEcho.moves) e
  | abortGap p => exact moves_whenInService (fun _ => Traffic.abortByGap.moves) e
  | endOfResync p => exact moves_whenInService (fun _ => Traffic.leaveResync.moves) e
  | lineStuck p => exact moves_whenInService (fun _ => Traffic.raiseStuck.moves) e
  | stuckLineEvent p => exact moves_whenInService moves_takeStuckLine e
  | beginSending p => exact moves_whenInService (fun _ => Traffic.startSending.moves) e
  | jamEnd p => exact moves_whenInService (fun _ => Traffic.endJam.moves) e
  | backoffEnd p => exact moves_whenInService (fun _ => Traffic.endBackoff.moves) e
  | characterSent p => exact moves_whenInService (fun _ => Traffic.finishCharacter.moves) e
  | relayDecision => exact moves_whenInService moves_takeDecision e
  | exchangeCompleted i => exact moves_whenInService (fun _ => moves_takeCompleted i) e
  | exchangeDiscarded i => exact moves_whenInService (fun _ => moves_takeDiscarded i) e
  | exchangeDisplaced i => exact moves_whenInService (fun _ => moves_takeDisplaced i) e
  | portDownWord p => exact moves_whenInService (fun _ => moves_takePortDown) e
  | firstExpiry k => exact moves_whenInService (fun hs => moves_expireFirst hs k) e
  | secondExpiry k => exact moves_whenInService (fun _ => moves_expireSecond k) e
  | timeoutWord a => exact moves_whenInService (fun hs => moves_takeTimeoutWord hs a) e
  | pathReport => exact moves_whenInService moves_takeReport e
  | agingExpiry => exact moves_whenInService (fun _ => moves_expireAging) e
  | recoveryExpiry p => exact moves_whenInService moves_recoverPort e
  | rateReplyDeparted p => exact moves_whenInService (fun _ => Traffic.takeRateReply.moves) e
  | windowExpiry p => exact moves_whenInService moves_expireWindow e
  | noticeRaise n => exact moves_whenInService (fun _ => .single (.takes n)) e
  | noticeSend => exact moves_whenInService moves_sendNotice e
  | noticeCopyDeparture => exact moves_whenInService (fun _ => moves_takeNoticeCopy) e
  | noticeIntervalExpiry => exact moves_whenInService (fun _ => moves_expireNoticeInterval) e
  | watchedReplyDeparture i => exact reaches_whenInService (fun hs => reaches_takeWatchedReply hs i) e
  | restartTimerExpiry => exact reaches_whenInService reaches_expireRestart e
  | unknownCommand => exact reaches_whenInService reaches_runUnknown e
  | readStatus => exact requests moving_readStatus e
  | readCounters => exact requests moving_readCounters e
  | readStation => exact requests moving_readStation e
  | writeStation => exact requests moving_writeStation e
  | removeStation => exact requests moving_removeStation e
  | listStations => exact requests moving_listStations e
  | flushLearned => exact requests moving_flushLearned e
  | readRule => exact requests moving_readRule e
  | insertRule => exact requests moving_insertRule e
  | deleteRule => exact requests moving_deleteRule e
  | replaceRule => exact requests moving_replaceRule e
  | setRuleDefaults => exact requests moving_setRuleDefaults e
  | readPort => exact requests moving_readPort e
  | setPortState => exact requests moving_setPortState e
  | setRate => exact requests moving_setRate e
  | confirmRate => exact requests moving_confirmRate e
  | setPortOptions => exact requests moving_setPortOptions e
  | readExchanges => exact requests moving_readExchanges e
  | setTimeouts => exact requests moving_setTimeouts e
  | setAging => exact requests moving_setAging e
  | setManagers => exact requests moving_setManagers e
  | setAddress => exact requests moving_setAddress e
  | setNoticeTarget => exact requests moving_setNoticeTarget e
  | ackNotice => exact requests moving_ackNotice e
  | restart => exact requests moving_restart e

end Sys2Proof.Safety
end

section
/-! PROOFS. The invariants of notices, exchanges, stations, ports, settings and pins: each is kept by every move, by a cold
start and by a cycle, hence by every step. -/

namespace Sys2Proof.Safety

open Sys2Proof.Machine

variable {s t : State}

/-! ## From moves to steps -/

/-- What every move, every cold start and every cycle keeps, whatever commands wait, every step keeps. -/
theorem step_keeps {P : State → Prop} (pending : ∀ s l, P s → P { s with pending := l })
    (move : ∀ {s t}, P s → Move s t → P t) (cold : ∀ (s : State) causes resetHigh, P (s.coldStarted causes resetHigh))
    (cycle : ∀ s, s.phase ≠ .inReset → P s → P s.advance) (h : P s) (e : step s = .next t) : P t := by
  have moves : ∀ {s t}, P s → Moves s t → P t := by
    intro s t hs m
    induction m with
    | refl => exact hs
    | tail _ m ih => exact move ih m
  unfold step at e
  split at e
  · cases e
    unfold tick
    split
    · exact h
    · next out => exact cycle s out h
  · next c rest _ =>
    cases exec_reaches e with
    | moves m => exact moves (pending s rest h) m
    | cold u causes resetHigh => exact cold u causes resetHigh

/-- The taking of a raise changes the raises outstanding and the Notice Unit, if it is taken. -/
theorem takeRaised_cases (n : RaisedNotice) (s : State) :
    takeRaised n s = s ∨ s.mayTakeRaise n = true ∧
      takeRaised n s = { s with words := { s.words with raised := s.words.raised.erase n }, notices := s.notices.take n } := by
  unfold takeRaised
  split
  · next h => exact .inr ⟨h, rfl⟩
  · exact .inl rfl

/-- An acknowledgment changes the Notice Unit alone. -/
theorem acknowledge_only {sequence : Byte} (h : s.acknowledge sequence = some t) : t = { s with notices := t.notices } := by
  obtain ⟨n, rest, _, _, e⟩ := State.acknowledge_some h
  rw [e]; rfl

/-- What no notice changes. -/
theorem takeRaised_only (n : RaisedNotice) (s : State) :
    takeRaised n s = { s with words := (takeRaised n s).words, notices := (takeRaised n s).notices } := by
  rcases takeRaised_cases n s with e | ⟨-, e⟩ <;> rw [e]

/-- The end of start-up is the return to service, with the raise of IMAGE_RESULT for a load that has run. -/
theorem endOfStartUp_cases (s : State) :
    s.endOfStartUp = s.enterService ∨ s.endOfStartUp = s.enterService.raise .imageResult 0 s.loader.status.code := by
  unfold State.endOfStartUp
  split
  · exact .inl rfl
  · exact .inr rfl

/-- The end of start-up changes the ports, the aging timer, the phase and the raises alone. -/
theorem endOfStartUp_only (s : State) : s.endOfStartUp = { s with
    phase := .inService, ports := s.ports.map LinePort.enterService
    map := { s.map with timer := some (secondCycles s.map.period) }, words := s.endOfStartUp.words } := by
  rcases endOfStartUp_cases s with e | e <;> rw [e] <;> rfl

/-! ## Exchanges (R111) -/

theorem ExchangesInOrder.move (h : ExchangesInOrder s) (m : Move s t) : ExchangesInOrder t := by
  have same : t.exchanges = s.exchanges → ExchangesInOrder t := fun e => by
    unfold ExchangesInOrder; rw [e]; exact h
  cases m with
  | traffic k => exact same (by rw [k.only])
  | takes n => exact same (by rw [takeRaised_only])
  | acknowledges sequence k => exact same (by rw [acknowledge_only k])
  | exchanges l keeps => exact (exchangesInOrder_iff _).mpr (keeps ((exchangesInOrder_iff _).mp h))
  | flushes service => exact ⟨by simp [beginFlush], .nil, by simp [beginFlush]⟩
  | startsUp reset => exact same (by rw [endOfStartUp_only])
  | loaded loads status => exact same (by unfold State.endLoad; rw [endOfStartUp_only]; rfl)
  | _ => exact same rfl

/-- Settles O55, by the moves of the exchange table. -/
theorem exchangeOrderIsKept : Obligations.ExchangeOrderIsKept := by
  intro s t
  refine step_keeps (fun _ _ h => h) ExchangesInOrder.move
    (fun _ _ _ => ⟨by simp [State.coldStarted, State.reset], .nil, by simp [State.coldStarted, State.reset]⟩)
    fun s _ h => ?_
  exact (exchangesInOrder_iff _).mpr (((exchangesInOrder_iff s).mp h).map (fun _ => rfl) fun _ h => h)

/-! ## Stations (R10, R78) -/

theorem StationsInOrder.move (h : StationsInOrder s) (m : Move s t) : StationsInOrder t := by
  have same : t.map.entries = s.map.entries → t.management.ownAddress = s.management.ownAddress → StationsInOrder t :=
    fun e o => by unfold StationsInOrder; rw [e, o]; exact h
  obtain ⟨own, list⟩ := (stationsInOrder_iff s).mp h
  cases m with
  | traffic k => exact same (by rw [k.only]) (by rw [k.only])
  | takes n => exact same (by rw [takeRaised_only]) (by rw [takeRaised_only])
  | acknowledges sequence k => exact same (by rw [acknowledge_only k]) (by rw [acknowledge_only k])
  | map m keeps period => exact (stationsInOrder_iff _).mpr ⟨own, keeps list⟩
  | ownAddress a station =>
    refine (stationsInOrder_iff _).mpr ⟨station, ?_⟩
    have kept := list.filter fun e => !(e.address == a)
    exact ⟨kept.room, kept.ascends, fun e he => ⟨(kept.stations e he).1, by simpa using (List.mem_filter.mp he).2⟩⟩
  | flushes service => exact (stationsInOrder_iff _).mpr ⟨own, list.filter _⟩
  | startsUp reset => exact same (by rw [endOfStartUp_only]) (by rw [endOfStartUp_only])
  | loaded loads status =>
    exact same (by unfold State.endLoad; rw [endOfStartUp_only]; rfl) (by unfold State.endLoad; rw [endOfStartUp_only]; rfl)
  | _ => exact same rfl rfl

/-- Settles O56, by the moves of the Station Map and of the own address. -/
theorem stationOrderIsKept : Obligations.StationOrderIsKept := by
  intro s t
  refine step_keeps (fun _ _ h => h) StationsInOrder.move (fun _ _ _ => ?_) fun _ _ h => h
  exact ⟨rfl, by simp [State.coldStarted, State.reset], .nil, by simp [State.coldStarted, State.reset]⟩

/-! ## Notices (R141) -/

/-- A raise taken keeps the list in order: it is coalesced, lost, or joins the tail with the next number. -/
theorem noticeListInOrder_take {u : NoticeUnit} (h : NoticeListInOrder u) (n : RaisedNotice) : NoticeListInOrder (u.take n) := by
  obtain ⟨room, distinct, numbers⟩ := h
  unfold NoticeUnit.take
  split
  · exact ⟨room, distinct, numbers⟩
  · next new =>
    split
    · next short =>
      refine ⟨by simpa using short, List.pairwise_append.mpr ⟨distinct, List.pairwise_singleton .., fun a ha b hb => ?_⟩, ?_⟩
      · rw [List.mem_singleton.mp hb]
        simp only [NoticeUnit.has, List.any_eq_true, not_exists, not_and] at new
        simpa using new a ha
      · have tail : (u.list.map (·.sequence) ++ [u.next] ++ [u.next + 1]).IsChain fun a b : Byte => b = a + 1 := by
          refine List.isChain_append.mpr ⟨numbers, List.isChain_singleton _, fun x hx y hy => ?_⟩
          simp at hx hy
          rw [← hx, ← hy]
          rfl
        simpa using tail
    · exact ⟨room, distinct, numbers⟩

/-- The head stays the head while raises are taken. -/
theorem carriedAtHead_take {u : NoticeUnit} (h : CarriedAtHead u) (n : RaisedNotice) : CarriedAtHead (u.take n) := by
  unfold NoticeUnit.take
  split
  · exact h
  · split
    · intro f hf ha
      have := h f hf ha
      cases hl : u.list with
      | nil => rw [hl] at this; cases this
      | cons x l => rw [hl] at this; exact this
    · exact h

/-- Without its head the list stays in order. -/
theorem noticeListInOrder_tail {u v : NoticeUnit} {n : Notice} {rest : List Notice} (h : NoticeListInOrder u)
    (hl : u.list = n :: rest) (list : v.list = rest) (next : v.next = u.next) : NoticeListInOrder v := by
  obtain ⟨room, distinct, numbers⟩ := h
  rw [hl] at room distinct numbers
  unfold NoticeListInOrder
  rw [list, next]
  exact ⟨(Nat.le_succ _).trans room, (List.pairwise_cons.mp distinct).2, List.IsChain.tail numbers⟩

/-- With the same list, numbers and raises, and the notice in flight kept, the order is kept. -/
theorem NoticesInOrder.kept (h : NoticesInOrder s) (kept : NoticeKept s.notices t.notices)
    (raised : t.words.raised = s.words.raised)
    (phase : t.phase = .inReset ∨ t.phase = .loading → s.phase = .inReset ∨ s.phase = .loading) : NoticesInOrder t := by
  obtain ⟨list, carried, quiet, once, first⟩ := h
  have none : noNoticeYet s.notices → noNoticeYet t.notices := fun n => ⟨kept.list.trans n.1, kept.next.trans n.2⟩
  refine ⟨?_, fun f hf ha => ?_, fun p => ⟨none (quiet (phase p)).1, raised.trans (quiet (phase p)).2⟩, raised ▸ once,
    fun r hr k => none (first r (raised ▸ hr) k)⟩
  · unfold NoticeListInOrder; rw [kept.list, kept.next]; exact list
  · rw [kept.list]
    rcases kept.carried f hf ha with ⟨g, hg, hga, e⟩ | e
    · rw [← e]; exact carried g hg hga
    · exact e

theorem NoticeKept.refl (u : NoticeUnit) : NoticeKept u u := .of_inFlight rfl (.inl rfl)

/-- The end of start-up keeps the order: the one raise of IMAGE_RESULT finds no notice numbered. -/
theorem noticesInOrder_endOfStartUp (list : NoticeListInOrder s.notices) (carried : CarriedAtHead s.notices)
    (none : noNoticeYet s.notices) (raised : s.words.raised = []) : NoticesInOrder s.endOfStartUp := by
  have notices : s.endOfStartUp.notices = s.notices := by rw [endOfStartUp_only]
  have phase : s.endOfStartUp.phase = .inService := by rw [endOfStartUp_only]
  have raises : s.endOfStartUp.words.raised = [] ∨
      ∃ d, s.endOfStartUp.words.raised = [⟨.imageResult, 0, d⟩] := by
    rcases endOfStartUp_cases s with e | e
    · rw [e]; exact .inl raised
    · rw [e]
      refine .inr ⟨s.loader.status.code, ?_⟩
      show s.words.raised ++ _ = _
      rw [raised]; rfl
  unfold NoticesInOrder
  rw [notices, phase]
  refine ⟨list, carried, by simp, ?_, fun _ _ _ => none⟩
  rcases raises with e | ⟨d, e⟩ <;> simp [e]

theorem NoticesInOrder.move (h : NoticesInOrder s) (m : Move s t) : NoticesInOrder t := by
  cases m with
  | traffic k =>
    have notices : t.notices = s.notices := by rw [k.only]
    exact h.kept (notices ▸ .refl _) k.raised (k.phase ▸ id)
  | raises kind subject detail own service =>
    obtain ⟨list, carried, quiet, once, first⟩ := h
    refine ⟨list, carried, fun p => ?_, ?_, fun r hr k => ?_⟩
    · rcases p with p | p <;> exact absurd (service.symm.trans p) (by simp)
    · show (s.words.raised ++ [_]).countP _ ≤ 1
      rw [List.countP_append]
      simpa [own] using once
    · rcases List.mem_append.mp hr with hr | hr
      · exact first r hr k
      · rw [List.mem_singleton.mp hr] at k; exact absurd k own
  | takes n =>
    rcases takeRaised_cases n s with e | ⟨may, e⟩
    · rw [e]; exact h
    · obtain ⟨list, carried, quiet, once, first⟩ := h
      simp only [State.mayTakeRaise, Bool.and_eq_true, decide_eq_true_eq, Bool.or_eq_true, beq_iff_eq,
        List.all_eq_true, bne_iff_ne, ne_eq] at may
      obtain ⟨outstanding, may⟩ := may
      rw [e]
      refine ⟨noticeListInOrder_take list n, carriedAtHead_take carried n, fun p => ?_, ?_, fun r hr k => ?_⟩
      · rw [(quiet p).2] at outstanding; cases outstanding
      · exact (List.Sublist.countP_le List.erase_sublist).trans once
      · rcases may with kind | others
        · exfalso
          have two : 1 < s.words.raised.countP (·.kind == .imageResult) := by
            have split := List.perm_cons_erase outstanding
            rw [split.countP_eq, List.countP_cons_of_pos (by simpa using kind)]
            have : 0 < (s.words.raised.erase n).countP (·.kind == .imageResult) :=
              List.countP_pos_iff.mpr ⟨r, hr, by simpa using k⟩
            omega
          omega
        · exact absurd k (others r (List.mem_of_mem_erase hr))
  | notices u kept => exact h.kept kept rfl id
  | acknowledges sequence k =>
    obtain ⟨n, rest, hl, _, e⟩ := State.acknowledge_some k
    have carriedAfter := State.acknowledge_carriedAtHead h.2.1 k
    obtain ⟨list, carried, quiet, once, first⟩ := h
    have some : ¬ noNoticeYet s.notices := fun c => by
      have none := c.1
      rw [hl] at none; cases none
    have words : t.words = s.words := by rw [e]; rfl
    have phase : t.phase = s.phase := by rw [e]; rfl
    refine ⟨noticeListInOrder_tail list hl (by rw [e]; rfl) (by rw [e]; rfl), carriedAfter, fun p => ?_, words ▸ once,
      fun r hr k => absurd (first r (words ▸ hr) k) some⟩
    exact absurd (quiet (phase ▸ p)).1 some
  | flushes service =>
    obtain ⟨list, carried, quiet, once, first⟩ := h
    refine ⟨⟨by simp [beginFlush, NoticeUnit.flushed], .nil, List.isChain_singleton _⟩, nofun,
      fun p => ?_, by simp [beginFlush, Words.none], fun r hr => by cases hr⟩
    rcases p with p | p <;> cases p
  | flushed flushes =>
    exact h.kept (t := s.enterService) (.refl _) rfl fun p => by rcases p with p | p <;> cases p
  | startsUp reset =>
    obtain ⟨list, carried, quiet, once, first⟩ := h
    exact noticesInOrder_endOfStartUp list carried (quiet (.inl reset)).1 (quiet (.inl reset)).2
  | loads reset => exact h.kept (t := ({ s with phase := .loading }).beginPass .pass1) (.refl _) rfl fun _ => .inl reset
  | loaded loads status =>
    obtain ⟨list, carried, quiet, once, first⟩ := h
    exact noticesInOrder_endOfStartUp list carried (quiet (.inr loads)).1 (quiet (.inr loads)).2
  | _ => exact h.kept (.refl _) rfl id

/-- Settles O54, by the moves of the Notice Unit and the end of start-up. -/
theorem noticeOrderIsKept : Obligations.NoticeOrderIsKept := by
  intro s t
  refine step_keeps (fun _ _ h => h) NoticesInOrder.move (fun s causes high => ?_) fun s out h => ?_
  · exact ⟨⟨by simp [State.coldStarted, State.reset, NoticeUnit.reset], .nil, List.isChain_singleton _⟩,
      nofun, fun _ => ⟨⟨rfl, rfl⟩, rfl⟩, by simp [State.coldStarted, State.reset, Words.none],
      fun r hr => by cases hr⟩
  · refine h.kept (t := s.advance) (.of_inFlight rfl (.inl rfl)) rfl fun p => ?_
    revert p
    show (s.phase.next _ = .inReset ∨ s.phase.next _ = .loading) → _
    cases s.phase <;> simp [Phase.next]

end Sys2Proof.Safety
end

section
/-! PROOFS. The invariants of the ports: what every move of a port keeps, and a restart, the end of start-up and a cycle keep
as well, every step keeps. -/

namespace Sys2Proof.Safety

open Sys2Proof.Machine

variable {s t : State}

/-! ## From moves of a port to steps -/

/-- What a rule `R` about a port and the phase must keep for every step to keep it. -/
structure PortRule (R : Phase → LinePort → Prop) : Prop where
  move : ∀ {phase x y}, R phase x → PortMove phase x y → R phase y
  reset : ∀ p : Port, R .inReset (LinePort.reset (backoffSeeds.get p))
  flushed : ∀ {x} (p : Port), R .inService x → R (.flushing false) (x.flushed (backoffSeeds.get p))
  enters : ∀ {phase x}, phase ≠ .inService → R phase x → R .inService x.enterService
  loads : ∀ {x}, R .inReset x → R .loading x
  cycle : ∀ {phase x} (sample : Option Bool) (tick : Bool), phase ≠ .inReset → R phase x →
    R (phase.next tick) (x.next sample)

variable {R : Phase → LinePort → Prop}

theorem PortRule.moves (r : PortRule R) {phase : Phase} {x y : LinePort} (h : R phase x) (m : PortMoves phase x y) :
    R phase y := by
  induction m with
  | refl => exact h
  | tail _ m ih => exact r.move ih m

theorem PortRule.endOfStartUp (r : PortRule R) (h : ∀ p, R s.phase (s.port p)) (out : s.phase ≠ .inService) (p : Port) :
    R s.endOfStartUp.phase (s.endOfStartUp.port p) := by
  have port : s.endOfStartUp.port p = (s.port p).enterService := by
    rw [endOfStartUp_only]; exact Four.get_map ..
  have phase : s.endOfStartUp.phase = .inService := by rw [endOfStartUp_only]
  rw [port, phase]
  exact r.enters out (h p)

theorem PortRule.move_state (r : PortRule R) (h : ∀ p, R s.phase (s.port p)) (m : Move s t) : ∀ p, R t.phase (t.port p) := by
  have same : t.phase = s.phase → t.ports = s.ports → ∀ p, R t.phase (t.port p) := fun e k p => by
    rw [e, State.port_congr k]; exact h p
  cases m with
  | traffic k => exact fun p => k.phase.symm ▸ r.moves (h p) (k.ports p)
  | takes n => exact same (by rw [takeRaised_only]) (by rw [takeRaised_only])
  | acknowledges sequence k => exact same (by rw [acknowledge_only k]) (by rw [acknowledge_only k])
  | flushes service =>
    intro p
    have port : (beginFlush s).port p = (s.port p).flushed (backoffSeeds.get p) := Four.get_zipWith ..
    rw [port]
    exact r.flushed p (service ▸ h p)
  | flushed flushes =>
    intro p
    have port : s.enterService.port p = (s.port p).enterService := Four.get_map ..
    rw [port]
    exact r.enters (by rw [flushes]; simp) (h p)
  | startsUp reset => exact r.endOfStartUp h (by rw [reset]; simp)
  | loads reset => exact fun p => r.loads (reset ▸ h p)
  | loaded loads status =>
    have out : s.phase ≠ .inService := by rw [loads]; simp
    unfold State.endLoad
    dsimp only
    exact r.endOfStartUp (s := ({ s.endPass with pins := { s.endPass.pins with sclkRuns := false } }).modifyLoader fun l =>
      { l with status := status, state := .done }) h out
  | _ => exact same rfl rfl

/-- A rule of the ports is kept by every step. -/
theorem PortRule.step (r : PortRule R) (h : ∀ p, R s.phase (s.port p)) (e : step s = .next t) : ∀ p, R t.phase (t.port p) :=
  step_keeps (P := fun s => ∀ p, R s.phase (s.port p)) (fun _ _ h => h) r.move_state
    (fun s causes high p => by
      have port : (s.coldStarted causes high).port p = LinePort.reset (backoffSeeds.get p) := Four.get_map ..
      rw [port]; exact r.reset p)
    (fun s out h p => by
      have port : s.advance.port p = (s.port p).next
          (sampleTaken (s.sampleClocks.get p) (s.pins.rxd.get p)) :=
        (Four.get_zipWith ..).trans (congrArg (LinePort.next _) (Four.get_zipWith ..))
      rw [port]; exact r.cycle _ _ out (h p)) h e

/-! ## The halves of a port (R59, R62, R73) -/

theorem halvesAgree_enterService {phase : Phase} {x : LinePort} (out : phase ≠ .inService) (h : HalvesAgree phase x) :
    HalvesAgree .inService x.enterService := by
  have off : x.transmitter.state = .off := h.off.mpr (.inr out)
  have noSlot : x.receiver.currentSlot.isSome = false := by
    have := h.slot
    simpa [SlotInProgress, h.both.mpr off, ReceiverState.frameInProgress] using this
  unfold LinePort.enterService
  split
  · next down => exact ⟨by simp [off, down], h.both, h.rest, h.echo, h.slot⟩
  · next up =>
    refine ⟨by simp [LinePort.started, Transmitter.started, up], by simp [LinePort.started, Transmitter.started,
      Receiver.started], by simp [LinePort.started, Transmitter.started], by simp [LinePort.started, Transmitter.started,
      Receiver.started], by simp [SlotInProgress, LinePort.started, Receiver.started]⟩

theorem halvesAgree_stopped {phase : Phase} {x : LinePort} (out : phase ≠ .inService) (ht : x.transmitter.state = .off)
    (hr : x.receiver.state = .off) (hs : x.receiver.currentSlot = none) (hq : x.transmitter.queue = [])
    (hd : x.transmitter.driverEnable = false) : HalvesAgree phase x :=
  ⟨by simp [ht, out], by simp [ht, hr], fun _ => ⟨hq, hd⟩, by simp [ht, hr], by simp [SlotInProgress, hs]⟩

/-- The phase at the next cycle is in service exactly when it is now. -/
theorem phase_next_inService (phase : Phase) (tick : Bool) : phase.next tick ≠ .inService ↔ phase ≠ .inService := by
  cases phase <;> simp [Phase.next]

theorem halvesAgree_next {phase : Phase} {x : LinePort} (sample : Option Bool) (tick : Bool) (h : HalvesAgree phase x) :
    HalvesAgree (phase.next tick) (x.next sample) :=
  ⟨h.off.trans (or_congr .rfl (phase_next_inService phase tick).symm), h.both, h.rest, h.echo, h.slot⟩

theorem halvesRule : PortRule HalvesAgree where
  move h m := h.move m
  reset _ := halvesAgree_stopped (by simp) rfl rfl rfl rfl rfl
  flushed _ _ := halvesAgree_stopped (by simp) rfl rfl rfl rfl rfl
  enters out h := halvesAgree_enterService out h
  loads h := ⟨h.off.trans (by simp), h.both, h.rest, h.echo, h.slot⟩
  cycle sample tick _ h := halvesAgree_next sample tick h

/-- Settles O57, by the moves of a port. -/
theorem portCoherenceIsKept : Obligations.PortCoherenceIsKept := by
  intro s t h e
  exact (portsCoherent_iff t).mpr (halvesRule.step ((portsCoherent_iff s).mp h) e)

/-! ## The rules that rest on the halves' agreement -/

/-- A rule of a port whose halves agree. -/
theorem PortRule.withHalves {Q : LinePort → Prop}
    (move : ∀ {phase x y}, HalvesAgree phase x → Q x → PortMove phase x y → Q y)
    (stopped : ∀ {x : LinePort}, x.transmitter.state = .off → x.transmitter.queue = [] → x.transmitter.echoList = [] → Q x)
    (started : ∀ {x : LinePort}, x.transmitter.state = .off → x.transmitter.queue = [] → Q x → Q x.started)
    (cycle : ∀ {x} (sample : Option Bool), Q x → Q (x.next sample)) :
    PortRule fun phase x => HalvesAgree phase x ∧ Q x where
  move h m := ⟨h.1.move m, move h.1 h.2 m⟩
  reset p := ⟨halvesRule.reset p, stopped rfl rfl rfl⟩
  flushed p h := ⟨halvesRule.flushed p h.1, stopped rfl rfl rfl⟩
  enters out h := by
    refine ⟨halvesRule.enters out h.1, ?_⟩
    unfold LinePort.enterService
    split
    · exact h.2
    · exact started (h.1.off.mpr (.inr out)) (h.1.rest (h.1.off.mpr (.inr out))).1 h.2
  loads h := ⟨halvesRule.loads h.1, h.2⟩
  cycle sample tick out h := ⟨halvesRule.cycle sample tick out h.1, cycle sample h.2⟩

/-- One cycle keeps the echo list in order: a deadline that runs comes nearer as the character goes on. -/
theorem echoesInOrder_next {x : LinePort} (sample : Option Bool) (h : EchoesInOrder x) : EchoesInOrder (x.next sample) := by
  obtain ⟨outside, two, last, one, driven, ends⟩ := h
  have list : (x.next sample).transmitter.echoList =
      x.transmitter.echoList.map fun c => { c with deadline := timerAfter c.deadline } := rfl
  have set : ∀ c : SentCharacter, timerAfter c.deadline ≠ none ↔ c.deadline ≠ none := fun c => by
    cases c.deadline <;> simp [timerAfter]
  refine ⟨fun n => by rw [list, outside n]; rfl, by rw [list, List.length_map]; exact two, ?_, ?_, ?_, ?_⟩
  · rw [list, ← List.map_dropLast]
    intro e he
    obtain ⟨c, hc, rfl⟩ := List.mem_map.mp he
    exact (set c).mpr (last c hc)
  · rw [list, List.length_map]
    exact fun all => one fun c hc => (set c).mp (all _ (List.mem_map_of_mem hc))
  · intro n e he
    rw [list] at he
    obtain ⟨c, hc, rfl⟩ := List.mem_map.mp he
    exact (set c).mpr (driven n c hc)
  · intro n e he d hd
    rw [list] at he
    obtain ⟨c, hc, rfl⟩ := List.mem_map.mp he
    obtain ⟨d', hd', rfl⟩ := Option.map_eq_some_iff.mp hd
    have time : (x.next sample).transmitter.charTime ≤ x.transmitter.charTime + 1 := by
      show (if _ then _ else _) ≤ _
      split
      · exact Nat.le_refl _
      · exact Nat.le_succ _
    have rate : (x.next sample).record.currentRate = x.record.currentRate := rfl
    rw [rate]
    rcases ends n c hc d' hd' with e | e
    · left; omega
    · by_cases z : d' = 0
      · left; omega
      · right; omega

theorem echoesRule : PortRule fun phase x => HalvesAgree phase x ∧ EchoesInOrder x :=
  .withHalves (fun h q m => q.move h m) (fun _ _ e => .of_empty e)
    (fun off _ q => .of_empty (q.outside (by simp [off])))
    fun sample q => echoesInOrder_next sample q

theorem queuesRule : PortRule fun phase x => HalvesAgree phase x ∧ QueueInOrder x.transmitter :=
  .withHalves (fun h q m => q.move h m)
    (fun _ q _ => ⟨by simp [q], by simp [waiting_of_empty q], by simp [q]⟩)
    (fun {x} _ e q => by
      have e' : x.started.transmitter.queue = [] := e
      exact ⟨by simp [e'], by rw [waiting_of_empty e']; exact .nil, by simp [e']⟩)
    fun {x} _ q => ⟨q.room, q.bands, q.entries⟩

/-! ## The rules of the rates and of the backoff register -/

theorem ratesRule : PortRule fun _ => RateConfirmed where
  move h m := h.move m
  reset _ := fun _ => rfl
  flushed {x} _ h := fun _ => by
    show (if x.record.ratePhase = .steady then x.record.currentRate else x.record.confirmedRate) = x.record.confirmedRate
    split
    · next steady => exact h steady
    · rfl
  enters _ h := by
    unfold LinePort.enterService
    split <;> exact h
  loads h := h
  cycle {phase x} sample tick _ h := fun steady => h (by
    have : x.record.ratePhase.next = .steady := steady
    cases e : x.record.ratePhase <;> rw [e] at this <;> simp [RatePhase.next] at this)

theorem backoffRule : PortRule fun _ x => x.transmitter.backoffRegister ≠ 0 where
  move h m := by
    rcases m.backoffRegister with e | e
    · rw [e]; exact h
    · rw [e]; exact backoffAdvance_ne_zero h
  reset p := by revert p; decide
  flushed p _ := by
    show backoffSeeds.get p ≠ 0
    revert p; decide
  enters _ h := by
    unfold LinePort.enterService
    split <;> exact h
  loads h := h
  cycle _ _ _ h := h

/-! ## Settings (R86, R101, R112, R140, R148, R158) -/

theorem settingsInRange_iff (s : State) : SettingsInRange s ↔
    (10 ≤ s.map.period ∧ s.map.period ≤ 3600) ∧ TimeoutsInRange s.timeoutTable ∧
    (1 ≤ s.notices.interval ∧ s.notices.interval ≤ 60) ∧ (∀ t ∈ s.notices.target, isStationAddress t = true) ∧
    ManagersInRange s.management.managers ∧ s.relay.rules.length ≤ 32 ∧ s.management.queue.length ≤ 4 :=
  ⟨fun ⟨a, b, c, d, e, f, g, h, i⟩ => ⟨a, b, c, d, ⟨e, f, g⟩, h, i⟩,
   fun ⟨a, b, c, d, ⟨e, f, g⟩, h, i⟩ => ⟨a, b, c, d, e, f, g, h, i⟩⟩

/-- A raise taken leaves the settings of the Notice Unit. -/
theorem NoticeUnit.take_settings (u : NoticeUnit) (n : RaisedNotice) :
    (u.take n).interval = u.interval ∧ (u.take n).target = u.target := by
  unfold NoticeUnit.take
  split
  · exact ⟨rfl, rfl⟩
  · split <;> exact ⟨rfl, rfl⟩

theorem takeRaised_settings (n : RaisedNotice) (s : State) :
    (takeRaised n s).notices.interval = s.notices.interval ∧ (takeRaised n s).notices.target = s.notices.target := by
  rcases takeRaised_cases n s with e | ⟨-, e⟩ <;> rw [e]
  · exact ⟨rfl, rfl⟩
  · exact NoticeUnit.take_settings ..

theorem SettingsInRange.move (h : SettingsInRange s) (m : Move s t) : SettingsInRange t := by
  have same : t.map.period = s.map.period → t.timeoutTable = s.timeoutTable → t.notices.interval = s.notices.interval →
      t.notices.target = s.notices.target → t.management.managers = s.management.managers →
      t.relay.rules = s.relay.rules → t.management.queue = s.management.queue → SettingsInRange t :=
    fun a b c d e f g => by unfold SettingsInRange; rw [a, b, c, d, e, f, g]; exact h
  obtain ⟨period, timeouts, interval, target, managers, rules, queue⟩ := (settingsInRange_iff s).mp h
  cases m with
  | traffic k =>
    exact same (by rw [k.only]) (by rw [k.only]) (by rw [k.only]) (by rw [k.only]) (by rw [k.only])
      (by rw [k.only]) (by rw [k.only])
  | takes n =>
    obtain ⟨i, g⟩ := takeRaised_settings n s
    exact same (by rw [takeRaised_only]) (by rw [takeRaised_only]) i g (by rw [takeRaised_only]) (by rw [takeRaised_only])
      (by rw [takeRaised_only])
  | notices u kept =>
    refine (settingsInRange_iff _).mpr ⟨period, timeouts, ?_, ?_, managers, rules, queue⟩
    · rcases kept.interval with e | r
      · exact e ▸ interval
      · exact r
    · rcases kept.target with e | r
      · exact e ▸ target
      · exact r
  | acknowledges sequence k =>
    obtain ⟨n, rest, _, _, e⟩ := State.acknowledge_some k
    exact same (by rw [e]; rfl) (by rw [e]; rfl) (by rw [e]; rfl) (by rw [e]; rfl) (by rw [e]; rfl) (by rw [e]; rfl)
      (by rw [e]; rfl)
  | map m keeps range =>
    refine (settingsInRange_iff _).mpr ⟨?_, timeouts, interval, target, managers, rules, queue⟩
    rcases range with e | r
    · exact e ▸ period
    · exact r
  | timeouts v range => exact (settingsInRange_iff _).mpr ⟨period, range, interval, target, managers, rules, queue⟩
  | managers l range => exact (settingsInRange_iff _).mpr ⟨period, timeouts, interval, target, range, rules, queue⟩
  | requests l room => exact (settingsInRange_iff _).mpr ⟨period, timeouts, interval, target, managers, rules, room queue⟩
  | rules r room => exact (settingsInRange_iff _).mpr ⟨period, timeouts, interval, target, managers, room rules, queue⟩
  | flushes service => exact (settingsInRange_iff _).mpr ⟨period, timeouts, interval, target, managers, rules, by simp [beginFlush]⟩
  | startsUp reset =>
    exact same (by rw [endOfStartUp_only]) (by rw [endOfStartUp_only]) (by rw [endOfStartUp_only])
      (by rw [endOfStartUp_only]) (by rw [endOfStartUp_only]) (by rw [endOfStartUp_only]) (by rw [endOfStartUp_only])
  | loaded loads status =>
    have only : s.endLoad status = { s with
        phase := .inService, pins := (s.endLoad status).pins, ports := (s.endLoad status).ports
        map := { s.map with timer := (s.endLoad status).map.timer }, words := (s.endLoad status).words
        loader := (s.endLoad status).loader } := by
      unfold State.endLoad; rw [endOfStartUp_only]; rfl
    exact same (by rw [only]) (by rw [only]) (by rw [only]) (by rw [only]) (by rw [only]) (by rw [only]) (by rw [only])
  | _ => exact same rfl rfl rfl rfl rfl rfl rfl

theorem settingsInRange_coldStarted (s : State) (causes : ResetCauses) (high : Bool) :
    SettingsInRange (s.coldStarted causes high) := by
  refine (settingsInRange_iff _).mpr ⟨by simp [State.coldStarted, State.reset], ?_, by
    simp [State.coldStarted, State.reset, NoticeUnit.reset], nofun, ⟨by simp [State.coldStarted, State.reset], .nil, nofun⟩,
    by simp [State.coldStarted, State.reset], by simp [State.coldStarted, State.reset]⟩
  show TimeoutsInRange ⟨50, 100, 250, 1000⟩
  unfold TimeoutsInRange
  decide

/-! ## Reset and the serial memory (R172) -/

theorem Pins.scsHigh_of_last {x : Pins} {l : List Bool} {b : Bool} (h : x.scs = l ++ [b]) : x.scsHigh = b := by
  simp [Pins.scsHigh, h]

/-- Out of reset the pins of the serial memory follow the load; in reset they rest. -/
theorem PinsFollowLoader.move (h : PinsFollowLoader s) (m : Move s t) : PinsFollowLoader t := by
  have same : t.loader.state = s.loader.state → t.phase = s.phase → t.pins.scs = s.pins.scs →
      t.pins.sclkRuns = s.pins.sclkRuns → PinsFollowLoader t :=
    fun a b c d => by unfold PinsFollowLoader loaderInPass Pins.scsHigh; rw [a, b, c, d]; exact h
  have started : ∀ u : State, ¬ loaderInPass u → u.pins.scsHigh = true → u.pins.sclkRuns = false →
      PinsFollowLoader u.endOfStartUp := by
    intro u pass scs sclk
    have loader : u.endOfStartUp.loader = u.loader := by rw [endOfStartUp_only]
    have pins : u.endOfStartUp.pins = u.pins := by rw [endOfStartUp_only]
    have phase : u.endOfStartUp.phase = .inService := by rw [endOfStartUp_only]
    unfold PinsFollowLoader loaderInPass
    rw [loader, pins, phase]
    unfold loaderInPass at pass
    simp [pass, scs, sclk]
  have turned : ∀ (u : State) (pass : LoadState), u.phase = .loading → (pass = .pass1 ∨ pass = .pass2) →
      PinsFollowLoader (u.beginPass pass) := by
    intro u pass loads one
    have low : (u.beginPass pass).pins.scsHigh = false := Pins.scsHigh_of_last rfl
    unfold PinsFollowLoader loaderInPass
    rw [low]
    simp [loads, one]
  obtain ⟨loader, scs, sclk⟩ := h
  cases m with
  | traffic k => exact same (by rw [k.only]) k.phase (by rw [k.only]) (by rw [k.only])
  | takes n =>
    exact same (by rw [takeRaised_only]) (by rw [takeRaised_only]) (by rw [takeRaised_only])
      (by rw [takeRaised_only])
  | acknowledges sequence k =>
    exact same (by rw [acknowledge_only k]) (by rw [acknowledge_only k])
      (by rw [acknowledge_only k]) (by rw [acknowledge_only k])
  | flushes service =>
    have pass : ¬ loaderInPass s := fun c => by simp [loader.mp c] at service
    refine ⟨⟨fun c => absurd c pass, fun c => by simp [beginFlush] at c⟩, ?_, ?_⟩
    · show s.pins.scsHigh = false ↔ _
      rw [scs]; exact .rfl
    · show s.pins.sclkRuns = true ↔ _
      rw [sclk, service]; simp [beginFlush]
  | flushed flushes =>
    refine ⟨?_, scs, ?_⟩
    · show loaderInPass s ↔ _
      rw [loader, flushes]; simp [State.enterService]
    · show s.pins.sclkRuns = true ↔ _
      rw [sclk, flushes]; simp [State.enterService]
  | startsUp reset =>
    have pass : ¬ loaderInPass s := fun c => by simp [loader.mp c] at reset
    refine started s pass (by simpa [pass] using scs) (by simpa [reset] using sclk)
  | loads reset => exact turned _ _ rfl (.inl rfl)
  | turns loads first => exact turned s.endPass _ loads (.inr rfl)
  | loaded loads status =>
    unfold State.endLoad
    dsimp only
    exact started _ (by simp [loaderInPass]) (Pins.scsHigh_of_last rfl) rfl
  | _ => exact same rfl rfl rfl rfl

/-- In reset nothing but a cold start, a release and what the lines bring is taken. -/
theorem exec_inReset {c : Instr} (h : s.phase = .inReset) (e : exec c s = .next t) :
    (∃ p coming, t = s.lineBrings p coming) ∨ t.phase ≠ .inReset ∨
      ∃ u causes high, t = State.coldStarted u causes high := by
  have stays : t = s → ∃ p coming, t = s.lineBrings p coming := fun k => ⟨0, [], by rw [k, State.lineBrings_nil]⟩
  have outside : ∀ {f : State → State}, s.whenInService f = .next t → ∃ p coming, t = s.lineBrings p coming := by
    intro f e
    rw [State.whenInService_outside f (by rw [h]; simp)] at e
    exact stays (by cases e; rfl)
  cases c with
  | powerOn => cases e; exact .inr (.inr ⟨_, _, _, rfl⟩)
  | pinReset => cases e; exact .inr (.inr ⟨_, _, _, rfl⟩)
  | coldStart cfgen =>
    cases e
    refine .inr (.inl ?_)
    unfold releaseReset
    rw [if_pos h]
    dsimp only
    split
    · simp
    · rw [endOfStartUp_only]; simp
  | pass1End m => cases e; exact .inl (stays (by simp [finishPass1, h]))
  | imageRecord m => cases e; exact .inl (stays (by simp [readRecord, h]))
  | pass2End m => cases e; exact .inl (stays (by simp [finishPass2, h]))
  | flushEnd => cases e; exact .inl (stays (by simp [endFlush, h]))
  | characterDelivered p coming =>
    have : (s.lineBrings p coming).phase = .inReset := h
    simp only [exec, execCharacterDelivered, State.whenFramersRun, this, if_true] at e
    cases e; exact .inl ⟨p, coming, rfl⟩
  | judgedLineLevelChange p coming =>
    have : (s.lineBrings p coming).phase = .inReset := h
    simp only [exec, execJudgedLineLevelChange, State.whenFramersRun, this, if_true] at e
    cases e; exact .inl ⟨p, coming, rfl⟩
  | _ => exact .inl (outside e)

/-- No move puts the relay into reset. -/
theorem Move.phase_ne_inReset (m : Move s t) (h : s.phase ≠ .inReset) : t.phase ≠ .inReset := by
  cases m with
  | traffic k => rwa [k.phase]
  | takes n => rw [takeRaised_only]; exact h
  | acknowledges sequence k => rw [acknowledge_only k]; exact h
  | flushes service => simp [beginFlush]
  | flushed flushes => simp [State.enterService]
  | startsUp reset => exact absurd reset h
  | loads reset => exact absurd reset h
  | loaded loads status => unfold State.endLoad; rw [endOfStartUp_only]; simp
  | _ => exact h

theorem Moves.phase_ne_inReset (m : Moves s t) (h : s.phase ≠ .inReset) : t.phase ≠ .inReset := by
  induction m with
  | refl => exact h
  | tail _ m ih => exact m.phase_ne_inReset ih

theorem quietInReset_coldStarted (s : State) (causes : ResetCauses) (high : Bool) :
    QuietInReset (s.coldStarted causes high) := by
  intro _
  refine ⟨fun p => ?_, rfl, rfl⟩
  have port : (s.coldStarted causes high).port p = LinePort.reset (backoffSeeds.get p) := Four.get_map ..
  unfold State.txd
  rw [port]
  exact ⟨rfl, rfl⟩

theorem quietInReset_step (h : QuietInReset s) (e : step s = .next t) : QuietInReset t := by
  unfold step at e
  split at e
  · cases e
    unfold tick
    split
    · exact h
    · next out =>
      intro c
      have : s.phase.next s.timeBase.tickEnds = .inReset := c
      cases k : s.phase <;> simp [k, Phase.next] at this out
  · next c rest _ =>
    by_cases reset : s.phase = .inReset
    · rcases exec_inReset (s := { s with pending := rest }) reset e with ⟨p, coming, rfl⟩ | out | ⟨u, causes, high, rfl⟩
      · exact h
      · exact fun c => absurd c out
      · exact quietInReset_coldStarted u causes high
    · cases exec_reaches e with
      | moves m => exact fun c => absurd c (m.phase_ne_inReset reset)
      | cold u causes high => exact quietInReset_coldStarted u causes high

/-- Settles O60: the rules of the ports by their moves, the settings and the pins by those of the relay, and the outputs in
reset by what a reset is and what is taken in it. -/
theorem standingConditionsAreKept : Obligations.StandingConditionsAreKept := by
  intro s t e
  refine ⟨fun h => ratesRule.step h e, fun c h => ?echoes, fun h => backoffRule.step h e, fun h => ?settings,
    fun h => quietInReset_step h e, fun h => ?pins⟩
  case echoes =>
    have both := echoesRule.step (fun p => ⟨(portsCoherent_iff s).mp c p, (echoListsHold_iff s).mp h p⟩) e
    exact (echoListsHold_iff t).mpr fun p => (both p).2
  case settings =>
    exact step_keeps (P := SettingsInRange) (fun _ _ h => h) SettingsInRange.move settingsInRange_coldStarted
      (fun _ _ h => h) h e
  case pins =>
    refine step_keeps (P := PinsFollowLoader) (fun _ _ h => h) PinsFollowLoader.move (fun s causes high => ?_)
      (fun s out h => ?_) h e
    · exact ⟨by simp [State.coldStarted, State.reset, ImageLoader.reset], by
        simp [State.coldStarted, State.reset, ImageLoader.reset, Pins.scsHigh], by simp [State.coldStarted, State.reset]⟩
    · obtain ⟨loader, scs, sclk⟩ := h
      have phase : s.phase.next s.timeBase.tickEnds = .loading ↔ s.phase = .loading := by
        cases s.phase <;> simp [Phase.next]
      exact ⟨loader.trans phase.symm, scs, sclk.trans phase.symm⟩

end Sys2Proof.Safety
end

section
/-! PROOFS. The queue of commands, the clocks, the control character, reset and its release. -/

namespace Sys2Proof.Safety

open Sys2Proof.Machine

/-! ## The queue of commands -/

/-- Settles O1: a step opens the queue and hands the front command on. -/
theorem stepRunsFrontCommand : Obligations.StepRunsFrontCommand := by
  intro c rest s h
  unfold step
  rw [h]

/-- Every arm of the dispatch answers a next state. -/
theorem exec_next (c : Instr) (s : State) : ∃ t, exec c s = .next t := by
  cases c <;> exact ⟨_, rfl⟩

/-- Settles O2: a command comes to moves or to a cold start, and neither touches the queue. -/
theorem everyCommandAnswersNext : Obligations.EveryCommandAnswersNext := by
  intro c s
  obtain ⟨t, e⟩ := exec_next c s
  exact ⟨t, e, (exec_reaches e).pending⟩

/-! ## The clocks -/

/-- Settles O4: the divisors and the ticks by their values, a timer for milliseconds by rounding 14745.6 cycles up. -/
theorem clocksDivideReferenceClock : Obligations.ClocksDivideReferenceClock := by
  refine ⟨by decide, by decide, by decide, fun n => ?_, fun b d => ⟨fun h => ?_, fun h => ?_⟩⟩
  · unfold msCycles
    omega
  · simp [TimeBase.next, h]
  · simp [TimeBase.next, Nat.not_lt.mpr h]

/-! ## The control character -/

/-- Settles O6: each field stands in its own bits. -/
theorem controlCharacterFieldsRoundTrip : Obligations.ControlCharacterFieldsRoundTrip := by
  refine ⟨fun k hop tag => ?_, by decide⟩
  cases k <;> revert hop tag <;> decide

/-! ## Reset and its release -/

theorem slot_reset (i : SlotId) : State.reset.slot i = Slot.empty := by
  simp [State.slot, State.reset]

theorem port_reset (p : Port) : State.reset.port p = LinePort.reset (backoffSeeds.get p) := Four.get_map ..

theorem coldStartValues : Statements.ColdStartValues := by
  refine ⟨rfl, rfl, rfl, slot_reset, fun p => ?_, by decide, rfl, rfl, rfl, rfl, rfl, rfl, rfl, rfl, rfl, rfl, rfl, rfl,
    rfl, rfl, rfl, rfl, rfl, rfl⟩
  unfold State.txd
  rw [port_reset]
  refine ⟨rfl, rfl, rfl, rfl, rfl, rfl, rfl, rfl, rfl, rfl, rfl, ?_, rfl, rfl⟩
  revert p
  decide

theorem poolConsistent_reset : PoolConsistent State.reset := by
  have entries : ∀ i, entriesNaming State.reset i = 0 := fun _ => rfl
  have none : holders State.reset = [] := rfl
  refine ⟨fun i => ?_, ⟨fun i => ?_, fun i _ => slot_reset i, ?_, ?_, fun i => ?_⟩, .nil, .nil, nofun, nofun⟩
  · rw [slot_reset, entries]; rfl
  · rw [slot_reset, none]; simp [Slot.empty]
  · rw [none]; exact .nil
  · rw [none]; exact nofun
  · rw [slot_reset]
    refine ⟨nofun, fun ⟨p, h⟩ => ?_⟩
    rw [port_reset] at h
    exact absurd h nofun

theorem invariantsHoldAtReset : Statements.InvariantsHoldAtReset := by
  refine ⟨?_, ?_, ?_, by decide, by decide, by decide, by decide, by decide, poolConsistent_reset, by decide, by decide,
    by decide⟩ <;> decide

/-- Settles O37: the values of reset as they are written, and the invariants of a relay at rest. -/
theorem resetHasColdStartValues : Obligations.ResetHasColdStartValues := ⟨coldStartValues, invariantsHoldAtReset⟩

theorem entersService_enterService {s t : State} (phase : t.phase = .inService)
    (map : t.map = { s.map with timer := some (secondCycles s.map.period) }) (ports : t.ports = s.ports.map .enterService) :
    Statements.EntersService s t := by
  have port : ∀ p, t.port p = (s.port p).enterService := fun p => by
    unfold State.port; rw [ports]; exact Four.get_map ..
  refine ⟨phase, by rw [map, secondCycles, Nat.mul_comm], fun p => ⟨fun h => ?_, fun h => ?_⟩⟩
  · rw [port]
    exact if_pos h
  · have started : t.port p = (s.port p).started := by
      rw [port]
      exact if_neg (by rw [show (s.port p).record.admin.isDown = false from h]; simp)
    rw [started]
    exact ⟨rfl, rfl, rfl, rfl, rfl, rfl⟩

theorem releaseOfReset : Statements.ReleaseOfReset := by
  intro s
  refine ⟨fun reset unrun => ⟨?_, ?_⟩, fun out cfgen => ?_⟩
  · refine ⟨_, rfl, ?_⟩
    unfold releaseReset State.endOfStartUp
    rw [if_pos reset]
    dsimp only
    rw [if_neg (by simp), if_pos unrun]
    exact ⟨entersService_enterService rfl rfl rfl, rfl⟩
  · show Host.Outcome.next (releaseReset true s) = _
    unfold releaseReset
    rw [if_pos reset]
    rfl
  · show Host.Outcome.next (releaseReset cfgen s) = _
    unfold releaseReset
    rw [if_neg out]

/-- Settles O38: a reset source gives the values of reset, and a release goes by CFGEN. -/
theorem resetAndItsRelease : Obligations.ResetAndItsRelease := ⟨fun _ => ⟨rfl, rfl⟩, releaseOfReset⟩

end Sys2Proof.Safety
end

section
/-! PROOFS. Time on the empty queue, the samples of a framer and the judged line level. -/

namespace Sys2Proof.Safety

open Sys2Proof.Machine Sys2Proof.Statements

variable {s : State} {p : Port}

/-! ## One cycle (R171) -/

theorem tick_outOfReset (h : s.phase ≠ .inReset) : tick s = s.advance := if_neg h

theorem port_advance (s : State) (p : Port) :
    s.advance.port p =
      (s.port p).next (sampleTaken (sampleClockComes (sampleDivisor (s.rate p)) (s.timeBase.samplePhase.get p))
        (s.pins.rxd.get p)) := by
  unfold State.port State.advance State.sampleClocks State.rate State.port
  simp

theorem timelessPort_next (x : LinePort) (sample : Option Bool) : timelessPort (x.next sample) = timelessPort x := by
  have framer : (x.next sample).framer.level = x.framer.level := by
    cases sample <;> simp [LinePort.next]
  have phase : (match (x.next sample).record.ratePhase with
      | .window w _ => RatePhase.window w 0
      | phase => phase) = match x.record.ratePhase with
      | .window w _ => .window w 0
      | phase => phase := by
    cases h : x.record.ratePhase <;> simp [LinePort.next, PortRecord.next, RatePhase.next, h]
  have recovery : (x.next sample).record.recovery.map (fun _ => 0) = x.record.recovery.map fun _ => 0 := by
    unfold LinePort.next PortRecord.next
    dsimp only
    split <;> simp [Option.map_map, Function.comp_def]
  unfold timelessPort
  simp only [framer, recovery]
  simp [LinePort.next, Receiver.next, Transmitter.next, PortRecord.next, timerAfter, Option.map_map,
    List.map_map, Function.comp_def]
  exact phase

theorem timeless_advance (s : State) : timeless s.advance = timeless s := by
  have phase : (match s.advance.phase with
      | .flushing _ => Phase.flushing false
      | phase => phase) = match s.phase with
      | .flushing _ => .flushing false
      | phase => phase := by
    cases h : s.phase <;> simp [State.advance, Phase.next, h]
  have ports : s.advance.ports.map timelessPort = s.ports.map timelessPort := by
    simp [State.advance, Four.map, Four.zipWith, timelessPort_next]
  unfold timeless
  simp only [ports]
  simp [State.advance, timerAfter, Exchange.next, AgedDeparture.next, Option.map_map, List.map_map,
    Function.comp_def]
  exact phase

theorem idleStepMovesOnlyTime : IdleStepMovesOnlyTime := by
  intro s empty
  have taken : step s = .next (tick s) := by
    unfold step
    rw [empty]
  refine ⟨tick s, taken, fun reset => if_pos reset, ?_⟩
  by_cases reset : s.phase = .inReset
  · rw [show tick s = s from if_pos reset]
    exact ⟨rfl, .inl rfl⟩
  · rw [tick_outOfReset reset]
    refine ⟨timeless_advance s, ?_⟩
    show s.phase.next s.timeBase.tickEnds = s.phase ∨ _ ∧ s.phase.next s.timeBase.tickEnds = _
    cases h : s.phase with
    | flushing ticked => cases ticked <;> cases s.timeBase.tickEnds <;> simp [Phase.next]
    | inReset => exact absurd h reset
    | loading => exact .inl rfl
    | inService => exact .inl rfl

theorem cycleAdvancesIntervals : CycleAdvancesIntervals := by
  intro s p out
  dsimp only
  rw [tick_outOfReset out, port_advance]
  refine ⟨rfl, rfl, rfl, ?_, fun n h mark => ?_, fun n h space => ?_, rfl, rfl, fun b h => ?_, rfl, fun w n h => ?_,
    rfl, rfl, rfl, rfl, rfl⟩
  · simp [LinePort.next, Receiver.next]
  · simp [LinePort.next, PortRecord.next, h, mark]
  · simp [LinePort.next, PortRecord.next, h, space]
  · simp [LinePort.next, Transmitter.next, h]
  · simp [LinePort.next, PortRecord.next, RatePhase.next, h]

theorem framersSampleAtTheirClock : FramersSampleAtTheirClock := by
  intro s p out
  dsimp only
  rw [tick_outOfReset out, port_advance]
  have phase : s.advance.timeBase.samplePhase.get p =
      (s.timeBase.samplePhase.get p + 1) % sampleDivisor (s.rate p) := by
    unfold State.advance TimeBase.next State.rate State.port
    simp
  have rxd : s.advance.pins.rxd.get p =
      if sampleClockComes (sampleDivisor (s.rate p)) (s.timeBase.samplePhase.get p) then (s.pins.rxd.get p).tail
      else s.pins.rxd.get p := by
    unfold State.advance State.sampleClocks State.rate State.port
    simp
  refine ⟨phase, fun comes => ?_, fun between => ?_⟩
  · rw [rxd]
    simp [LinePort.next, sampleTaken, sampleClockComes, comes]
  · rw [rxd]
    simp [LinePort.next, sampleTaken, sampleClockComes, between]

/-- Settles O3: a cycle moves times and samples, each by its own rule. -/
theorem timePassesOnEmptyQueue : Obligations.TimePassesOnEmptyQueue :=
  ⟨idleStepMovesOnlyTime, cycleAdvancesIntervals, framersSampleAtTheirClock⟩

/-! ## The samples of a character (R2, R3) -/

theorem two_le_count_iff (a b c : Bool) : 2 ≤ [a, b, c].count true ↔ majority a b c = true := by
  revert a b c
  decide

theorem judgedLevel_eq_space_iff (x : LevelSamples) :
    judgedLevel x = .space ↔ [x.first, x.second, x.third].count true < 2 := by
  rw [← Nat.not_le, two_le_count_iff]
  simp [judgedLevel]

theorem sampledBits_getLsbD (x : CharacterSamples) (b : Nat) :
    (sampledBits x).getLsbD b = majority (x.first.getLsbD b) (x.second.getLsbD b) (x.third.getLsbD b) := by
  simp [sampledBits, majority]

/-- The sample at clock `k` is the bit `b` of its set if it is taken at that bit's place, `offset` behind the bit's start. -/
theorem sampleBit_getLsbD {k b offset : Nat} (high : Bool) (place : k % 16 = offset) (hb : b < 11) :
    (if high then BitVec.twoPow 11 (k / 16) else 0 : BitVec 11).getLsbD b = (decide (16 * b + offset = k) && high) := by
  have same : b = k / 16 ↔ 16 * b + offset = k := by omega
  cases high <;> simp [hb, same]

theorem CharacterSamples.take_getLsbD (x : CharacterSamples) (k : Nat) (high : Bool) {b : Nat} (hb : b < 11) :
    (x.take k high).first.getLsbD b = (x.first.getLsbD b || (decide (16 * b + 7 = k) && high)) ∧
    (x.take k high).second.getLsbD b = (x.second.getLsbD b || (decide (16 * b + 8 = k) && high)) ∧
    (x.take k high).third.getLsbD b = (x.third.getLsbD b || (decide (16 * b + 9 = k) && high)) := by
  unfold CharacterSamples.take Config.samplesPerBit Config.firstCentreSample
  dsimp only
  split
  · next place =>
    have : 16 * b + 8 ≠ k ∧ 16 * b + 9 ≠ k := by omega
    simp only [BitVec.getLsbD_or, sampleBit_getLsbD high place hb]
    simp [this]
  split
  · next place =>
    have : 16 * b + 7 ≠ k ∧ 16 * b + 9 ≠ k := by omega
    simp only [BitVec.getLsbD_or, sampleBit_getLsbD high place hb]
    simp [this]
  split
  · next place =>
    have : 16 * b + 7 ≠ k ∧ 16 * b + 8 ≠ k := by omega
    simp only [BitVec.getLsbD_or, sampleBit_getLsbD high place hb]
    simp [this]
  · have : 16 * b + 7 ≠ k ∧ 16 * b + 8 ≠ k ∧ 16 * b + 9 ≠ k := by omega
    simp [this]

/-- `n` samples after its start edge a framer times the character with the samples taken so far, those of `x`. -/
structure Timed (x : Nat → Bool) (n : Nat) (f : Framer) : Prop where
  assembling : f.assembling = true
  clock : f.clock = min n 169
  bits : ∀ b, b < 11 →
    f.samples.first.getLsbD b = (decide (16 * b + 7 ≤ n) && x (16 * b + 7)) ∧
    f.samples.second.getLsbD b = (decide (16 * b + 8 ≤ n) && x (16 * b + 8)) ∧
    f.samples.third.getLsbD b = (decide (16 * b + 9 ≤ n) && x (16 * b + 9))

/-- The samples of `x` at places up to `n` and the one at `n + 1` are those up to `n + 1`. -/
theorem taken_succ (x : Nat → Bool) (place n : Nat) :
    ((decide (place ≤ n) && x place) || (decide (place = n + 1) && x (n + 1))) = (decide (place ≤ n + 1) && x place) := by
  by_cases h : place = n + 1
  · subst h; simp
  · have : place ≤ n + 1 ↔ place ≤ n := by omega
    simp [h, this]

variable {f : Framer} {x : Nat → Bool} {n : Nat}

theorem Timed.take_bits (h : Timed x n f) {b : Nat} (hb : b < 11) :
    (f.samples.take (n + 1) (x (n + 1))).first.getLsbD b = (decide (16 * b + 7 ≤ n + 1) && x (16 * b + 7)) ∧
    (f.samples.take (n + 1) (x (n + 1))).second.getLsbD b = (decide (16 * b + 8 ≤ n + 1) && x (16 * b + 8)) ∧
    (f.samples.take (n + 1) (x (n + 1))).third.getLsbD b = (decide (16 * b + 9 ≤ n + 1) && x (16 * b + 9)) := by
  obtain ⟨first, second, third⟩ := h.bits b hb
  obtain ⟨first', second', third'⟩ := CharacterSamples.take_getLsbD f.samples (n + 1) (x (n + 1)) hb
  rw [first', second', third', first, second, third]
  exact ⟨taken_succ .., taken_succ .., taken_succ ..⟩

theorem Timed.sample (h : Timed x n f) (start : n = 8 → [x 7, x 8, x 9].count true < 2) :
    Timed x (n + 1) (f.sample (x (n + 1))) := by
  have clock := h.clock
  by_cases whole : 169 ≤ n
  · rw [Framer.sample_of_whole _ _ (by omega)]
    refine ⟨h.assembling, show f.clock = _ by omega, fun b hb => ?_⟩
    have := h.bits b hb
    have places : 16 * b + 7 ≤ n ∧ 16 * b + 8 ≤ n ∧ 16 * b + 9 ≤ n := by omega
    simpa [places, Nat.le_succ_of_le] using this
  · have now : f.clock = n := by omega
    by_cases judged : n = 8
    · rw [Framer.sample_judges_start _ _ h.assembling (by omega)]
      subst judged
      refine ⟨?_, rfl, fun b hb => h.take_bits hb⟩
      have bits := h.take_bits (b := 0) (by omega)
      have low : majority (x 7) (x 8) (x 9) = false := by
        rw [← Bool.not_eq_true, ← two_le_count_iff]
        exact Nat.not_le.mpr (start rfl)
      simp only [sampledBits_getLsbD]
      simp_all
    · rw [Framer.sample_of_assembling _ _ h.assembling (by omega) (by omega), now]
      exact ⟨h.assembling, show n + 1 = _ by omega, fun b hb => h.take_bits hb⟩

/-- The framer `f` when it has taken the first `n` samples of `x`. -/
def sampledTo (f : Framer) (x : Nat → Bool) (n : Nat) : Framer :=
  ((List.range n).map fun k => x (k + 1)).foldl Framer.sample f

theorem sampledTo_succ (f : Framer) (x : Nat → Bool) (n : Nat) :
    sampledTo f x (n + 1) = (sampledTo f x n).sample (x (n + 1)) := by
  simp [sampledTo, List.range_succ]

theorem sampledTo_recent (f : Framer) (x : Nat → Bool) (n : Nat) :
    (sampledTo f x (n + 3)).recent = ⟨x (n + 1), x (n + 2), x (n + 3)⟩ := by
  simp [sampledTo_succ]

section Start
variable (assembling : f.assembling = true) (clock : f.clock = 0) (blank : f.samples = ⟨0, 0, 0⟩)
include assembling clock blank

theorem timed_start : Timed x 0 f := ⟨assembling, by simp [clock], fun b hb => by simp [blank]⟩

theorem timed_sampledTo (n : Nat) (start : 9 ≤ n → [x 7, x 8, x 9].count true < 2) : Timed x n (sampledTo f x n) := by
  induction n with
  | zero => exact timed_start assembling clock blank
  | succ n ih =>
    rw [sampledTo_succ]
    exact (ih fun h => start (by omega)).sample fun h => start (by omega)

/-- With the majority of its start bit at mark a framer has given the character up from sample 9 on. -/
theorem sampledTo_falseStart (high : 2 ≤ [x 7, x 8, x 9].count true) {n : Nat} (h : 9 ≤ n) :
    (sampledTo f x n).assembling = false := by
  induction n, h using Nat.le_induction with
  | base =>
    have before : Timed x 8 (sampledTo f x 8) := timed_sampledTo assembling clock blank 8 (by omega)
    have bits := before.take_bits (b := 0) (by omega)
    have mark := (two_le_count_iff ..).mp high
    rw [sampledTo_succ, Framer.sample_judges_start _ _ before.assembling before.clock]
    simp only [sampledBits_getLsbD]
    simp_all
  | succ n _ ih => rw [sampledTo_succ, Framer.sample_of_waiting _ _ ih]; exact ih

end Start

theorem framerSamplesBitCentres : FramerSamplesBitCentres := by
  refine ⟨fun f high => ⟨Framer.sample_recent .., Framer.sample_level .., ?_, Framer.sample_of_waiting f high⟩,
    fun f x assembling clock blank => ?_⟩
  · rw [Framer.sample_waitsForMark]
    simp [and_comm]
  have timed := @timed_sampledTo f x assembling clock blank
  refine ⟨fun n h => (timed n (by omega)).assembling,
    fun high n h => sampledTo_falseStart assembling clock blank high h, fun low => ?_, fun low n => ?_⟩
  · have before := timed 168 fun _ => low
    show (sampledTo f x (168 + 1)).waitsForMark = true ↔ _
    rw [sampledTo_succ, Framer.sample_waitsForMark, before.assembling, before.clock, sampledTo_recent f x 165]
    simp [judgedLevel_eq_space_iff]
  · have now := timed n fun _ => low
    refine ⟨now.assembling, now.clock, fun early => Framer.complete_of_early _ ?_, fun whole => ⟨?_, fun b hb => ?_⟩⟩
    · show (sampledTo f x n).clock < 169
      rw [now.clock]; omega
    · show (sampledTo f x n).complete = judgedCharacter (sampledTo f x n).samples
      unfold Framer.complete
      rw [if_pos ⟨now.assembling, by rw [now.clock]; simp [Config.lastSampleOf, Config.samplesPerBit, Config.firstCentreSample]; omega⟩]
    · have places : 16 * b + 7 ≤ n ∧ 16 * b + 8 ≤ n ∧ 16 * b + 9 ≤ n := by omega
      have bits := now.bits b hb
      simp only [places, decide_true, Bool.true_and] at bits
      exact bits

/-- Of three sets of samples two that agree carry the majority at every bit. -/
theorem sampledBits_outvoted (line bad : BitVec 11) :
    sampledBits ⟨bad, line, line⟩ = line ∧ sampledBits ⟨line, bad, line⟩ = line ∧
    sampledBits ⟨line, line, bad⟩ = line := by
  refine ⟨?_, ?_, ?_⟩ <;> (ext b; simp only [sampledBits, BitVec.getElem_or, BitVec.getElem_and]; grind)

theorem lineBits_fields (c : Character) :
    c.lineBits.getLsbD 0 = false ∧ c.lineBits.extractLsb' 1 8 = c.value ∧ c.lineBits.getLsbD 9 = c.mark ∧
    c.lineBits.getLsbD 10 = true := by
  obtain ⟨value, mark⟩ := c
  revert value mark
  decide

theorem judgedCharacter_of_lineBits {c : Character} {x : CharacterSamples} (h : sampledBits x = c.lineBits) :
    judgedCharacter x = some ⟨c.value, c.mark, sampledNoisy x, false⟩ := by
  obtain ⟨start, value, mark, stop⟩ := lineBits_fields c
  unfold judgedCharacter
  rw [h, start, value, mark, stop]
  rfl

theorem majorityOutvotesOneSample : MajorityOutvotesOneSample := by
  intro c bad
  obtain ⟨first, second, third⟩ := sampledBits_outvoted c.lineBits bad
  dsimp only
  rw [judgedCharacter_of_lineBits first, judgedCharacter_of_lineBits second, judgedCharacter_of_lineBits third]
  simp [sampledNoisy, bne_comm]

/-- Settles O5: the framer's samples by induction on their number, the majority bit by bit. -/
theorem oneBadSampleOnlyMarksNoise : Obligations.OneBadSampleOnlyMarksNoise :=
  ⟨framerSamplesBitCentres, majorityOutvotesOneSample⟩

end Sys2Proof.Safety
end

section
/-! PROOFS. Generated frames, the hop rewrite, and the judged line level. -/

namespace Sys2Proof.Safety

open Sys2Proof.Machine Sys2Proof.Statements

/-! ## The check (R7) -/

theorem checkAdvance_lowHalf : ∀ b : Byte,
    checkAdvance (checkAdvance (checkAdvance (checkAdvance (checkAdvance (checkAdvance (checkAdvance (checkAdvance
      (0#8 ++ b : BitVec 16)))))))) = (b ++ 0#8 : BitVec 16) := by
  decide

theorem highByte_append_lowByte (r : Word) : (highByte r ++ lowByte r : BitVec 16) = r := by
  refine BitVec.eq_of_getLsbD_eq fun i hi => ?_
  simp only [highByte, lowByte, BitVec.getLsbD_append, BitVec.getLsbD_extractLsb']
  by_cases low : i < 8
  · simp [low]
  · simp [low, show i - 8 < 8 by omega, show 8 + (i - 8) = i by omega]

theorem checkTake_highByte (r : Word) : checkTake r (highByte r) = (lowByte r ++ 0#8 : BitVec 16) := by
  have rest : r ^^^ (highByte r ++ 0#8 : BitVec 16) = (0#8 ++ lowByte r : BitVec 16) := by
    refine BitVec.eq_of_getLsbD_eq fun i hi => ?_
    simp only [highByte, lowByte, BitVec.getLsbD_xor, BitVec.getLsbD_append, BitVec.getLsbD_extractLsb',
      BitVec.getLsbD_zero]
    by_cases low : i < 8
    · simp [low]
    · simp [low, show i - 8 < 8 by omega, show 8 + (i - 8) = i by omega]
  unfold checkTake
  dsimp only
  rw [show (0 : Byte) = 0#8 from rfl, rest, checkAdvance_lowHalf]

theorem checkTake_own (b : Byte) : checkTake (b ++ 0#8 : BitVec 16) b = 0 := by
  unfold checkTake
  rw [show (0 : Byte) = 0#8 from rfl, BitVec.xor_self]
  decide

theorem checkRunsToZeroThroughItself : CheckRunsToZeroThroughItself := by
  intro bs
  show checkTake (checkTake (checkOf bs) (highByte (checkOf bs))) (lowByte (checkOf bs)) = 0
  rw [checkTake_highByte, checkTake_own]

/-! ## The fields of a frame by its values (Table 1-3) -/

variable {f : Slot}

theorem Slot.valueAt_eq (f : Slot) (n : Nat) : f.valueAt n = f.values.getD n 0 := by
  unfold Slot.valueAt Slot.values
  rw [List.getD_eq_getElem?_getD, List.getD_eq_getElem?_getD, List.getElem?_map]
  cases f.chars[n]? <;> rfl

theorem values_frameCharacters (destination source control : Byte) (payload : List Byte) (refs : Nat) (st : SlotState) :
    Slot.values ⟨frameCharacters destination source control payload, refs, st⟩ =
      (destination :: source :: control :: byteOf payload.length :: payload) ++
        [highByte (checkOf (destination :: source :: control :: byteOf payload.length :: payload)),
         lowByte (checkOf (destination :: source :: control :: byteOf payload.length :: payload))] := by
  simp [Slot.values, frameCharacters, Function.comp_def]

theorem toNat_byteOf {n : Nat} (h : n < 256) : (byteOf n).toNat = n := by
  simp [byteOf, Nat.mod_eq_of_lt h]

theorem builtFrameReadsBack : BuiltFrameReadsBack := by
  intro destination source control payload refs st short
  have values := values_frameCharacters destination source control payload refs st
  have length : Slot.payloadLength ⟨frameCharacters destination source control payload, refs, st⟩ = payload.length := by
    unfold Slot.payloadLength
    rw [Slot.valueAt_eq, values]
    exact toNat_byteOf (by omega)
  refine ⟨by simp [Slot.length, frameCharacters]; omega, ?_, ?_, ?_, ?_, length, ?_, ?_⟩
  · simp only [frameCharacters, List.cons_append, List.map_cons, List.map_map, List.map_append, Function.comp_def,
      List.map_const', List.length_nil]
    rw [show 5 + payload.length = 3 + payload.length + 2 by omega, List.replicate_add]
    simp [List.replicate_add]
  · rw [Slot.destination, Slot.valueAt_eq, values]; rfl
  · rw [Slot.source, Slot.valueAt_eq, values]; rfl
  · rw [Slot.control, Slot.valueAt_eq, values]; rfl
  · rw [Slot.payload, length, values]
    simp
  · rw [Slot.carriedCheck, Slot.computedCheck, length, Slot.valueAt_eq, Slot.valueAt_eq, values]
    have taken : ∀ l : List Byte, (destination :: source :: control :: byteOf payload.length :: payload ++ l).take
        (4 + payload.length) = destination :: source :: control :: byteOf payload.length :: payload := fun l =>
      List.take_left' (by simp; omega)
    rw [taken]
    have places : ∀ x y : Byte,
        (destination :: source :: control :: byteOf payload.length :: payload ++ [x, y]).getD (4 + payload.length) 0 = x ∧
        (destination :: source :: control :: byteOf payload.length :: payload ++ [x, y]).getD (5 + payload.length) 0 = y :=
      fun x y => by
        simp [List.getD_eq_getElem?_getD, Nat.add_comm 4, Nat.add_comm 5]
    rw [(places _ _).1, (places _ _).2, highByte_append_lowByte]

/-- Settles O7: the fields of a built frame by its values, and the check of a check. -/
theorem generatedFrameIsGood : Obligations.GeneratedFrameIsGood := ⟨builtFrameReadsBack, checkRunsToZeroThroughItself⟩

/-! ## The hop rewrite (R107) -/

theorem Slot.values_withValue (f : Slot) (n : Nat) (b : Byte) : (f.withValue n b).values = f.values.set n b := by
  unfold Slot.withValue Slot.values
  apply List.ext_getElem?
  intro k
  simp [List.getElem?_modify, List.getElem?_set]
  grind

@[simp] theorem Slot.withValue_marks (f : Slot) (n : Nat) (b : Byte) :
    (f.withValue n b).chars.map (·.mark) = f.chars.map (·.mark) := by
  unfold Slot.withValue
  apply List.ext_getElem?
  intro k
  simp [List.getElem?_modify]
  grind

/-- The fields of a frame that lie outside position `n` stay when that position is written. -/
theorem Slot.valueAt_withValue_other (f : Slot) {n k : Nat} (b : Byte) (h : k ≠ n) :
    (f.withValue n b).valueAt k = f.valueAt k := by
  rw [Slot.valueAt_eq, Slot.valueAt_eq, Slot.values_withValue]
  simp [List.getD_eq_getElem?_getD, List.getElem?_set_ne h.symm]

theorem Slot.valueAt_withValue_same (f : Slot) {n : Nat} (b : Byte) (h : n < f.length) :
    (f.withValue n b).valueAt n = b := by
  rw [Slot.valueAt_eq, Slot.values_withValue]
  simp [List.getD_eq_getElem?_getD, Slot.values, show n < f.chars.length from h]

@[simp] theorem Slot.length_withValue (f : Slot) (n : Nat) (b : Byte) : (f.withValue n b).length = f.length := by
  simp [Slot.length, Slot.withValue]

/-- A check rewritten over a complete frame is good, and every position before it stays. -/
theorem Slot.withCheck_spec (h : f.length = 6 + f.payloadLength) :
    (∀ k, k < 4 + f.payloadLength → f.withCheck.valueAt k = f.valueAt k) ∧ f.withCheck.payload = f.payload ∧
    f.withCheck.carriedCheck = f.withCheck.computedCheck ∧ f.withCheck.chars.map (·.mark) = f.chars.map (·.mark) := by
  have before : ∀ k, k < 4 + f.payloadLength → f.withCheck.valueAt k = f.valueAt k := fun k hk => by
    unfold Slot.withCheck
    rw [Slot.valueAt_withValue_other _ _ (by omega), Slot.valueAt_withValue_other _ _ (by omega)]
  have length : f.withCheck.payloadLength = f.payloadLength := by
    unfold Slot.payloadLength
    rw [before 3 (by omega)]
  have values : f.withCheck.values = (f.values.set (4 + f.payloadLength) (highByte f.computedCheck)).set
      (5 + f.payloadLength) (lowByte f.computedCheck) := by
    unfold Slot.withCheck
    rw [Slot.values_withValue, Slot.values_withValue]
  have start : f.withCheck.values.take (4 + f.payloadLength) = f.values.take (4 + f.payloadLength) := by
    rw [values, List.take_set_of_le (by omega), List.take_set_of_le (by omega)]
  refine ⟨before, ?_, ?_, ?_⟩
  · have payload : ∀ g : Slot, g.payload = (g.values.take (4 + g.payloadLength)).drop 4 := fun g => by
      rw [Slot.payload, List.drop_take]
      congr 1
      omega
    rw [payload, payload, length, start]
  · rw [Slot.carriedCheck, Slot.computedCheck, length, start]
    have high : f.withCheck.valueAt (4 + f.payloadLength) = highByte f.computedCheck := by
      unfold Slot.withCheck
      rw [Slot.valueAt_withValue_other _ _ (by omega), Slot.valueAt_withValue_same _ _ (by omega)]
    have low : f.withCheck.valueAt (5 + f.payloadLength) = lowByte f.computedCheck := by
      unfold Slot.withCheck
      rw [Slot.valueAt_withValue_same _ _ (by rw [Slot.length_withValue]; omega)]
    rw [high, low, highByte_append_lowByte]
    rfl
  · unfold Slot.withCheck
    simp

/-- Settles O8: the control character is rewritten field by field, and the check over the frame as it then stands. -/
theorem hopRewriteKeepsFrame : Obligations.HopRewriteKeepsFrame := by
  intro f _ complete _
  obtain ⟨kind, hop, tag⟩ := controlCharacterFieldsRoundTrip.1 f.kind (f.hop + 1) f.tag
  let raised := f.withValue 2 (controlOf f.kind (f.hop + 1) f.tag)
  have length : raised.payloadLength = f.payloadLength := by
    unfold Slot.payloadLength
    rw [Slot.valueAt_withValue_other _ _ (by omega)]
  obtain ⟨before, payload, check, marks⟩ := Slot.withCheck_spec (f := raised)
    (by rw [length, Slot.length_withValue]; exact complete)
  have control : f.raiseHop.control = controlOf f.kind (f.hop + 1) f.tag :=
    (before 2 (by omega)).trans (Slot.valueAt_withValue_same _ _ (by omega))
  have other : ∀ k, k < 4 → k ≠ 2 → f.raiseHop.valueAt k = f.valueAt k := fun k small ne =>
    (before k (by omega)).trans (Slot.valueAt_withValue_other _ _ ne)
  refine ⟨?_, ?_, ?_, other 0 (by omega) (by omega), other 1 (by omega) (by omega), ?_, ?_, ?_, check, rfl, rfl⟩
  · rw [Slot.hop, control, hop]
  · rw [Slot.kind, control, kind]
  · rw [Slot.tag, control, tag]
  · exact congrArg BitVec.toNat (other 3 (by omega) (by omega))
  · refine payload.trans ?_
    rw [Slot.payload, Slot.payload, length, Slot.values_withValue, List.drop_set_of_lt (by omega)]
  · exact marks.trans (Slot.withValue_marks ..)

/-! ## The judged line level (R2, R4) -/

theorem lineCommandsBringSamples : LineCommandsBringSamples := by
  intro p coming s
  have nothing : ∀ t : State, t.lineBrings p [] = t := fun t => State.lineBrings_nil t p
  constructor
  · show (s.lineBrings p coming).whenFramersRun _ = ((s.lineBrings p coming).lineBrings p []).whenFramersRun _
    rw [nothing]
  · show (s.lineBrings p coming).whenFramersRun _ = ((s.lineBrings p coming).lineBrings p []).whenFramersRun _
    rw [nothing]

theorem onlyPort_modifyPort (s : State) (p : Port) (f : LinePort → LinePort) : OnlyPort s (s.modifyPort p f) p :=
  ⟨rfl, fun _ h => State.port_modifyPort_other s f h⟩

theorem levelChangesWithMajority : LevelChangesWithMajority := by
  refine ⟨by decide, fun p s running => ?_⟩
  have run : exec (.judgedLineLevelChange p []) s = .next (judgeLevel p s) := by
    rw [(exec_line_of_running s p running []).2, State.lineBrings_nil]
  have port : (judgeLevel p s).port p =
      if judgedLevel (s.port p).framer.recent = (s.port p).framer.level then s.port p
      else (s.port p).levelChanged (judgedLevel (s.port p).framer.recent) := State.port_modifyPort_same ..
  have only : OnlyPort s (judgeLevel p s) p := onlyPort_modifyPort ..
  dsimp only
  refine ⟨fun same => ?_, fun mark space => ⟨_, run, only, ?_⟩, fun space mark => ⟨_, run, only, ?_⟩⟩
  · rw [run]
    congr 1
    rw [only.1, State.ports_ext (s := s) (t := judgeLevel p s) fun q => ?_]
    by_cases e : q = p
    · rw [e, port, if_pos same]
    · exact only.2 q e
  · rw [port, mark, space]
    rfl
  · rw [port, space, mark]
    show (s.port p).levelChanged .space = _
    unfold LinePort.levelChanged Framer.startEdge
    dsimp only
    split <;> rfl

/-- Settles O9: what is brought joins what is known to come, and the level follows the majority. -/
theorem judgedLevelFollowsMajority : Obligations.JudgedLevelFollowsMajority :=
  ⟨lineCommandsBringSamples, levelChangesWithMajority⟩

end Sys2Proof.Safety
end

section
/-! PROOFS. Receiving: what a character does when no stored frame takes it. -/

namespace Sys2Proof.Statements

open Sys2Proof.Machine Sys2Proof.Safety

variable {s t u : State} {p : Port} {c : Delivered} {i : SlotId}

/-! ## What differs at one port -/

theorem four_set_get {α : Type} (v : Four α) (p : Port) : v.set p (v.get p) = v := by
  match p with
  | 0 | 1 | 2 | 3 => rfl

theorem four_set_set {α : Type} (v : Four α) (p : Port) (x y : α) : (v.set p x).set p y = v.set p y := by
  match p with
  | 0 | 1 | 2 | 3 => rfl

theorem OnlyPort.pool (h : OnlyPort s t p) : OnlyPortAndPool s t p := ⟨by rw [h.1], h.2⟩

theorem OnlyPort.trans (h : OnlyPort s t p) (k : OnlyPort t u p) : OnlyPort s u p :=
  ⟨by rw [k.1, h.1], fun q ne => (k.2 q ne).trans (h.2 q ne)⟩

theorem OnlyPortAndPool.trans (h : OnlyPortAndPool s t p) (k : OnlyPortAndPool t u p) : OnlyPortAndPool s u p :=
  ⟨by rw [k.1, h.1], fun q ne => (k.2 q ne).trans (h.2 q ne)⟩

theorem OnlyPort.slot (h : OnlyPort s t p) (i : SlotId) : t.slot i = s.slot i :=
  State.slot_congr (by rw [h.1]) i

theorem onlyPort_modifyReceiver (s : State) (p : Port) (f : Receiver → Receiver) : OnlyPort s (s.modifyReceiver p f) p :=
  onlyPort_modifyPort ..

theorem onlyPort_countPort (s : State) (p : Port) (f : PortCounters → PortCounters) : OnlyPort s (s.countPort p f) p :=
  onlyPort_modifyPort ..

theorem onlyPort_modifyTransmitter (s : State) (p : Port) (f : Transmitter → Transmitter) :
    OnlyPort s (s.modifyTransmitter p f) p := onlyPort_modifyPort ..

theorem onlyPortAndPool_modifySlot (s : State) (p : Port) (i : SlotId) (f : Slot → Slot) :
    OnlyPortAndPool s (s.modifySlot i f) p := ⟨rfl, fun _ _ => rfl⟩

theorem onlyPortAndPool_letGo (s : State) (p : Port) (i : SlotId) : OnlyPortAndPool s (s.letGo i) p :=
  ⟨by rw [State.letGo_only], fun q _ => State.port_letGo s i q⟩

theorem onlySlot_modifySlot (s : State) (i : SlotId) (f : Slot → Slot) : OnlySlot s (s.modifySlot i f) i :=
  fun _ h => State.slot_modifySlot_other s f h

theorem OnlySlot.trans (h : OnlySlot s t i) (k : OnlySlot t u i) : OnlySlot s u i :=
  fun j ne => (k j ne).trans (h j ne)

/-- A receiver's own slot is held by nothing once the receiver has given it up. -/
theorem ReceiversAlone.released (h : ReceiversAlone s p i) (ports : ∀ q ≠ p, (t.port q).receiver = (s.port q).receiver)
    (own : (t.port p).receiver.currentSlot ≠ some i) (input : t.relay = s.relay) (queue : t.management = s.management) :
    t.heldOutside i = false := by
  obtain ⟨-, receivers, list, requests⟩ := h
  rw [← Bool.not_eq_true, State.heldOutside_iff, input, queue]
  rintro (⟨q, held⟩ | ⟨x, mem, eq⟩ | ⟨x, mem, eq⟩)
  · by_cases e : q = p
    · exact own (e ▸ held)
    · exact receivers q e (ports q e ▸ held)
  · exact list x mem eq
  · exact requests x mem eq

/-! ## The delivery of a character (R3) -/

/-- `s` with the framer of port `p` waiting for its next start edge. -/
def waiting (s : State) (p : Port) : State := s.modifyFramer p fun f => { f with assembling := false }

@[simp] theorem port_waiting (s : State) (p : Port) : (waiting s p).port p = waitingPort s p :=
  State.port_modifyFramer_same ..

theorem onlyPort_waiting (s : State) (p : Port) : OnlyPort s (waiting s p) p :=
  onlyPort_modifyPort s p fun x => { x with framer := { x.framer with assembling := false } }

@[simp] theorem slot_waiting (s : State) (p : Port) (i : SlotId) : (waiting s p).slot i = s.slot i := rfl

@[simp] theorem waitingPort_fields (s : State) (p : Port) :
    (waitingPort s p).receiver = (s.port p).receiver ∧ (waitingPort s p).transmitter = (s.port p).transmitter ∧
    (waitingPort s p).record = (s.port p).record ∧ (waitingPort s p).counters = (s.port p).counters :=
  ⟨rfl, rfl, rfl, rfl⟩

theorem charTime_waiting (s : State) (p : Port) : (waiting s p).charTime p = s.charTime p := by
  unfold State.charTime State.rate
  rw [port_waiting]
  rfl

theorem ReceiversAlone.waiting (h : ReceiversAlone s p i) : ReceiversAlone (waiting s p) p i :=
  ⟨h.1, fun q ne => by rw [(onlyPort_waiting s p).2 q ne]; exact h.2.1 q ne, h.2.2⟩

theorem Arrives.complete (a : Arrives s p c) : (s.port p).framer.complete = some c := by
  obtain ⟨-, assembling, clock, judged⟩ := a
  unfold Framer.complete
  rw [if_pos ⟨assembling, clock⟩, judged]

theorem Arrives.exec_eq (a : Arrives s p c) : exec (.characterDelivered p []) s = .next ((waiting s p).receive p c) := by
  rw [(exec_line_of_running s p a.1 []).1, State.lineBrings_nil, deliverCharacter_of_some s p a.complete]
  rfl

theorem not_gapReached_waiting (inTime : InTime s p) : ¬ (waiting s p).gapReached p := by
  unfold State.gapReached
  rw [charTime_waiting, port_waiting]
  exact Nat.not_le.mpr inTime

/-- A receiver with a frame in progress gives a character to it. -/
theorem receive_of_frameInProgress (s : State) (c : Delivered) (h : (s.port p).receiver.state.frameInProgress = true) :
    s.receive p c = s.frameCharacter p c := by
  unfold State.receive
  cases state : (s.port p).receiver.state <;> simp [state, ReceiverState.frameInProgress] at h ⊢

/-- A character in time for the frame in progress, with no framing error and no mark bit, is stored. -/
theorem receive_stores (inTime : InTime s p) (progress : (s.port p).receiver.state.frameInProgress = true)
    (mark : c.mark = false) (framing : c.framingError = false) :
    (waiting s p).receive p c =
      ((waiting s p).storeCharacter p c).afterCharacter p (s.port p).receiver.position c := by
  rw [receive_of_frameInProgress _ _ (by simpa using progress)]
  unfold State.frameCharacter
  rw [if_neg (not_gapReached_waiting inTime), mark, framing]
  simp

/-! ## Frames given up -/

/-- A frame that is shed is given up with no counter and no slot. -/
theorem abortFrame_of_shed (st : ReceiverState) (f : PortCounters → PortCounters)
    (none : (s.port p).receiver.currentSlot = none) :
    s.abortFrame p st f = s.modifyReceiver p fun r => r.withoutFrame st := by
  unfold State.abortFrame State.abandonFrame
  simp [none]

theorem abandonFrame_of_none (st : ReceiverState) (none : (s.port p).receiver.currentSlot = none) :
    s.abandonFrame p st = s.modifyReceiver p fun r => r.withoutFrame st := by
  unfold State.abandonFrame
  simp [none]

/-- A stored frame given up frees its slot, which nothing else names. -/
theorem abandonFrame_of_alone (st : ReceiverState) (slot : (s.port p).receiver.currentSlot = some i)
    (alone : ReceiversAlone s p i) :
    OnlyPortAndPool s (s.abandonFrame p st) p ∧ (s.abandonFrame p st).words = s.words ∧
    OnlySlot s (s.abandonFrame p st) i ∧ (s.abandonFrame p st).slot i = Slot.empty ∧
    (s.abandonFrame p st).port p = { s.port p with receiver := (s.port p).receiver.withoutFrame st } := by
  have eq : s.abandonFrame p st = (s.modifyReceiver p fun r => r.withoutFrame st).letGo i := by
    unfold State.abandonFrame
    simp [slot]
  have free : (s.modifyReceiver p fun r => r.withoutFrame st).heldOutside i = false :=
    alone.released (fun q ne => by rw [State.port_modifyReceiver_other _ _ ne])
      (by rw [State.port_modifyReceiver_same]; exact nofun) rfl rfl
  rw [eq]
  refine ⟨(onlyPort_modifyReceiver s p _).pool.trans (onlyPortAndPool_letGo ..), by simp, fun j ne => ?_, ?_, by simp⟩
  · exact State.slot_letGo_other _ ne
  · rw [State.slot_letGo_same, free]
    exact if_pos ⟨alone.1, by simp⟩

/-- A stored frame aborted counts the abort and frees its slot. -/
theorem abortFrame_of_alone (st : ReceiverState) (f : PortCounters → PortCounters)
    (slot : (s.port p).receiver.currentSlot = some i) (alone : ReceiversAlone s p i) :
    OnlyPortAndPool s (s.abortFrame p st f) p ∧ (s.abortFrame p st f).words = s.words ∧
    OnlySlot s (s.abortFrame p st f) i ∧ (s.abortFrame p st f).slot i = Slot.empty ∧
    (s.abortFrame p st f).port p =
      { s.port p with counters := f (s.port p).counters, receiver := (s.port p).receiver.withoutFrame st } := by
  have eq : s.abortFrame p st f = (s.countPort p f).abandonFrame p st := by
    unfold State.abortFrame
    simp [slot]
  have alone' : ReceiversAlone (s.countPort p f) p i :=
    ⟨alone.1, fun q ne => by rw [State.port_countPort_other _ _ ne]; exact alone.2.1 q ne, alone.2.2⟩
  obtain ⟨only, words, slots, free, port⟩ := abandonFrame_of_alone st (by simpa using slot) alone'
  rw [eq]
  exact ⟨(onlyPort_countPort s p f).pool.trans only, words, slots, free, by rw [port]; simp⟩

/-! ## Frames begun -/

@[simp] theorem port_modifySlot (s : State) (i : SlotId) (f : Slot → Slot) (q : Port) :
    (s.modifySlot i f).port q = s.port q := rfl

@[simp] theorem slot_modifyPort (s : State) (p : Port) (f : LinePort → LinePort) (j : SlotId) :
    (s.modifyPort p f).slot j = s.slot j := rfl

/-- A stored frame begun in slot `i`: the slot holds the mark character alone, and the receiver is in HEADER. -/
theorem beginStored_spec (s : State) (p : Port) (i : SlotId) (c : Delivered) :
    OnlyPortAndPool s (s.beginStored p i c) p ∧ (s.beginStored p i c).words = s.words ∧
    OnlySlot s (s.beginStored p i c) i ∧ (s.beginStored p i c).slot i = { s.slot i with chars := [c.character] } ∧
    (s.beginStored p i c).port p = { s.port p with receiver := { (s.port p).receiver with
      checkRegister := checkTake 0xFFFF c.value, currentSlot := some i, gap := 0, length := none,
      noiseSeen := c.noise, position := 1, shedding := false, state := .header } } := by
  unfold State.beginStored
  refine ⟨(onlyPortAndPool_modifySlot ..).trans (onlyPort_modifyReceiver ..).pool, rfl, fun j ne => ?_, ?_, ?_⟩
  · exact State.slot_modifySlot_other s (fun f => { f with chars := [c.character] }) ne
  · exact State.slot_modifySlot_same s i fun f => { f with chars := [c.character] }
  · exact State.port_modifyReceiver_same ..

theorem receive_claimsAtMark (claims : ClaimsAtMark s p) (mark : c.mark = true) (framing : c.framingError = false) :
    (waiting s p).receive p c = (waiting s p).beginFrame p c := by
  rcases claims with hunt | ⟨shed, inTime⟩
  · unfold State.receive State.huntCharacter
    simp [hunt, mark, framing]
  · rw [receive_of_frameInProgress _ _ (by simpa using shed.inProgress)]
    unfold State.frameCharacter
    rw [if_neg (not_gapReached_waiting inTime), mark, framing]
    simp [shed.noSlot]

theorem markCharacterBeginsStoredFrame : MarkCharacterBeginsStoredFrame := by
  intro p c i s arrives claims mark framing reserve free
  have free' : (waiting s p).lowestFree = some i := free
  have granted : (waiting s p).beginFrame p c =
      ((waiting s p).modifySlot i fun _ => ⟨[], 0, .filling⟩).beginStored p i c := by
    unfold State.beginFrame
    rw [State.claimForReceiver_some _ free' reserve]
  refine ⟨_, arrives.exec_eq, ?_⟩
  rw [receive_claimsAtMark claims mark framing, granted]
  obtain ⟨only, words, slots, slot, port⟩ :=
    beginStored_spec ((waiting s p).modifySlot i fun _ => ⟨[], 0, .filling⟩) p i c
  refine ⟨((onlyPort_waiting s p).pool.trans (onlyPortAndPool_modifySlot ..)).trans only, words,
    (onlySlot_modifySlot (waiting s p) i _).trans slots, ?_, ?_, ?_⟩
  · rw [slot, State.slot_modifySlot_same, Delivered.character, mark]
  · unfold State.beginStored
    rw [State.modifySlot_modifySlot]
    exact State.freeCount_take (waiting s p) (fun _ => ⟨[c.character], 0, .filling⟩) (State.lowestFree_free _ free') nofun
  · rw [port, port_modifySlot, port_waiting]
    rfl

theorem receiverShedsAtReserve : ReceiverShedsAtReserve := by
  intro p c s arrives claims mark framing reserve
  have refused : (waiting s p).beginFrame p c = (waiting s p).beginShed p := by
    unfold State.beginFrame
    rw [State.claimForReceiver_none (waiting s p) reserve]
  refine ⟨_, arrives.exec_eq, ?_⟩
  rw [receive_claimsAtMark claims mark framing, refused]
  unfold State.beginShed
  refine ⟨((onlyPort_waiting s p).trans (onlyPort_countPort ..)).trans (onlyPort_modifyReceiver ..), ?_⟩
  simp

/-! ## Characters ignored, and frames shed -/

theorem ignoredCharacters : IgnoredCharacters := by
  intro p c s arrives
  refine ⟨fun hunt stray => ⟨_, arrives.exec_eq, ?_⟩, fun off => ⟨_, arrives.exec_eq, ?_⟩⟩
  · have counted : (waiting s p).receive p c =
        (waiting s p).countPort p fun k => { k with stray := stoppingSucc k.stray } := by
      unfold State.receive State.huntCharacter
      rcases stray with mark | framing
      · simp [hunt, mark]
      · simp [hunt, framing]
    rw [counted]
    exact ⟨(onlyPort_waiting s p).trans (onlyPort_countPort ..), by simp⟩
  · have ignored : (waiting s p).receive p c = waiting s p := by
      unfold State.receive
      rcases off with off | resync
      · simp [off]
      · simp [resync]
    rw [ignored]
    exact ⟨onlyPort_waiting s p, port_waiting s p⟩

/-- A character of a shed frame moves the position on and restarts the gap interval. -/
theorem storeCharacter_of_shed (none : (s.port p).receiver.currentSlot = none) :
    s.storeCharacter p c = s.modifyReceiver p fun r => { r with gap := 0, position := r.position + 1 } := by
  unfold State.storeCharacter
  rw [none]
  refine congrArg (fun x => ({ s with ports := s.ports.set p x } : State)) ?_
  have none' : (s.ports.get p).receiver.currentSlot = .none := none
  simp [none']

theorem shedFrameStoresNothing : ShedFrameStoresNothing := by
  intro p c s arrives shed inTime mark framing
  dsimp only
  have stored : exec (.characterDelivered p []) s = .next
      (((waiting s p).modifyReceiver p fun r => { r with gap := 0, position := r.position + 1 }).afterCharacter p
        (s.port p).receiver.position c) := by
    rw [arrives.exec_eq, receive_stores inTime shed.inProgress mark framing, storeCharacter_of_shed (by simpa using shed.noSlot)]
  have port : ((waiting s p).modifyReceiver p fun r => { r with gap := 0, position := r.position + 1 }).port p =
      { waitingPort s p with
        receiver := { (s.port p).receiver with gap := 0, position := (s.port p).receiver.position + 1 } } := by simp
  have only : OnlyPort s ((waiting s p).modifyReceiver p fun r => { r with gap := 0, position := r.position + 1 }) p :=
    (onlyPort_waiting s p).trans (onlyPort_modifyReceiver ..)
  generalize ((waiting s p).modifyReceiver p fun r => { r with gap := 0, position := r.position + 1 }) = w at *
  have slot : (w.port p).receiver.currentSlot = none := by rw [port]; exact shed.noSlot
  have goesOn : ∀ (f : Receiver → Receiver) {st : ReceiverState} {length : Option Nat},
      w.afterCharacter p (s.port p).receiver.position c = w.modifyReceiver p f →
      f { (s.port p).receiver with gap := 0, position := (s.port p).receiver.position + 1 } =
        { (s.port p).receiver with gap := 0, length := length, position := (s.port p).receiver.position + 1, state := st } →
      ∃ t, exec (.characterDelivered p []) s = .next t ∧ OnlyPort s t p ∧ t.port p = { waitingPort s p with
        receiver := { (s.port p).receiver with
          gap := 0, length := length, position := (s.port p).receiver.position + 1, state := st } } := by
    intro f st length after eq
    rw [stored, after]
    refine ⟨_, rfl, only.trans (onlyPort_modifyReceiver ..), ?_⟩
    rw [State.port_modifyReceiver_same, port]
    simp only [eq]
  have ends : ∀ {st : ReceiverState},
      w.afterCharacter p (s.port p).receiver.position c = w.modifyReceiver p (fun r => r.withoutFrame st) →
      ∃ t, exec (.characterDelivered p []) s = .next t ∧ OnlyPort s t p ∧ (t.port p).receiver.state = st ∧
        (t.port p).receiver.shedding = false ∧ (t.port p).receiver.currentSlot = none ∧
        (t.port p).counters = (s.port p).counters ∧ (t.port p).transmitter = (s.port p).transmitter ∧
        (t.port p).record = (s.port p).record ∧ (st = .resync → (t.port p).receiver.markInterval = 0) := by
    intro st after
    rw [stored, after]
    refine ⟨_, rfl, only.trans (onlyPort_modifyReceiver ..), ?_⟩
    rw [State.port_modifyReceiver_same, port]
    exact ⟨rfl, rfl, rfl, rfl, rfl, rfl, fun _ => rfl⟩
  have same : w = w.modifyReceiver p id := by
    exact congrArg (fun x => ({ w with ports := x } : State)) (four_set_get ..).symm
  refine ⟨fun header early => goesOn id ?_ ?_, fun header at3 fits => goesOn (fun r => { r with
      length := some c.value.toNat, state := if c.value.toNat = 0 then .check else .body }) ?_ rfl,
    fun header at3 long => ends ?_, fun l length => ⟨fun body => ?_, fun check atFirst => goesOn id ?_ ?_,
      fun check atSecond => ends ?_⟩⟩
  · rw [← same]
    unfold State.afterCharacter
    simp [port, header, early]
  · simp [header]
  · unfold State.afterCharacter
    simp [port, header, at3, Config.maxPayload, Nat.not_lt.mpr fits]
  · unfold State.afterCharacter
    simp [port, header, at3, Config.maxPayload, long, abortFrame_of_shed _ _ slot]
  · by_cases inside : (s.port p).receiver.position < 3 + l
    · rw [if_pos inside]
      refine goesOn id ?_ (by simp [body, length])
      rw [← same]
      unfold State.afterCharacter
      simp [port, body, length, inside]
    · rw [if_neg inside]
      refine goesOn (fun r => { r with state := .check }) ?_ (by simp [length])
      unfold State.afterCharacter
      simp [port, body, length, inside]
  · rw [← same]
    unfold State.afterCharacter
    simp [port, check, length, atFirst]
    omega
  · simp [check, length]
  · unfold State.afterCharacter State.endFrame
    simp [port, check, length, atSecond, abandonFrame_of_none _ slot, shed.noSlot]
    omega

theorem shedFrameAborts : ShedFrameAborts := by
  intro p s shed
  dsimp only
  have aborted : ∀ (u : State) (f : PortCounters → PortCounters) (st : ReceiverState), OnlyPort s u p →
      (u.port p).receiver = (s.port p).receiver → (u.port p).counters = (s.port p).counters →
      (u.port p).transmitter = (s.port p).transmitter → (u.port p).record = (s.port p).record →
      (OnlyPort s (u.abortFrame p st f) p ∧ ((u.abortFrame p st f).port p).receiver.state = st ∧
        ((u.abortFrame p st f).port p).receiver.currentSlot = none ∧
        ((u.abortFrame p st f).port p).receiver.shedding = false ∧
        ((u.abortFrame p st f).port p).counters = (s.port p).counters ∧
        ((u.abortFrame p st f).port p).transmitter = (s.port p).transmitter ∧
        ((u.abortFrame p st f).port p).record = (s.port p).record) ∧
      ((u.abortFrame p st f).port p).receiver.markInterval = 0 := by
    intro u f st only receiver counters transmitter record
    rw [abortFrame_of_shed st f (by rw [receiver]; exact shed.noSlot), State.port_modifyReceiver_same]
    exact ⟨⟨only.trans (onlyPort_modifyReceiver ..), rfl, rfl, rfl, counters, transmitter, record⟩, rfl⟩
  refine ⟨fun c arrives inTime framing => ?_, fun service late => ?_⟩
  · refine ⟨_, arrives.exec_eq, ?_⟩
    rw [receive_of_frameInProgress _ _ (by simpa using shed.inProgress)]
    unfold State.frameCharacter
    rw [if_neg (not_gapReached_waiting inTime), framing]
    exact aborted (waiting s p) _ .resync (onlyPort_waiting s p) (by simp) (by simp) (by simp) (by simp)
  · refine ⟨_, State.whenInService_inService _ service, ?_⟩
    unfold abortByGap
    rw [if_pos ⟨shed.inProgress, Nat.not_lt.mp late⟩]
    exact (aborted s _ .hunt ⟨rfl, fun _ _ => rfl⟩ rfl rfl rfl rfl).1

/-! ## Characters too late (R46, log entry 27) -/

theorem modifyPort_comm (s : State) (p : Port) (f g : LinePort → LinePort) (h : ∀ x, f (g x) = g (f x)) :
    (s.modifyPort p f).modifyPort p g = (s.modifyPort p g).modifyPort p f := by
  unfold State.modifyPort
  simp [four_set_set, h]

/-- The end of a frame and the framer's wait for a start edge do not meet. -/
theorem waiting_abandonFrame (s : State) (p : Port) (st : ReceiverState) :
    waiting (s.abandonFrame p st) p = (waiting s p).abandonFrame p st := by
  have receiver : waiting (s.modifyReceiver p fun r => r.withoutFrame st) p =
      (waiting s p).modifyReceiver p fun r => r.withoutFrame st :=
    modifyPort_comm s p (fun x => { x with receiver := x.receiver.withoutFrame st })
      (fun x => { x with framer := { x.framer with assembling := false } }) fun _ => rfl
  have letGo : ∀ (u : State) (i : SlotId), waiting (u.letGo i) p = (waiting u p).letGo i := by
    intro u i
    have held : (waiting u p).heldOutside i = u.heldOutside i := by
      rw [Bool.eq_iff_iff, State.heldOutside_iff, State.heldOutside_iff]
      have current : ∀ q, ((waiting u p).port q).receiver = (u.port q).receiver := fun q => by
        by_cases e : q = p
        · rw [e, port_waiting]; rfl
        · rw [(onlyPort_waiting u p).2 q e]
      simp only [current]
      exact .rfl
    unfold State.letGo
    rw [held, slot_waiting]
    split <;> rfl
  unfold State.abandonFrame
  rw [port_waiting]
  simp only [waitingPort_fields]
  cases (s.port p).receiver.currentSlot with
  | none => exact receiver
  | some i => exact (letGo _ i).trans (congrArg (State.letGo · i) receiver)

theorem waiting_abortAtGap (s : State) (p : Port) : waiting (s.abortAtGap p) p = (waiting s p).abortAtGap p := by
  unfold State.abortAtGap State.abortFrame
  rw [port_waiting]
  simp only [waitingPort_fields]
  split
  · rw [waiting_abandonFrame]
    exact congrArg (State.abandonFrame · p .hunt) (modifyPort_comm s p
      (fun x => { x with counters := { x.counters with abortGap := stoppingSucc x.counters.abortGap } })
      (fun x => { x with framer := { x.framer with assembling := false } }) fun _ => rfl)
  · exact waiting_abandonFrame ..

theorem abandonFrame_port (s : State) (p : Port) (st : ReceiverState) :
    (s.abandonFrame p st).port p = { s.port p with receiver := (s.port p).receiver.withoutFrame st } := by
  unfold State.abandonFrame
  cases (s.port p).receiver.currentSlot <;> simp

theorem abortAtGap_port (s : State) (p : Port) :
    ((s.abortAtGap p).port p).receiver.state = .hunt ∧ ((s.abortAtGap p).port p).framer = (s.port p).framer := by
  unfold State.abortAtGap State.abortFrame
  split <;> (rw [abandonFrame_port]; simp [Receiver.withoutFrame])

theorem lateCharacterFollowsGapAbort : LateCharacterFollowsGapAbort := by
  intro p c s arrives service progress late
  have reached : s.gapReached p := Nat.not_lt.mp late
  obtain ⟨hunt, framer⟩ := abortAtGap_port s p
  have abort : exec (.abortGap p) s = .next (s.abortAtGap p) := by
    rw [show exec (.abortGap p) s = .next (abortByGap p s) from State.whenInService_inService _ service]
    unfold abortByGap
    rw [if_pos ⟨progress, reached⟩]
  have arrives' : Arrives (s.abortAtGap p) p c := by
    have phase : (s.abortAtGap p).phase = s.phase := by
      unfold State.abortAtGap
      rw [abortFrame_only]
    exact ⟨by rw [phase, service]; exact nofun, by rw [framer]; exact arrives.2⟩
  refine ⟨_, _, abort, hunt, arrives'.exec_eq, ?_⟩
  rw [arrives.exec_eq, waiting_abortAtGap, receive_of_frameInProgress _ _ (by simpa using progress)]
  have reached' : (waiting s p).gapReached p := by
    unfold State.gapReached
    rw [charTime_waiting, port_waiting]
    exact reached
  have hunt' : (((waiting s p).abortAtGap p).port p).receiver.state = .hunt := (abortAtGap_port _ p).1
  unfold State.frameCharacter State.receive
  rw [if_pos reached', hunt']

theorem nothingDeliveredBeforeStopBit : NothingDeliveredBeforeStopBit := by
  intro p s h
  by_cases reset : s.phase = .inReset
  · show (s.lineBrings p []).whenFramersRun (deliverCharacter p) = _
    rw [State.lineBrings_nil, State.whenFramersRun, if_pos reset]
  · rw [(exec_line_of_running s p reset []).1, State.lineBrings_nil, deliverCharacter_of_none]
    rcases h with waits | early | inReset
    · exact Framer.complete_of_waiting _ waits
    · exact Framer.complete_of_early _ early
    · exact absurd inReset reset

/-- Settles O10: what each receiver state does with a character that no stored frame takes. -/
theorem charactersOutsideStoredFrames : Obligations.CharactersOutsideStoredFrames :=
  ⟨markCharacterBeginsStoredFrame, receiverShedsAtReserve, shedFrameStoresNothing, shedFrameAborts,
    lateCharacterFollowsGapAbort, ignoredCharacters, nothingDeliveredBeforeStopBit⟩

end Sys2Proof.Statements
end

section
/-! PROOFS. Receiving: the characters of a stored frame, its end, and the timed events of a receiver. -/

namespace Sys2Proof.Statements

open Sys2Proof.Machine Sys2Proof.Safety

variable {s t u : State} {p : Port} {c : Delivered} {i : SlotId}

@[simp] theorem port_modifyWords (s : State) (f : Words → Words) (q : Port) : (s.modifyWords f).port q = s.port q := rfl

/-! ## A character stored (R44) -/

/-- What a stored frame takes of a character: it stands at the end of the slot, runs through the check register ahead of the
check, and the gap interval restarts. -/
theorem storeCharacter_of_stored (s : State) (p : Port) (c : Delivered) (slot : (s.port p).receiver.currentSlot = some i) :
    OnlyPortAndPool s (s.storeCharacter p c) p ∧ (s.storeCharacter p c).words = s.words ∧
    OnlySlot s (s.storeCharacter p c) i ∧
    (s.storeCharacter p c).slot i = { s.slot i with chars := (s.slot i).chars ++ [c.character] } ∧
    (s.storeCharacter p c).port p = { s.port p with receiver := { (s.port p).receiver with
      checkRegister := if (s.port p).receiver.state ≠ .check then checkTake (s.port p).receiver.checkRegister c.value
        else (s.port p).receiver.checkRegister
      gap := 0, noiseSeen := (s.port p).receiver.noiseSeen || c.noise
      position := (s.port p).receiver.position + 1 } } := by
  unfold State.storeCharacter
  rw [slot]
  refine ⟨(onlyPortAndPool_modifySlot ..).trans (onlyPort_modifyReceiver ..).pool, rfl, fun j ne => ?_, ?_, ?_⟩
  · exact State.slot_modifySlot_other s (fun f => { f with chars := f.chars ++ [c.character] }) ne
  · exact State.slot_modifySlot_same s i fun f => { f with chars := f.chars ++ [c.character] }
  · rw [State.port_modifyReceiver_same, port_modifySlot]
    simp [slot]

/-- What the delivery of a stored frame's character comes to, up to what follows it: the state `w` with the character written,
and the rest of the event. -/
structure Stored (s w : State) (p : Port) (i : SlotId) (c : Delivered) : Prop where
  rest : exec (.characterDelivered p []) s = .next (w.afterCharacter p (s.port p).receiver.position c)
  only : OnlyPortAndPool s w p
  words : w.words = s.words
  slots : OnlySlot s w i
  slot : w.slot i = { s.slot i with chars := (s.slot i).chars ++ [⟨c.value, false⟩] }
  port : w.port p = { waitingPort s p with receiver := { (s.port p).receiver with
    checkRegister := if (s.port p).receiver.state ≠ .check then checkTake (s.port p).receiver.checkRegister c.value
      else (s.port p).receiver.checkRegister
    gap := 0, noiseSeen := (s.port p).receiver.noiseSeen || c.noise
    position := (s.port p).receiver.position + 1 } }

theorem stored_of_arrives (arrives : Arrives s p c) (inTime : InTime s p)
    (progress : (s.port p).receiver.state.frameInProgress = true) (slot : (s.port p).receiver.currentSlot = some i)
    (mark : c.mark = false) (framing : c.framingError = false) : ∃ w, Stored s w p i c := by
  obtain ⟨only, words, slots, written, port⟩ :=
    storeCharacter_of_stored (i := i) (waiting s p) p c (by simpa using slot)
  refine ⟨_, by rw [arrives.exec_eq, receive_stores inTime progress mark framing], (onlyPort_waiting s p).pool.trans only,
    words, slots, ?_, ?_⟩
  · rw [written, Delivered.character, mark]
    rfl
  · rw [port, port_waiting]
    rfl

theorem Stored.alone {w : State} (h : Stored s w p i c) (alone : ReceiversAlone s p i) : ReceiversAlone w p i := by
  obtain ⟨refs, receivers, lists⟩ := alone
  refine ⟨by rw [h.slot]; exact refs, fun q ne => by rw [h.only.2 q ne]; exact receivers q ne, ?_⟩
  rw [h.only.1]
  exact lists

theorem Stored.current {w : State} (h : Stored s w p i c) (slot : (s.port p).receiver.currentSlot = some i) :
    (w.port p).receiver.currentSlot = some i := by rw [h.port]; exact slot

/-- The stored frame goes on in the state to which `f` changes the receiver. -/
theorem Stored.goesOn {w : State} (h : Stored s w p i c) (f : Receiver → Receiver) {r : Receiver}
    (after : w.afterCharacter p (s.port p).receiver.position c = w.modifyReceiver p f) (eq : f (w.port p).receiver = r) :
    ∃ t, exec (.characterDelivered p []) s = .next t ∧ OnlyPortAndPool s t p ∧ t.words = s.words ∧ OnlySlot s t i ∧
      t.slot i = { s.slot i with chars := (s.slot i).chars ++ [⟨c.value, false⟩] } ∧
      t.port p = { waitingPort s p with receiver := r } := by
  refine ⟨_, h.rest, ?_⟩
  rw [after]
  refine ⟨h.only.trans (onlyPort_modifyReceiver ..).pool, h.words, h.slots, h.slot, ?_⟩
  rw [State.port_modifyReceiver_same, eq, h.port]

theorem modifyReceiver_id (s : State) (p : Port) : s.modifyReceiver p id = s :=
  congrArg (fun x => ({ s with ports := x } : State)) (four_set_get ..)

/-- The stored frame goes on in the state it has. -/
theorem Stored.stays {w : State} (h : Stored s w p i c) {r : Receiver}
    (after : w.afterCharacter p (s.port p).receiver.position c = w) (eq : (w.port p).receiver = r) :
    ∃ t, exec (.characterDelivered p []) s = .next t ∧ OnlyPortAndPool s t p ∧ t.words = s.words ∧ OnlySlot s t i ∧
      t.slot i = { s.slot i with chars := (s.slot i).chars ++ [⟨c.value, false⟩] } ∧
      t.port p = { waitingPort s p with receiver := r } :=
  h.goesOn id (after.trans (modifyReceiver_id w p).symm) eq

theorem storedFrameTakesHeaderCharacter : StoredFrameTakesHeaderCharacter := by
  intro p c i s arrives inTime header slot mark framing
  obtain ⟨w, h⟩ := stored_of_arrives arrives inTime (by rw [header]; rfl) slot mark framing
  have state : (w.port p).receiver.state = .header := by rw [h.port]; exact header
  refine ⟨fun early => h.stays ?_ ?_, fun at3 fits => h.goesOn (fun r => { r with
    length := some c.value.toNat, state := if c.value.toNat = 0 then .check else .body }) ?_ ?_, fun at3 long alone => ?_⟩
  · unfold State.afterCharacter
    simp [state, early]
  · rw [h.port]
    simp [header]
  · unfold State.afterCharacter
    simp [state, at3, Config.maxPayload, Nat.not_lt.mpr fits]
  · rw [h.port]
    simp [header, at3]
  · obtain ⟨only, words, slots, free, port⟩ := abortFrame_of_alone .resync
      (fun k => { k with abortLength := stoppingSucc k.abortLength }) (h.current slot) (h.alone alone)
    have after : w.afterCharacter p (s.port p).receiver.position c =
        w.abortFrame p .resync fun k => { k with abortLength := stoppingSucc k.abortLength } := by
      unfold State.afterCharacter
      simp [state, at3, Config.maxPayload, long]
    refine ⟨_, h.rest, ?_⟩
    rw [after]
    refine ⟨h.only.trans only, words.trans h.words, h.slots.trans slots, free, ?_⟩
    rw [port, h.port]
    exact ⟨rfl, rfl, rfl, rfl, rfl⟩

theorem storedFrameTakesBodyAndCheck : StoredFrameTakesBodyAndCheck := by
  intro p c i l s arrives inTime slot length mark framing
  dsimp only
  refine ⟨fun body => ?_, fun check at4 => ?_⟩
  · obtain ⟨w, h⟩ := stored_of_arrives arrives inTime (by rw [body]; rfl) slot mark framing
    have state : (w.port p).receiver.state = .body := by rw [h.port]; exact body
    have long : (w.port p).receiver.length = some l := by rw [h.port]; exact length
    by_cases inside : (s.port p).receiver.position < 3 + l
    · refine h.stays ?_ ?_
      · unfold State.afterCharacter
        simp [state, long, inside]
      · rw [h.port]
        simp [body, inside]
    · refine h.goesOn (fun r => { r with state := .check }) ?_ ?_
      · unfold State.afterCharacter
        simp [state, long, inside]
      · rw [h.port]
        simp [body, inside]
  · obtain ⟨w, h⟩ := stored_of_arrives arrives inTime (by rw [check]; rfl) slot mark framing
    have state : (w.port p).receiver.state = .check := by rw [h.port]; exact check
    have long : (w.port p).receiver.length = some l := by rw [h.port]; exact length
    refine h.stays ?_ ?_
    · unfold State.afterCharacter
      simp [state, long, at4]
      omega
    · rw [h.port]
      simp [check]

/-- Settles O11: each character is stored, and the receiver's state moves with its position. -/
theorem storedFrameTakesCharacters : Obligations.StoredFrameTakesCharacters :=
  ⟨storedFrameTakesHeaderCharacter, storedFrameTakesBodyAndCheck⟩

/-! ## The end of a stored frame (R50, R51) -/

theorem port_completeFrame (s : State) (p : Port) (i : SlotId) (q : Port) :
    (s.completeFrame p i).port q = ((s.countPort p fun k => { k with
      goodFrames := stoppingSucc k.goodFrames
      noisyAccepted := if (s.port p).receiver.noiseSeen then stoppingSucc k.noisyAccepted else k.noisyAccepted }).modifyReceiver
        p fun r => r.withoutFrame .hunt).port q := rfl

/-- Settles O12: the check carried by the frame as it then stands is compared with the register. -/
theorem secondCheckCharacterJudgesFrame : Obligations.SecondCheckCharacterJudgesFrame := by
  intro p c i l s arrives inTime check slot length at5 mark framing alone
  dsimp only
  obtain ⟨w, h⟩ := stored_of_arrives arrives inTime (by rw [check]; rfl) slot mark framing
  have state : (w.port p).receiver.state = .check := by rw [h.port]; exact check
  have long : (w.port p).receiver.length = some l := by rw [h.port]; exact length
  have register : (w.port p).receiver.checkRegister = (s.port p).receiver.checkRegister := by
    rw [h.port]
    simp [check]
  have noise : (w.port p).receiver.noiseSeen = ((s.port p).receiver.noiseSeen || c.noise) := by rw [h.port]
  have ends : w.afterCharacter p (s.port p).receiver.position c = w.endFrame p := by
    unfold State.afterCharacter
    simp [state, long, at5]
    omega
  refine ⟨_, h.rest, ?_⟩
  rw [ends]
  by_cases good : (w.slot i).carriedCheck = (s.port p).receiver.checkRegister
  · have completes : w.endFrame p = w.completeFrame p i := by
      unfold State.endFrame
      simp [h.current slot, register, good]
    have port : (w.completeFrame p i).port p = { w.port p with
        receiver := (w.port p).receiver.withoutFrame .hunt
        counters := { (w.port p).counters with
          goodFrames := stoppingSucc (w.port p).counters.goodFrames
          noisyAccepted := if (w.port p).receiver.noiseSeen then stoppingSucc (w.port p).counters.noisyAccepted
            else (w.port p).counters.noisyAccepted } } := by
      rw [port_completeFrame, State.port_modifyReceiver_same, State.port_countPort_same]
    have other : ∀ q ≠ p, (w.completeFrame p i).port q = w.port q := fun q ne => by
      rw [port_completeFrame, State.port_modifyReceiver_other _ _ ne, State.port_countPort_other _ _ ne]
    have slots : OnlySlot w (w.completeFrame p i) i := fun j ne => State.slot_modifySlot_other w (fun f => { f with state := .inUse }) ne
    have done : (w.completeFrame p i).slot i = { w.slot i with state := .inUse } :=
      State.slot_modifySlot_same w i fun f => { f with state := .inUse }
    rw [completes]
    refine ⟨h.words, h.slots.trans slots, fun q ne => (other q ne).trans (h.only.2 q ne), ?_⟩
    rw [port, done, h.port, h.slot]
    refine ⟨rfl, rfl, rfl, rfl, fun _ => ⟨rfl, ?_, rfl⟩, fun bad => absurd (h.slot ▸ good) bad⟩
    show ({ w with
      ports := (w.completeFrame p i).ports, slots := (w.completeFrame p i).slots
      relay := { w.relay with input := w.relay.input ++ [⟨i, p⟩] } } : State) = _
    rw [h.only.1, h.words]
  · have fails : w.endFrame p =
        (w.countPort p fun k => { k with checkErrors := stoppingSucc k.checkErrors }).abandonFrame p .hunt := by
      unfold State.endFrame
      simp [h.current slot, register, good]
    have alone' := h.alone alone
    obtain ⟨only, words, slots, free, port⟩ := abandonFrame_of_alone (i := i)
      (s := w.countPort p fun k => { k with checkErrors := stoppingSucc k.checkErrors }) (p := p) .hunt
      (by simpa using h.current slot)
      ⟨alone'.1, fun q ne => by rw [State.port_countPort_other _ _ ne]; exact alone'.2.1 q ne, alone'.2.2⟩
    have all := (h.only.trans (onlyPort_countPort w p fun k => { k with checkErrors := stoppingSucc k.checkErrors }).pool).trans
      only
    rw [fails]
    have same := words.trans (show _ = s.words from h.words)
    refine ⟨same, h.slots.trans slots, all.2, ?_⟩
    have whole := all.1
    rw [same] at whole
    rw [port, free, State.port_countPort_same, h.port]
    exact ⟨rfl, rfl, rfl, rfl, fun k => absurd (h.slot ▸ k) good, fun _ => ⟨rfl, whole, rfl⟩⟩

/-! ## Aborts of a stored frame (R47, R48) -/

/-- Settles O13: the framing test comes first, then the mark test. -/
theorem framingAndMarkAbortStoredFrame : Obligations.FramingAndMarkAbortStoredFrame := by
  intro p c i s arrives inTime progress slot alone
  dsimp only
  have frame : (waiting s p).receive p c = (waiting s p).frameCharacter p c :=
    receive_of_frameInProgress _ _ (by simpa using progress)
  have current : ((waiting s p).port p).receiver.currentSlot = some i := by simpa using slot
  refine ⟨fun framing => ⟨_, arrives.exec_eq, ?_⟩, fun framing mark => ⟨_, arrives.exec_eq, ?_⟩⟩
  · have aborts : (waiting s p).receive p c =
        (waiting s p).abortFrame p .resync fun k => { k with abortFraming := stoppingSucc k.abortFraming } := by
      rw [frame]
      unfold State.frameCharacter
      rw [if_neg (not_gapReached_waiting inTime), if_pos framing]
    obtain ⟨only, words, slots, free, port⟩ := abortFrame_of_alone .resync
      (fun k => { k with abortFraming := stoppingSucc k.abortFraming }) current alone.waiting
    rw [aborts]
    refine ⟨(onlyPort_waiting s p).pool.trans only, words, slots, free, ?_⟩
    rw [port, port_waiting]
    exact ⟨rfl, rfl, rfl, rfl, rfl⟩
  · have begins : (waiting s p).receive p c =
        ((waiting s p).countPort p fun k => { k with abortMark := stoppingSucc k.abortMark }).beginStored p i c := by
      rw [frame]
      unfold State.frameCharacter
      rw [if_neg (not_gapReached_waiting inTime), framing, mark, current]
      rfl
    obtain ⟨only, words, slots, begun, port⟩ := beginStored_spec
      ((waiting s p).countPort p fun k => { k with abortMark := stoppingSucc k.abortMark }) p i c
    rw [begins]
    refine ⟨((onlyPort_waiting s p).pool.trans (onlyPort_countPort ..).pool).trans only, words, slots, ?_, ?_⟩
    · rw [begun, Delivered.character, mark]
      rfl
    · rw [port, State.port_countPort_same, port_waiting, ← slot]
      rfl

/-! ## Timed events (R46, R49, R55) -/

theorem exec_receiverTimers (p : Port) (service : s.phase = .inService) :
    exec (.abortGap p) s = .next (abortByGap p s) ∧ exec (.endOfResync p) s = .next (leaveResync p s) ∧
    exec (.lineStuck p) s = .next (raiseStuck p s) :=
  ⟨State.whenInService_inService _ service, State.whenInService_inService _ service,
    State.whenInService_inService _ service⟩

/-- Settles O14: each timed event by the test of its own interval. -/
theorem receiverTimedEvents : Obligations.ReceiverTimedEvents := by
  intro p s service
  dsimp only
  obtain ⟨gap, resync, stuck⟩ := exec_receiverTimers p service
  rw [gap, resync, stuck]
  refine ⟨fun i progress slot alone reached => ⟨_, rfl, ?_⟩, fun inResync reached => ⟨_, rfl, ?_⟩,
    fun on reached unraised => ⟨_, rfl, ?_⟩, fun no => ?_, fun no => ?_, fun no => ?_⟩
  · have aborts : abortByGap p s = s.abortAtGap p := if_pos ⟨progress, reached⟩
    obtain ⟨only, words, slots, free, port⟩ := abortFrame_of_alone .hunt
      (fun k => { k with abortGap := stoppingSucc k.abortGap }) slot alone
    rw [aborts]
    refine ⟨only, words, slots, free, ?_⟩
    show ((s.abortFrame p .hunt _).port p).receiver.state = _ ∧ _
    unfold State.abortAtGap
    rw [port]
    exact ⟨rfl, rfl, rfl, rfl⟩
  · have leaves : leaveResync p s = s.modifyReceiver p fun r => r.withoutFrame .hunt := if_pos ⟨inResync, reached⟩
    rw [leaves]
    refine ⟨onlyPort_modifyReceiver .., ?_⟩
    rw [State.port_modifyReceiver_same]
    exact ⟨rfl, rfl, rfl⟩
  · have raises : raiseStuck p s =
        ((s.countPort p fun k => { k with stuckEvents := stoppingSucc k.stuckEvents }).modifyReceiver p fun r =>
          { r with stuckRaised := true }).modifyWords fun w => { w with stuckLine := w.stuckLine ++ [p] } :=
      if_pos ⟨on, reached, unraised⟩
    rw [raises]
    refine ⟨fun q ne => ?_, rfl, ?_⟩
    · rw [port_modifyWords, State.port_modifyReceiver_other _ _ ne, State.port_countPort_other _ _ ne]
    · rw [port_modifyWords, State.port_modifyReceiver_same, State.port_countPort_same]
  · congr 1
    refine if_neg fun ⟨progress, reached⟩ => ?_
    rcases no with idle | early
    · rw [idle] at progress; exact absurd progress nofun
    · exact absurd reached (Nat.not_le.mpr early)
  · congr 1
    refine if_neg fun ⟨inResync, reached⟩ => ?_
    rcases no with out | early
    · exact out inResync
    · exact absurd reached (Nat.not_le.mpr early)
  · congr 1
    refine if_neg fun ⟨on, reached, unraised⟩ => ?_
    rcases no with off | early | raised
    · exact on off
    · exact absurd reached (Nat.not_le.mpr early)
    · rw [raised] at unraised; exact absurd unraised nofun

end Sys2Proof.Statements
end

section
/-! PROOFS. Departures, sending, collisions, jam and backoff. -/

namespace Sys2Proof.Statements

open Sys2Proof.Machine Sys2Proof.Safety

variable {s t u : State} {p : Port} {c : Delivered} {i : SlotId} {e : QueueEntry} {m : Manner} {rest : List QueueEntry}

/-! ## Departures (R34) -/

theorem concernsTracker_iff (m : Manner) : m.concernsTracker = true ↔ m = .completed ∨ m = .discarded ∨ m = .displaced := by
  cases m <;> simp [Manner.concernsTracker]

theorem endsGenerated_iff (m : Manner) : m.endsGenerated = false ↔ m = .displaced ∨ m = .withdrawn := by
  cases m <;> simp [Manner.endsGenerated]

theorem exchangeNames_iff (s : State) (i : SlotId) : s.exchangeNames i = true ↔ ∃ x ∈ s.exchanges, x.slot = i := by
  simp [State.exchangeNames]

theorem noticeCopyIn_eq (s : State) (i : SlotId) :
    s.noticeCopyIn i =
      s.notices.inFlight.any fun f => f.slot == i && decide (s.words.noticeCopies.length < f.copies) := by
  unfold State.noticeCopyIn
  cases s.notices.inFlight <;> rfl

theorem announce_words (s : State) (p : Port) (e : QueueEntry) (m : Manner) :
    (s.announce p e m).words = announcedWords s p m e := by
  unfold State.announce announcedWords
  cases e.origin with
  | relayed =>
    simp only [Bool.and_eq_true, concernsTracker_iff, exchangeNames_iff]
    split <;> rfl
  | generated =>
    simp only [← endsGenerated_iff, ← noticeCopyIn_eq]
    cases m.endsGenerated with
    | false => rfl
    | true =>
      simp only [Bool.true_and, Bool.true_eq_false, if_false, State.watchedReplyIn, decide_eq_true_eq]
      split
      · rfl
      split <;> rfl

/-- What an announcement comes to depends on the records of the blocks that wait on frames alone. -/
theorem announcedWords_congr (words : t.words = s.words) (exchanges : t.exchanges = s.exchanges)
    (notices : t.notices = s.notices) (management : t.management = s.management) :
    announcedWords t p m e = announcedWords s p m e := by
  unfold announcedWords
  rw [words, exchanges, notices, management]

theorem depart_words (s : State) (p : Port) (m : Manner) (e : QueueEntry) :
    (s.depart p m e).words = announcedWords s p m e :=
  (announce_words ..).trans (announcedWords_congr (by simp) (by simp) (by simp) (by simp))

theorem departuresAreAnnounced : DeparturesAreAnnounced := by
  intro p m e s
  dsimp only
  refine ⟨?_, fun j ne => ?_, fun more => ?_, fun one free => ?_⟩
  · rw [← depart_words]
    exact State.depart_only ..
  · rw [State.slot_depart, State.slot_releaseRef_other _ ne]
  · rw [State.slot_depart, State.slot_releaseRef_same, if_neg (by omega)]
  · rw [State.slot_depart, State.slot_releaseRef_same, one, free]
    simp

/-- A slot that nothing holds outside the count is not held when receivers have only given slots up. -/
theorem heldOutside_of_given_up (held : s.heldOutside i = false)
    (receivers : ∀ q, (t.port q).receiver.currentSlot = some i → (s.port q).receiver.currentSlot = some i)
    (input : t.relay.input = s.relay.input) (queue : t.management.queue = s.management.queue) :
    t.heldOutside i = false := by
  rw [← Bool.not_eq_true, State.heldOutside_iff] at held ⊢
  rw [input, queue]
  exact fun h => held (h.imp_left fun ⟨q, k⟩ => ⟨q, receivers q k⟩)

/-- An entry leaves the queue of port `p` of `s`, port `p` otherwise changed by `f`: the relay is `s` but for the port, the slot
of the entry and the words. -/
theorem depart_of_port (s : State) (p : Port) (f : LinePort → LinePort) (m : Manner) (e : QueueEntry)
    (given : (f (s.port p)).receiver.currentSlot = none) :
    OnlyPortAndPool s ((s.modifyPort p f).depart p m e) p ∧ OnlySlot s ((s.modifyPort p f).depart p m e) e.slot ∧
    ((s.modifyPort p f).depart p m e).port p = f (s.port p) ∧
    ((s.modifyPort p f).depart p m e).words = announcedWords s p m e ∧
    (1 < (s.slot e.slot).refs →
      ((s.modifyPort p f).depart p m e).slot e.slot = { s.slot e.slot with refs := (s.slot e.slot).refs - 1 }) ∧
    ((s.slot e.slot).refs = 1 → s.heldOutside e.slot = false →
      ((s.modifyPort p f).depart p m e).slot e.slot = Slot.empty) := by
  obtain ⟨only, slots, more, one⟩ := departuresAreAnnounced p m e (s.modifyPort p f)
  have ports : ∀ q, ((s.modifyPort p f).depart p m e).port q = (s.modifyPort p f).port q :=
    State.port_congr (State.depart_ports ..)
  refine ⟨⟨by rw [State.depart_only]; simp [State.modifyPort], fun q ne => ?_⟩, slots, ?_, depart_words .., more,
    fun last held => one last ?_⟩
  · rw [ports, State.port_modifyPort_other _ _ ne]
  · rw [ports, State.port_modifyPort_same]
  · refine heldOutside_of_given_up held (fun q h => ?_) rfl rfl
    by_cases eq : q = p
    · rw [eq, State.port_modifyPort_same, given] at h
      exact absurd h nofun
    · rwa [State.port_modifyPort_other _ _ eq] at h

/-! ## Sending (R62, R63) -/

@[simp] theorem sendNext_state (t : Transmitter) (f : Slot) : (t.sendNext f).state = t.state := by
  unfold Transmitter.sendNext
  split <;> rfl

theorem sendNext_of_some {t : Transmitter} {f : Slot} {c : Character} (h : f.chars[t.nextPosition]? = some c) :
    t.sendNext f = { t with
      charTime := 0, driverEnable := true, echoList := t.echoList ++ [⟨c, none⟩], nextPosition := t.nextPosition + 1 } := by
  unfold Transmitter.sendNext
  rw [h]

theorem sendNext_of_none {t : Transmitter} {f : Slot} (h : f.chars[t.nextPosition]? = none) :
    t.sendNext f = { t with charTime := 0, driverEnable := false } := by
  unfold Transmitter.sendNext
  rw [h]

theorem maySend_iff (s : State) (p : Port) : s.maySend p = true ↔
    (s.port p).transmitter.state = .waitGap ∧ s.admin p = .enabled ∧ (s.port p).transmitter.queue ≠ [] ∧
      (s.port p).receiver.state = .hunt ∧ 3 * s.charTime p ≤ (s.port p).transmitter.quietInterval := by
  simp [State.maySend, State.admin, and_assoc]

/-- A transmitter that may send begins with the head of its queue. -/
theorem startSending_of_maySend (may : s.maySend p = true) (queue : (s.port p).transmitter.queue = e :: rest) :
    startSending p s = s.modifyPort p fun x => { x with
      receiver := x.receiver.withoutFrame .echo
      transmitter :=
        ({ x.transmitter with echoList := [], nextPosition := 0, state := .sending }).sendNext (s.slot e.slot) } := by
  unfold startSending
  rw [if_pos may, queue]

theorem exec_beginSending (p : Port) (service : s.phase = .inService) :
    exec (.beginSending p) s = .next (startSending p s) := State.whenInService_inService _ service

theorem sendingBeginsOnlyOnQuietLine : SendingBeginsOnlyOnQuietLine := by
  intro p s service idle
  refine ⟨_, exec_beginSending p service, ?_⟩
  rw [← maySend_iff]
  by_cases may : s.maySend p = true
  · obtain ⟨-, -, some, -, -⟩ := (maySend_iff s p).mp may
    obtain ⟨e, rest, queue⟩ := List.exists_cons_of_ne_nil some
    have sends : ((startSending p s).port p).transmitter.state = .sending := by
      rw [startSending_of_maySend may queue, State.port_modifyPort_same, sendNext_state]
    exact ⟨⟨fun _ => may, fun _ => sends⟩, fun no => absurd sends no⟩
  · have same : startSending p s = s := if_neg may
    rw [same]
    exact ⟨⟨fun k => absurd k idle, fun k => absurd k may⟩, fun _ => rfl⟩

theorem beginSendingDrivesFirstCharacter : BeginSendingDrivesFirstCharacter := by
  intro p e rest c s service wait enabled queue hunt quiet char
  refine ⟨_, exec_beginSending p service, ?_⟩
  rw [startSending_of_maySend ((maySend_iff s p).mpr ⟨wait, enabled, by simp [queue], hunt, quiet⟩) queue]
  refine ⟨onlyPort_modifyPort .., ?_⟩
  rw [State.port_modifyPort_same, sendNext_of_some char]
  exact ⟨rfl, rfl, rfl, rfl, rfl⟩

/-- Settles O15: a transmitter starts where R62 lets it, with the first character of its head. -/
theorem sendingBeginsOnQuietLine : Obligations.SendingBeginsOnQuietLine :=
  ⟨sendingBeginsOnlyOnQuietLine, beginSendingDrivesFirstCharacter⟩

/-! ## Characters sent and their echoes (R63, R64) -/

theorem exec_characterSent (p : Port) (service : s.phase = .inService) :
    exec (.characterSent p) s = .next (finishCharacter p s) := State.whenInService_inService _ service

theorem exec_missingEcho (p : Port) (service : s.phase = .inService) :
    exec (.missingEcho p) s = .next (missEcho p s) := State.whenInService_inService _ service

theorem echoMissing_eq_false_iff (t : Transmitter) : t.echoMissing = false ↔ ∀ y ∈ t.echoList, y.deadline ≠ some 0 := by
  rw [← Bool.not_eq_true, Transmitter.echoMissing_iff]
  push Not
  exact .rfl

theorem setLastDeadline_eq (d : Nat) (l : List SentCharacter) :
    setLastDeadline d l = l.map fun y => ⟨y.char, some (y.deadline.getD d)⟩ := by
  refine List.map_congr_left fun y _ => ?_
  cases h : y.deadline with
  | none => simp
  | some n =>
    obtain ⟨char, deadline⟩ := y
    simp_all

theorem characterSentStartsNext : CharacterSentStartsNext := by
  refine ⟨fun p s service no => ?_, fun p e rest s service sending drives ended queue inTime => ?_⟩
  · rw [exec_characterSent p service]
    congr 1
    refine if_neg fun ⟨sending, drives, ended⟩ => ?_
    rcases no with other | off | early
    · exact other sending
    · rw [off] at drives; exact absurd drives nofun
    · exact absurd ended (Nat.not_le.mpr early)
  · dsimp only
    refine ⟨_, exec_characterSent p service, ?_⟩
    rw [finishCharacter_of_none_missing s p sending drives ended queue ((echoMissing_eq_false_iff _).mpr inTime)]
    refine ⟨onlyPort_modifyTransmitter .., ?_⟩
    rw [State.port_modifyTransmitter_same, setLastDeadline_eq]
    refine ⟨rfl, rfl, rfl, fun c next => ?_, fun last => sendNext_of_none last⟩
    rw [drives]
    exact sendNext_of_some (t := { (s.port p).transmitter with
      echoList := (s.port p).transmitter.echoList.map fun y => ⟨y.char, some (y.deadline.getD (s.charTime p))⟩ }) next

theorem receive_of_echo (s : State) (c : Delivered) (h : (s.port p).receiver.state = .echo) :
    s.receive p c = s.echoCharacter p c := by
  unfold State.receive
  rw [h]

theorem echoIsGood_iff (sent : Character) (c : Delivered) :
    echoIsGood sent c = true ↔ c.value = sent.value ∧ c.mark = sent.mark ∧ c.framingError = false := by
  obtain ⟨value, mark⟩ := sent
  simp [echoIsGood, Delivered.character, and_assoc]

/-- An echo in SENDING with no deadline passed is judged against the oldest character sent. -/
theorem echoCharacter_of_inTime {sent : SentCharacter} {unjudged : List SentCharacter}
    (sending : (s.port p).transmitter.state = .sending) (list : (s.port p).transmitter.echoList = sent :: unjudged)
    (inTime : ∀ y ∈ (s.port p).transmitter.echoList, y.deadline ≠ some 0) :
    s.echoCharacter p c = if echoIsGood sent.char c then s.goodEcho p unjudged else s.collide p := by
  unfold State.echoCharacter
  dsimp only
  rw [if_pos sending, (echoMissing_eq_false_iff _).mpr inTime, list]
  rfl

theorem goodEchoRemovesOldestCharacter : GoodEchoRemovesOldestCharacter := by
  intro p c sent unjudged e rest s arrives echo sending list queue inTime value mark framing more
  refine ⟨_, arrives.exec_eq, ?_⟩
  have good : (waiting s p).receive p c = (waiting s p).modifyTransmitter p fun t => { t with echoList := unjudged } := by
    rw [receive_of_echo _ _ (by simpa using echo), echoCharacter_of_inTime (sent := sent) (unjudged := unjudged)
      (by simpa using sending) (by simpa using list) (by simpa using inTime),
      if_pos ((echoIsGood_iff ..).mpr ⟨value, mark, framing⟩)]
    unfold State.goodEcho
    simp only [port_waiting, waitingPort_fields, queue, slot_waiting]
    refine if_neg fun ⟨done, last⟩ => ?_
    rcases more with more | left
    · exact more done
    · exact absurd last (Nat.not_le.mpr left)
  rw [good]
  exact ⟨(onlyPort_waiting s p).trans (onlyPort_modifyTransmitter ..), by simp⟩

theorem completeSending_eq (s : State) (p : Port) (e : QueueEntry) (rest : List QueueEntry) :
    s.completeSending p e rest = (s.modifyPort p fun x => { x with
      counters := { x.counters with framesSent := stoppingSucc x.counters.framesSent }
      receiver := x.receiver.withoutFrame .hunt
      transmitter := { x.transmitter with
        charTime := 0, driverEnable := false, echoList := [], nextPosition := 0, queue := rest,
        state := restingState x.record.admin rest } }).depart p .completed e := by
  unfold State.completeSending State.countPort State.modifyPort
  simp [four_set_set]

theorem lastGoodEchoCompletesFrame : LastGoodEchoCompletesFrame := by
  intro p c sent e rest s arrives echo sending list queue inTime value mark framing last
  refine ⟨_, arrives.exec_eq, ?_⟩
  have completes : (waiting s p).receive p c = (waiting s p).completeSending p e rest := by
    rw [receive_of_echo _ _ (by simpa using echo), echoCharacter_of_inTime (sent := sent) (unjudged := [])
      (by simpa using sending) (by simpa using list) (by simpa [list] using inTime),
      if_pos ((echoIsGood_iff ..).mpr ⟨value, mark, framing⟩)]
    unfold State.goodEcho
    simp only [port_waiting, waitingPort_fields, queue, slot_waiting]
    exact if_pos ⟨trivial, last⟩
  rw [completes, completeSending_eq]
  obtain ⟨only, slots, port, words, more, one⟩ := depart_of_port (waiting s p) p (fun x => { x with
      counters := { x.counters with framesSent := stoppingSucc x.counters.framesSent }
      receiver := x.receiver.withoutFrame .hunt
      transmitter := { x.transmitter with
        charTime := 0, driverEnable := false, echoList := [], nextPosition := 0, queue := rest,
        state := restingState x.record.admin rest } }) .completed e rfl
  refine ⟨(onlyPort_waiting s p).pool.trans only, slots, ?_⟩
  rw [port, port_waiting]
  refine ⟨rfl, rfl, rfl, rfl, rfl, rfl, words, more, fun refs free => one refs ?_⟩
  refine heldOutside_of_given_up free (fun q h => ?_) rfl rfl
  by_cases eq : q = p
  · rw [eq, port_waiting] at h
    rw [eq]
    exact h
  · rwa [(onlyPort_waiting s p).2 q eq] at h

/-- Settles O16: the characters sent, their echoes, and the last of them. -/
theorem sentFrameIsEchoedAndCompleted : Obligations.SentFrameIsEchoedAndCompleted :=
  ⟨characterSentStartsNext, goodEchoRemovesOldestCharacter, lastGoodEchoCompletesFrame⟩

/-! ## Collisions (R64, R67) -/

theorem collided_fields (t : Transmitter) :
    t.collided.state = .jam ∧ t.collided.driverEnable = true ∧ t.collided.jamTime = 0 ∧ t.collided.echoList = [] := by
  unfold Transmitter.collided
  dsimp only
  split
  · split <;> exact ⟨rfl, rfl, rfl, rfl⟩
  · exact ⟨rfl, rfl, rfl, rfl⟩

theorem collided_queue {t : Transmitter} (queue : t.queue = e :: rest) :
    (e.collisions < 2 → t.collided.queue = { e with collisions := e.collisions + 1 } :: rest) ∧
    (2 ≤ e.collisions → t.collided.queue = e :: rest ∧ t.collided.discardAtJamEnd = true) := by
  unfold Transmitter.collided
  dsimp only
  rw [queue]
  refine ⟨fun below => ?_, fun third => ?_⟩
  · simp only [if_pos below]
  · simp only [if_neg (Nat.not_lt.mpr third)]
    exact ⟨trivial, trivial⟩

theorem txd_of_jam (h : (s.port p).transmitter.state = .jam) : s.txd p = .space := by
  unfold State.txd
  dsimp only
  rw [h]

theorem collisionJamsLine : CollisionJamsLine := by
  intro p e rest s service sending echo queue
  dsimp only
  have collides : ∀ u : State, OnlyPort s u p → (u.port p).receiver = (s.port p).receiver →
      (u.port p).transmitter = (s.port p).transmitter → (u.port p).record = (s.port p).record →
      (u.port p).counters = (s.port p).counters → OnlyPort s (u.collide p) p ∧
      ((u.collide p).port p).counters =
        { (s.port p).counters with collisions := stoppingSucc (s.port p).counters.collisions } ∧
      ((u.collide p).port p).transmitter.state = .jam ∧ ((u.collide p).port p).transmitter.driverEnable = true ∧
      (u.collide p).txd p = .space ∧ ((u.collide p).port p).transmitter.jamTime = 0 ∧
      ((u.collide p).port p).transmitter.echoList = [] ∧ ((u.collide p).port p).receiver = (s.port p).receiver ∧
      ((u.collide p).port p).record = (s.port p).record ∧
      (e.collisions < 2 →
        ((u.collide p).port p).transmitter.queue = { e with collisions := e.collisions + 1 } :: rest) ∧
      (2 ≤ e.collisions → ((u.collide p).port p).transmitter.queue = e :: rest ∧
        ((u.collide p).port p).transmitter.discardAtJamEnd = true) := by
    intro u only receiver transmitter record counters
    have port : (u.collide p).port p = { u.port p with
        counters := { (s.port p).counters with collisions := stoppingSucc (s.port p).counters.collisions }
        transmitter := (s.port p).transmitter.collided } := by
      unfold State.collide
      rw [State.port_modifyTransmitter_same, State.port_countPort_same, counters, transmitter]
    obtain ⟨jam, drives, time, list⟩ := collided_fields (s.port p).transmitter
    obtain ⟨below, third⟩ := collided_queue queue
    refine ⟨(only.trans (onlyPort_countPort ..)).trans (onlyPort_modifyTransmitter ..), ?_⟩
    rw [txd_of_jam (by rw [port]; exact jam), port]
    exact ⟨rfl, jam, drives, rfl, time, list, receiver, record, below, third⟩
  have here := collides s ⟨rfl, fun _ _ => rfl⟩ rfl rfl rfl rfl
  refine ⟨fun c arrives bad => ⟨_, arrives.exec_eq, ?_⟩, fun missing => ⟨_, exec_missingEcho p service, ?_⟩,
    fun missing drives ended => ⟨_, exec_characterSent p service, ?_⟩⟩
  · have judged : (waiting s p).receive p c = (waiting s p).collide p := by
      rw [receive_of_echo _ _ (by simpa using echo)]
      by_cases missing : (s.port p).transmitter.echoMissing = true
      · exact State.echoCharacter_of_missing _ p c (by simpa using sending) (by simpa using missing)
      · have inTime := (echoMissing_eq_false_iff _).mp (Bool.not_eq_true _ ▸ missing)
        cases list : (s.port p).transmitter.echoList with
        | nil =>
          unfold State.echoCharacter
          simp [sending, missing, list]
        | cons sent unjudged =>
          rw [echoCharacter_of_inTime (sent := sent) (unjudged := unjudged) (by simpa using sending)
            (by simpa using list) (by simpa using inTime)]
          refine if_neg fun good => ?_
          obtain ⟨value, mark, framing⟩ := (echoIsGood_iff ..).mp good
          rcases bad with ⟨y, mem, passed⟩ | bad
          · exact inTime y mem passed
          · rcases bad sent (by rw [list]; rfl) with error | other | other
            · rw [error] at framing; exact absurd framing nofun
            · exact other value
            · exact other mark
    rw [judged]
    exact collides _ (onlyPort_waiting s p) (by simp) (by simp) (by simp) (by simp)
  · rw [show missEcho p s = s.collide p from if_pos ⟨sending, (Transmitter.echoMissing_iff _).mpr missing⟩]
    exact here
  · rw [finishCharacter_of_missing s p sending drives ended ((Transmitter.echoMissing_iff _).mpr missing)]
    exact here

theorem jamEchoIsNotJudged : JamEchoIsNotJudged := by
  intro p c s arrives echo jam
  refine ⟨_, arrives.exec_eq, ?_⟩
  rw [receive_of_echo _ _ (by simpa using echo),
    State.echoCharacter_of_not_sending _ _ _ (by rw [port_waiting, (waitingPort_fields s p).2.1, jam]; exact nofun)]
  exact ⟨onlyPort_waiting s p, port_waiting s p⟩

theorem noEchoMissingBeforeDeadline : NoEchoMissingBeforeDeadline := by
  intro p s service no
  rw [exec_missingEcho p service]
  congr 1
  refine if_neg fun ⟨sending, missing⟩ => ?_
  rcases no with other | inTime
  · exact other sending
  · rw [(echoMissing_eq_false_iff _).mpr inTime] at missing
    exact absurd missing nofun

/-- Settles O17: each bad or missing echo is the one collision, and the relay's own break is none. -/
theorem badOrMissingEchoIsCollision : Obligations.BadOrMissingEchoIsCollision :=
  ⟨collisionJamsLine, jamEchoIsNotJudged, noEchoMissingBeforeDeadline⟩

/-! ## Jam and backoff (R68 to R70) -/

/-- In a list in band order the PRIORITY entries at the front are all there are. -/
theorem behindPriority_of_inOrder (e : QueueEntry) {q : List QueueEntry} (order : bandsInOrder q) :
    behindPriority e q = q.filter (·.band == .priority) ++ e :: q.filter (·.band == .ordinary) := by
  have split : q.takeWhile (·.band == .priority) = q.filter (·.band == .priority) ∧
      q.dropWhile (·.band == .priority) = q.filter (·.band == .ordinary) := by
    induction order with
    | nil => exact ⟨rfl, rfl⟩
    | @cons a l first _ ih =>
      cases band : a.band with
      | priority => simpa [band] using ih
      | ordinary =>
        have all : ∀ b ∈ l, b.band = .ordinary := fun b mem => by
          cases h : b.band with
          | ordinary => rfl
          | priority => exact absurd ⟨band, h⟩ (first b mem)
        have none : l.filter (·.band == .priority) = [] := List.filter_eq_nil_iff.mpr fun b mem => by simp [all b mem]
        have whole : l.filter (·.band == .ordinary) = l := List.filter_eq_self.mpr fun b mem => by simp [all b mem]
        simp [band, none, whole]
  unfold behindPriority
  rw [split.1, split.2]

/-- The transmitter that leaves a jam, with `queue` left. -/
def jamLeft (x : LinePort) (queue : List QueueEntry) : Transmitter :=
  { x.transmitter with discardAtJamEnd := false, driverEnable := false, jamTime := 0, queue := queue }

theorem jamEnded_fields (x : LinePort) (queue : List QueueEntry) :
    (x.jamEnded queue).receiver = x.receiver.withoutFrame .resync ∧ (x.jamEnded queue).record = x.record ∧
    (x.jamEnded queue).counters = x.counters ∧ (x.jamEnded queue).transmitter = (jamLeft x queue).afterJam x.record.admin :=
  ⟨rfl, rfl, rfl, rfl⟩

theorem afterJam_fields (t : Transmitter) (a : AdminState) :
    (t.afterJam a).driverEnable = t.driverEnable ∧ (t.afterJam a).queue = t.queue ∧
    (a = .enabled → (t.afterJam a).state = .backoff ∧ (t.afterJam a).backoffRegister = backoffAdvance t.backoffRegister ∧
      (t.afterJam a).backoff = some ⟨backoffInterval (backoffAdvance t.backoffRegister), 0⟩) ∧
    (a = .held → (t.afterJam a).state = .idle ∧ (t.afterJam a).backoffRegister = t.backoffRegister) := by
  unfold Transmitter.afterJam
  split
  · next enabled => exact ⟨rfl, rfl, fun _ => ⟨rfl, rfl, rfl⟩, fun held => by rw [enabled] at held; exact absurd held nofun⟩
  · next not => exact ⟨rfl, rfl, fun enabled => absurd enabled not, fun _ => ⟨rfl, rfl⟩⟩

theorem exec_jamEnd (p : Port) (service : s.phase = .inService) : exec (.jamEnd p) s = .next (endJam p s) :=
  State.whenInService_inService _ service

theorem countPort_modifyPort (s : State) (p : Port) (f : PortCounters → PortCounters) (g : LinePort → LinePort) :
    (s.countPort p f).modifyPort p g = s.modifyPort p fun x => g { x with counters := f x.counters } := by
  unfold State.countPort State.modifyPort
  simp [four_set_set]

/-- Settles O18: the entry is kept or discarded as the third collision says, and what the port comes to goes by its state. -/
theorem jamEndKeepsOrDiscards : Obligations.JamEndKeepsOrDiscards := by
  refine ⟨fun p s service no => ?_, fun p e rest s service jam ended queue => ⟨_, exec_jamEnd p service, ?_⟩⟩
  · rw [exec_jamEnd p service]
    congr 1
    refine if_neg fun ⟨jam, ended⟩ => ?_
    rcases no with other | early
    · exact other jam
    · exact absurd ended (Nat.not_le.mpr early)
  · have leaves : ∀ (x : LinePort) (q : List QueueEntry), x.transmitter = (s.port p).transmitter →
        x.record = (s.port p).record →
        (x.jamEnded q).transmitter.driverEnable = false ∧ (x.jamEnded q).transmitter.queue = q ∧
        (s.admin p = .enabled → (x.jamEnded q).transmitter.state = .backoff ∧
          (x.jamEnded q).transmitter.backoffRegister = backoffAdvance (s.port p).transmitter.backoffRegister ∧
          (x.jamEnded q).transmitter.backoff =
            some ⟨backoffInterval (backoffAdvance (s.port p).transmitter.backoffRegister), 0⟩) ∧
        (s.admin p = .held → (x.jamEnded q).transmitter.state = .idle ∧
          (x.jamEnded q).transmitter.backoffRegister = (s.port p).transmitter.backoffRegister) := by
      intro x q transmitter record
      obtain ⟨drives, queue, enabled, held⟩ := afterJam_fields (jamLeft x q) x.record.admin
      have register : (jamLeft x q).backoffRegister = (s.port p).transmitter.backoffRegister := by
        rw [← transmitter]; rfl
      rw [(jamEnded_fields x q).2.2.2, ← register, show s.admin p = x.record.admin by rw [record]; rfl]
      exact ⟨drives, queue, enabled, held⟩
    cases discard : (s.port p).transmitter.discardAtJamEnd with
    | false =>
      have ends : endJam p s = s.modifyPort p fun x => x.jamEnded (replacedHead (e :: rest)) := by
        unfold endJam
        simp only [jam, ended, discard, queue, and_self, if_true]
      obtain ⟨drives, left, enabled, held⟩ := leaves (s.port p) (replacedHead (e :: rest)) rfl rfl
      rw [ends]
      refine ⟨(onlyPort_modifyPort ..).pool, ?_⟩
      rw [State.port_modifyPort_same]
      refine ⟨drives, rfl, rfl, rfl, fun _ => ⟨rfl, rfl, rfl, fun priority => ?_, fun ordinary order => ?_⟩, nofun,
        enabled, held⟩
      · rw [left]
        simp [replacedHead, priority]
      · rw [left, replacedHead, if_pos ordinary, behindPriority_of_inOrder e order]
    | true =>
      have ends : endJam p s = (s.modifyPort p fun x => LinePort.jamEnded { x with
          counters := { x.counters with discards := stoppingSucc x.counters.discards } } rest).depart p .discarded e := by
        unfold endJam
        simp only [jam, ended, discard, queue, and_self, if_true, countPort_modifyPort]
      obtain ⟨only, slots, port, words, more, one⟩ := depart_of_port s p (fun x => LinePort.jamEnded { x with
        counters := { x.counters with discards := stoppingSucc x.counters.discards } } rest) .discarded e rfl
      obtain ⟨drives, left, enabled, held⟩ := leaves { s.port p with counters := { (s.port p).counters with
        discards := stoppingSucc (s.port p).counters.discards } } rest rfl rfl
      rw [ends]
      refine ⟨only, ?_⟩
      rw [port]
      exact ⟨drives, rfl, rfl, rfl, nofun, fun _ => ⟨slots, left, rfl, words, more, one⟩, enabled, held⟩

theorem backoffAdvance_getLsbD (r : Word) :
    (∀ i : Nat, 0 < i → i < 16 → (backoffAdvance r).getLsbD i = r.getLsbD (i - 1)) ∧
    (backoffAdvance r).getLsbD 0 = (r.getLsbD 15 ^^ r.getLsbD 13 ^^ r.getLsbD 12 ^^ r.getLsbD 10) := by
  have low : ∀ (noted : Bool) (i : Nat),
      (if noted = true then 1 else 0 : Word).getLsbD i = (decide (i = 0) && noted) := by
    intro noted i
    cases noted <;> simp [BitVec.getLsbD_one]
  unfold backoffAdvance
  dsimp only
  refine ⟨fun i positive small => ?_, ?_⟩
  · rw [BitVec.getLsbD_or, low, BitVec.getLsbD_shiftLeft]
    have : ¬ i = 0 := by omega
    simp [this, small, show ¬ i < 1 by omega]
  · rw [BitVec.getLsbD_or, low, BitVec.getLsbD_shiftLeft]
    simp

theorem backoffSequenceAdvances : BackoffSequenceAdvances := by
  refine ⟨fun r => ⟨(backoffAdvance_getLsbD r).1, (backoffAdvance_getLsbD r).2, backoffAdvance_ne_zero, ?_⟩, by decide,
    by decide, by decide, by decide, by decide, by decide, by decide⟩
  simp [backoffInterval]

theorem backoffEndsAtItsInterval : BackoffEndsAtItsInterval := by
  intro p b s service backoff draws enabled
  have run : exec (.backoffEnd p) s = .next (endBackoff p s) := State.whenInService_inService _ service
  rw [run]
  have open' : endBackoff p s = if b.interval * s.charTime p ≤ b.waited then s.modifyPort p fun x => { x with
      transmitter := { x.transmitter with
        backoff := none, quietInterval := 0, state := restingState x.record.admin x.transmitter.queue } } else s := by
    unfold endBackoff
    rw [backoff, draws]
  rw [open']
  refine ⟨fun ended => ⟨_, rfl, ?_⟩, fun early => ?_⟩
  · rw [if_pos ended]
    refine ⟨onlyPort_modifyPort .., ?_⟩
    rw [State.port_modifyPort_same]
    unfold restingState
    rw [show (s.port p).record.admin = .enabled from enabled]
    by_cases empty : (s.port p).transmitter.queue = [] <;> simp [empty]
  · rw [if_neg (Nat.not_le.mpr early)]

/-- Settles O19: the advance bit by bit, the draws by their values, and the end by the time waited. -/
theorem backoffDrawsAndEnds : Obligations.BackoffDrawsAndEnds := ⟨backoffSequenceAdvances, backoffEndsAtItsInterval⟩

end Sys2Proof.Statements
end

section
/-! PROOFS. Port Control's events and the Station Map's own. -/

namespace Sys2Proof.Statements

open Sys2Proof.Machine Sys2Proof.Safety

variable {s t u : State} {p : Port} {i : SlotId} {e : QueueEntry} {m : Manner} {c : RateCode}

/-! ## Flushes (R36) -/

/-- An announcement reaches the tracker, the Notice Unit or the Management Unit; the words to others stay. -/
theorem announcedWords_keeps (s : State) (p : Port) (m : Manner) (e : QueueEntry) :
    announcedWords s p m e = { s.words with
      tracker := (announcedWords s p m e).tracker, noticeCopies := (announcedWords s p m e).noticeCopies
      watchedReplies := (announcedWords s p m e).watchedReplies } := by
  unfold announcedWords
  dsimp only
  split
  · split <;> rfl
  · split
    · rfl
    · split
      · rfl
      · split <;> rfl

/-- The words after the entries of `l` have been announced. -/
def announcedAll (s : State) (p : Port) (m : Manner) (l : List QueueEntry) (w : Words) : Words :=
  l.foldl (fun w e => announcedWords { s with words := w } p m e) w

theorem announcedAll_keeps (s : State) (p : Port) (m : Manner) (l : List QueueEntry) (w : Words) :
    announcedAll s p m l w = { w with
      tracker := (announcedAll s p m l w).tracker, noticeCopies := (announcedAll s p m l w).noticeCopies
      watchedReplies := (announcedAll s p m l w).watchedReplies } := by
  induction l generalizing w with
  | nil => rfl
  | cons e l ih =>
    have first : announcedWords { s with words := w } p m e = _ := announcedWords_keeps { s with words := w } p m e
    have rest := ih (announcedWords { s with words := w } p m e)
    show announcedAll s p m l (announcedWords { s with words := w } p m e) =
      { w with
        tracker := (announcedAll s p m l (announcedWords { s with words := w } p m e)).tracker
        noticeCopies := (announcedAll s p m l (announcedWords { s with words := w } p m e)).noticeCopies
        watchedReplies := (announcedAll s p m l (announcedWords { s with words := w } p m e)).watchedReplies }
    generalize announcedWords { s with words := w } p m e = w' at first rest ⊢
    generalize announcedAll s p m l w' = v at rest ⊢
    rw [rest, first]

/-- Words that no announcement concerns go through the announcements untouched. -/
theorem announcedAll_other (s : State) (p : Port) (m : Manner) (l : List QueueEntry) (w : Words) (stuck : List Port) :
    announcedAll s p m l { w with stuckLine := stuck } = { announcedAll s p m l w with stuckLine := stuck } := by
  induction l generalizing w with
  | nil => rfl
  | cons e l ih =>
    have first : announcedWords { s with words := { w with stuckLine := stuck } } p m e =
        { announcedWords { s with words := w } p m e with stuckLine := stuck } := by
      unfold announcedWords
      dsimp only
      split
      · split <;> rfl
      · split
        · rfl
        · split
          · rfl
          · split <;> rfl
    exact (congrArg (announcedAll s p m l) first).trans (ih _)

theorem flushedWords_fields (s : State) (p : Port) :
    (flushedWords s p).portDown = s.words.portDown ∧ (flushedWords s p).raised = s.words.raised := by
  have keeps := announcedAll_keeps s p .flushed (s.port p).transmitter.queue s.words
  show (announcedAll s p .flushed (s.port p).transmitter.queue s.words).portDown = _ ∧
    (announcedAll s p .flushed (s.port p).transmitter.queue s.words).raised = _
  rw [keeps]
  exact ⟨rfl, rfl⟩

theorem departs_words (s : State) (p : Port) (m : Manner) (l : List QueueEntry) :
    (l.foldl (fun s e => s.depart p m e) s).words = announcedAll s p m l s.words := by
  induction l generalizing s with
  | nil => rfl
  | cons e l ih =>
    have same : ∀ w, announcedAll (s.depart p m e) p m l w = announcedAll s p m l w := fun w => by
      unfold announcedAll
      congr 1
      funext w e'
      rw [State.depart_only]
      rfl
    rw [List.foldl_cons, ih, same, depart_words]
    rfl

/-- Departures that name a slot once release it once; a slot they do not name stays. -/
theorem departs_slot (s : State) (p : Port) (m : Manner) (l : List QueueEntry) :
    (∀ i, (∀ e ∈ l, e.slot ≠ i) → (l.foldl (fun s e => s.depart p m e) s).slot i = s.slot i) ∧
    ((l.map (·.slot)).Nodup → ∀ e ∈ l,
      (l.foldl (fun s e => s.depart p m e) s).slot e.slot = (s.releaseRef e.slot).slot e.slot) := by
  induction l generalizing s with
  | nil => exact ⟨fun _ _ => rfl, nofun⟩
  | cons e l ih =>
    obtain ⟨other, once⟩ := ih (s.depart p m e)
    refine ⟨fun i apart => ?_, fun nodup x mem => ?_⟩
    · rw [List.foldl_cons, other i fun x mem => apart x (.tail _ mem), State.slot_depart,
        State.slot_releaseRef_other _ (Ne.symm (apart e (.head _)))]
    · obtain ⟨fresh, rest⟩ := List.nodup_cons.mp nodup
      rw [List.foldl_cons]
      rcases List.mem_cons.mp mem with same | later
      · subst same
        rw [other x.slot fun y hy eq => fresh (List.mem_map.mpr ⟨y, hy, eq⟩), State.slot_depart]
      · have ne : x.slot ≠ e.slot := fun eq => fresh (List.mem_map.mpr ⟨x, later, eq⟩)
        rw [once rest x later, State.slot_releaseRef_same, State.slot_releaseRef_same, State.slot_depart,
          State.slot_releaseRef_other _ ne]
        have held : (s.depart p m e).heldOutside x.slot = s.heldOutside x.slot :=
          State.heldOutside_congr (by simp) (by rw [State.depart_only]) (by rw [State.depart_only]) _
        rw [held]

/-! ## Going down (R128) -/

theorem slot_stopReceiver_other (s : State) (p : Port) (h : (s.port p).receiver.currentSlot ≠ some i) :
    (s.stopReceiver p).slot i = s.slot i := by
  unfold State.stopReceiver State.abandonFrame
  cases current : (s.port p).receiver.currentSlot with
  | none => rfl
  | some j =>
    have ne : i ≠ j := fun eq => h (by rw [current, eq])
    exact State.slot_letGo_other _ ne

theorem slot_stopReceiver_alone (s : State) (p : Port) (h : (s.port p).receiver.currentSlot = some i)
    (alone : ReceiversAlone s p i) : (s.stopReceiver p).slot i = Slot.empty :=
  (abandonFrame_of_alone .off h alone).2.2.2.1

theorem flushQueue_eq (s : State) (p : Port) :
    s.flushQueue p = (s.port p).transmitter.queue.foldl (fun s e => s.depart p .flushed e)
      (s.modifyTransmitter p fun t => { t with queue := [] }) := rfl

/-- What port `p` going down to `a` comes to: the port with both halves OFF and an empty queue, its LEARNED entries gone, its
entries announced, its slots given up. -/
theorem goDown_spec (s : State) (p : Port) (a : AdminState) :
    (∀ q ≠ p, (s.goDown p a).port q = s.port q) ∧
    (s.goDown p a).port p = { s.port p with
      record := { (s.port p).record with admin := a }
      receiver := (s.port p).receiver.stopped
      transmitter := { (s.port p).transmitter.stopped with queue := [] } } ∧
    s.goDown p a = { s with
      ports := (s.goDown p a).ports, slots := (s.goDown p a).slots, words := (s.goDown p a).words
      map := { s.map with entries := s.map.entries.filter fun e => !(e.isLearned && e.port == p) } } ∧
    (s.goDown p a).words = { flushedWords s p with portDown := s.words.portDown ++ [p] } ∧
    SlotsGivenUp s (s.goDown p a) p [] := by
  let stopped := s.modifyPort p fun x =>
    { x with record := { x.record with admin := a }, transmitter := x.transmitter.stopped }
  let given := stopped.stopReceiver p
  let flushing := given.modifyTransmitter p fun t => { t with queue := [] }
  have port : ∀ q, (s.goDown p a).port q = (offline s p a).port q := fun _ => rfl
  have queue : (given.port p).transmitter.queue = (s.port p).transmitter.queue := by
    rw [port_stopReceiver, if_pos rfl, State.port_modifyPort_same]
    rfl
  have flush : offline s p a = (s.port p).transmitter.queue.foldl (fun s e => s.depart p .flushed e) flushing := by
    rw [← queue]
    exact flushQueue_eq given p
  have receiver : ∀ q, (stopped.port q).receiver = (s.port q).receiver := fun q => by
    by_cases eq : q = p
    · rw [eq, State.port_modifyPort_same]
    · rw [State.port_modifyPort_other _ _ eq]
  have words : (offline s p a).words = flushedWords s p := by
    have start : flushing.words = s.words := by
      show given.words = s.words
      rw [show given = _ from stopReceiver_only stopped p]
      rfl
    have same : ∀ w, announcedAll flushing p .flushed (s.port p).transmitter.queue w =
        announcedAll s p .flushed (s.port p).transmitter.queue w := fun w => by
      unfold announcedAll
      congr 1
      funext w e
      have only : flushing = { s with ports := flushing.ports, slots := flushing.slots } := by
        show State.modifyTransmitter given p _ = _
        rw [show given = _ from stopReceiver_only stopped p]
        rfl
      rw [only]
      rfl
    rw [flush, departs_words, same, start]
    rfl
  refine ⟨fun q ne => ?_, ?_, ?_, ?_, ?_⟩
  · rw [port, port_offline, if_neg ne]
  · rw [port, port_offline, if_pos rfl]
  · have only : offline s p a = { s with
        ports := (offline s p a).ports, slots := (offline s p a).slots, words := (offline s p a).words } := by
      have traffic := (State.flushQueue_traffic given p).symm
      have counters : (offline s p a).counters = s.counters := by
        have keeps : ∀ (l : List QueueEntry) (u : State),
            (l.foldl (fun s e => s.depart p .flushed e) u).counters = u.counters := by
          intro l
          induction l with
          | nil => exact fun _ => rfl
          | cons e l ih =>
            intro u
            rw [List.foldl_cons, ih, State.depart_only]
        rw [flush, keeps]
        show given.counters = s.counters
        rw [show given = _ from stopReceiver_only stopped p]
        rfl
      have traffic : SameButTraffic s (offline s p a) :=
        (show SameButTraffic s given by
          unfold SameButTraffic
          rw [show given = _ from stopReceiver_only stopped p]
          rfl).trans (State.flushQueue_traffic given p)
      unfold SameButTraffic at traffic
      rw [traffic]
      simp only [← counters]
    rw [goDown_eq, only]
    rfl
  · rw [goDown_eq]
    show ({ (offline s p a).words with portDown := (offline s p a).words.portDown ++ [p] } : Words) = _
    rw [words, (flushedWords_fields s p).1]
  · have slot : ∀ j, (s.goDown p a).slot j = (offline s p a).slot j := fun _ => rfl
    obtain ⟨other, once⟩ := departs_slot flushing p .flushed (s.port p).transmitter.queue
    refine ⟨fun e mem nodup _ held => ?_, fun j _ apart => ⟨fun current alone => ?_, fun current => ?_⟩⟩
    · have current : (s.port p).receiver.currentSlot ≠ some e.slot := fun eq => by
        rw [← Bool.not_eq_true, State.heldOutside_iff] at held
        exact held (.inl ⟨p, eq⟩)
      have same : flushing.slot e.slot = s.slot e.slot :=
        slot_stopReceiver_other stopped p (by rw [receiver]; exact current)
      have free : flushing.heldOutside e.slot = false := by
        refine heldOutside_of_given_up held (fun q eq => ?_) ?_ ?_
        · by_cases eq' : q = p
          · rw [eq', State.port_modifyTransmitter_same, port_stopReceiver, if_pos rfl] at eq
            exact absurd eq nofun
          · rwa [State.port_modifyTransmitter_other _ _ eq', port_stopReceiver, if_neg eq', receiver] at eq
        · exact congrArg (·.relay.input) (stopReceiver_only stopped p)
        · exact congrArg (·.management.queue) (stopReceiver_only stopped p)
      rw [slot, flush, once nodup e mem, State.slot_releaseRef_same, same, free]
      refine ⟨fun more => if_neg (by omega), fun last => ?_⟩
      rw [last]
      exact if_pos ⟨rfl, by simp⟩
    · rw [slot, flush, other j apart]
      refine slot_stopReceiver_alone stopped p (by rw [receiver]; exact current) ?_
      exact ⟨alone.1, fun q ne => by rw [receiver]; exact alone.2.1 q ne, alone.2.2⟩
    · rw [slot, flush, other j apart]
      exact slot_stopReceiver_other stopped p (by rw [receiver]; exact current)

/-! ## Isolation and recovery (R131, R132) -/

theorem stuckLineIsolatesPort : StuckLineIsolatesPort := by
  intro p s service word
  have run : exec (.stuckLineEvent p) s = .next (takeStuckLine p s) := State.whenInService_inService _ service
  let taken := s.modifyWords fun w => { w with stuckLine := w.stuckLine.erase p }
  have open' : takeStuckLine p s = if (s.admin p).isDown then taken else taken.isolate p := if_pos word
  rw [run, open']
  refine ⟨fun up => ⟨_, rfl, ?_⟩, fun down => by rw [if_pos down]; rfl⟩
  rw [if_neg (by rw [up]; exact nofun)]
  obtain ⟨others, port, only, words, slots⟩ := goDown_spec taken p .isolated
  have raised : (flushedWords taken p).raised = s.words.raised :=
    (flushedWords_fields taken p).2
  have flushed : flushedWords taken p = { flushedWords s p with stuckLine := s.words.stuckLine.erase p } :=
    announcedAll_other s p .flushed (s.port p).transmitter.queue s.words (s.words.stuckLine.erase p)
  have code : (taken.admin p).code = if s.admin p = .enabled then 0 else 1 := by
    show (s.admin p).code = _
    cases a : s.admin p <;> simp [a, AdminState.isDown] at up ⊢ <;> rfl
  unfold State.isolate
  rw [code]
  have own : ∀ q, (((taken.goDown p .isolated).modifyRecord p fun r =>
      { r with recovery := if r.autoRecover then some 0 else none }).raise .portIsolated (portCharacter p)
        (if s.admin p = .enabled then 0 else 1)).port q = ((taken.goDown p .isolated).modifyRecord p fun r =>
      { r with recovery := if r.autoRecover then some 0 else none }).port q := fun _ => rfl
  refine ⟨fun q ne => ?_, ?_, ?_⟩
  · rw [own, State.port_modifyRecord_other _ _ ne, others q ne]
    rfl
  · rw [show taken.goDown p .isolated = _ from only]
    rfl
  · rw [own, State.port_modifyRecord_same, port]
    refine ⟨rfl, rfl, rfl, rfl, rfl, rfl, rfl, rfl, rfl, ⟨slots.1, slots.2⟩, ?_⟩
    show ({ (taken.goDown p .isolated).words with
      raised := (taken.goDown p .isolated).words.raised ++ _ } : Words) = _
    rw [words, raised, flushed]
    rfl

theorem recoveryRestoresPort : RecoveryRestoresPort := by
  intro p n s service isolated runs
  have run : exec (.recoveryExpiry p) s = .next (recoverPort p s) := State.whenInService_inService _ service
  have second : msCycles 1000 = 14745600 := by decide
  have open' : recoverPort p s = if 14745600 ≤ n then
      (s.comeUp p .enabled).raise .portRestored (portCharacter p) (byteOf (s.rate p).val) else s := by
    unfold recoverPort
    rw [isolated, runs]
    simp only [second]
  rw [run, open']
  refine ⟨fun reached => ⟨_, rfl, ?_⟩, fun early => by rw [if_neg (Nat.not_le.mpr early)]⟩
  rw [if_pos reached]
  have port : ((s.comeUp p .enabled).raise .portRestored (portCharacter p) (byteOf (s.rate p).val)).port p =
      { (s.port p).started with record := { (s.port p).record with admin := .enabled, recovery := none } } :=
    State.port_modifyPort_same s p fun x => { x.started with
      record := { x.record with admin := .enabled, recovery := none } }
  refine ⟨fun q ne => State.port_modifyPort_other s (fun x => { x.started with
    record := { x.record with admin := .enabled, recovery := none } }) ne, rfl, ?_⟩
  rw [port]
  exact ⟨rfl, rfl, rfl, rfl, rfl, rfl, rfl, rfl⟩

/-- Settles O20: a stuck line takes its port down, and mark for a second brings it back. -/
theorem isolationAndRecovery : Obligations.IsolationAndRecovery := ⟨stuckLineIsolatesPort, recoveryRestoresPort⟩

/-! ## Rate applications (R134, R54, R74) -/

theorem framerAtRate_eq (f : Framer) : f.atRate = framerAtRate f := by
  unfold Framer.atRate framerAtRate Framer.markAwaited
  simp [beq_eq_decide]

/-- What the receiver answers to a rate application with no frame in progress. -/
theorem rateAtReceiver_idle (u : State) (p : Port) :
    ((u.port p).receiver.state = .off → u.rateAtReceiver p = u) ∧
    ((u.port p).receiver.state = .echo → u.rateAtReceiver p = u.modifyReceiver p fun r => { r with spaceInterval := 0 }) ∧
    ((u.port p).receiver.state = .hunt ∨ (u.port p).receiver.state = .resync →
      u.rateAtReceiver p = u.modifyReceiver p fun r => { r.withoutFrame .resync with spaceInterval := 0 }) := by
  refine ⟨fun off => ?_, fun echo => ?_, fun waits => ?_⟩
  · unfold State.rateAtReceiver; rw [off]
  · unfold State.rateAtReceiver; rw [echo]
  · unfold State.rateAtReceiver
    rcases waits with hunt | resync
    · rw [hunt]
    · rw [resync]

/-- A frame in progress is aborted at a rate application. -/
theorem rateAtReceiver_frame (u : State) (p : Port) (progress : (u.port p).receiver.state.frameInProgress = true) :
    u.rateAtReceiver p = (u.abortFrame p .resync fun k => { k with
      abortRate := stoppingSucc k.abortRate }).modifyReceiver p fun r => { r with spaceInterval := 0 } := by
  unfold State.rateAtReceiver
  cases state : (u.port p).receiver.state <;> simp [state, ReceiverState.frameInProgress] at progress ⊢

/-- What the transmitter answers to a rate application. -/
theorem rateAtTransmitter_cases (u : State) (p : Port) :
    ((u.port p).transmitter.state = .off → u.rateAtTransmitter p = u) ∧
    ((u.port p).transmitter.state = .idle ∨ (u.port p).transmitter.state = .waitGap →
      u.rateAtTransmitter p = u.modifyTransmitter p fun t => { t with quietInterval := 0 }) ∧
    ((u.port p).transmitter.state = .sending →
      u.rateAtTransmitter p = (u.collide p).modifyTransmitter p fun t => { t with quietInterval := 0 }) ∧
    ((u.port p).transmitter.state = .jam →
      u.rateAtTransmitter p = u.modifyTransmitter p fun t => { t with jamTime := 0, quietInterval := 0 }) ∧
    ((u.port p).transmitter.state = .backoff → u.rateAtTransmitter p = u.modifyTransmitter p fun t =>
      { t with backoff := t.backoff.map fun b => { b with waited := 0 }, quietInterval := 0 }) := by
  refine ⟨fun off => ?_, fun waits => ?_, fun sending => ?_, fun jam => ?_, fun backoff => ?_⟩
  · unfold State.rateAtTransmitter; rw [off]
  · unfold State.rateAtTransmitter
    rcases waits with idle | gap
    · rw [idle]
    · rw [gap]
  · unfold State.rateAtTransmitter; rw [sending]
  · unfold State.rateAtTransmitter; rw [jam]
  · unfold State.rateAtTransmitter; rw [backoff]

/-- The port once its framer has answered a rate application. -/
theorem port_clocked_same (s : State) (p : Port) (c : RateCode) :
    (clocked s p c).port p = { s.port p with
      framer := framerAtRate (s.port p).framer, record := { (s.port p).record with currentRate := c } } := by
  rw [port_clocked, if_pos rfl, framerAtRate_eq]

/-- A rate application leaves framer and record to the framer's answer, whatever is in progress. -/
theorem applyRate_framer_record (s : State) (p : Port) (c : RateCode) :
    ((s.applyRate p c).port p).framer = framerAtRate (s.port p).framer ∧
    ((s.applyRate p c).port p).record = { (s.port p).record with currentRate := c } := by
  rw [applyRate_eq, rateAtTransmitter_port, if_pos rfl, rateAtReceiver_port, if_pos rfl, port_clocked_same]
  exact ⟨rfl, rfl⟩

theorem rate_applyRate (s : State) (p : Port) (c : RateCode) : (s.applyRate p c).rate p = c :=
  congrArg PortRecord.currentRate (applyRate_framer_record s p c).2

/-- The receiver at rest keeps slots and counters at a rate application. -/
theorem rateAtReceiver_atRest (u : State) (p : Port) (rest : (u.port p).receiver.state = .off ∨
    (u.port p).receiver.state = .hunt ∨ (u.port p).receiver.state = .resync) :
    ∃ f : Receiver → Receiver, u.rateAtReceiver p = u.modifyReceiver p f ∧
      ((u.port p).receiver.state = .off → f (u.port p).receiver = (u.port p).receiver) ∧
      ((u.port p).receiver.state ≠ .off → (f (u.port p).receiver).state = .resync ∧
        (f (u.port p).receiver).spaceInterval = 0 ∧ (f (u.port p).receiver).markInterval = 0) := by
  obtain ⟨off, -, waits⟩ := rateAtReceiver_idle u p
  rcases rest with h | h
  · exact ⟨id, (off h).trans (modifyReceiver_id u p).symm, fun _ => rfl, fun on => absurd h on⟩
  · refine ⟨_, waits h, fun k => ?_, fun _ => ⟨rfl, rfl, rfl⟩⟩
    rw [k] at h
    exact h.elim nofun nofun

theorem modifyTransmitter_id (s : State) (p : Port) : s.modifyTransmitter p id = s :=
  congrArg (fun x => ({ s with ports := x } : State)) (four_set_get ..)

/-- The transmitter that sends nothing keeps queue, state and register at a rate application. -/
theorem rateAtTransmitter_atRest (u : State) (p : Port) (rest : (u.port p).transmitter.state = .off ∨
    (u.port p).transmitter.state = .idle ∨ (u.port p).transmitter.state = .waitGap ∨
    (u.port p).transmitter.state = .backoff) :
    ∃ f : Transmitter → Transmitter, u.rateAtTransmitter p = u.modifyTransmitter p f ∧
      (f (u.port p).transmitter).queue = (u.port p).transmitter.queue ∧
      (f (u.port p).transmitter).state = (u.port p).transmitter.state ∧
      (f (u.port p).transmitter).backoffRegister = (u.port p).transmitter.backoffRegister ∧
      ((u.port p).transmitter.state ≠ .off → (f (u.port p).transmitter).quietInterval = 0) ∧
      ((u.port p).transmitter.state = .off → f (u.port p).transmitter = (u.port p).transmitter) := by
  obtain ⟨off, waits, -, -, backoff⟩ := rateAtTransmitter_cases u p
  have on : ∀ {st}, (u.port p).transmitter.state = st → st ≠ .off → ∀ {P : Prop}, (u.port p).transmitter.state = .off → P :=
    fun h ne _ k => absurd (h.symm.trans k) ne
  rcases rest with h | h | h | h
  · exact ⟨id, (off h).trans (modifyTransmitter_id u p).symm, rfl, rfl, rfl, fun k => absurd h k, fun _ => rfl⟩
  · exact ⟨_, waits (.inl h), rfl, rfl, rfl, fun _ => rfl, on h nofun⟩
  · exact ⟨_, waits (.inr h), rfl, rfl, rfl, fun _ => rfl, on h nofun⟩
  · exact ⟨_, backoff h, rfl, rfl, rfl, fun _ => rfl, on h nofun⟩

theorem applyRate_atRest (s : State) (p : Port) (c : RateCode) (rest : AtRest (s.port p)) :
    RateApplied (s.port p) ((s.applyRate p c).port p) c ∧ (s.applyRate p c).slots = s.slots := by
  have clock := port_clocked_same s p c
  obtain ⟨f, receives, off, on⟩ := rateAtReceiver_atRest (clocked s p c) p (by rw [clock]; exact rest.1)
  obtain ⟨g, sends, queue, state, register, quiet, still⟩ :=
    rateAtTransmitter_atRest ((clocked s p c).modifyReceiver p f) p
      (by rw [State.port_modifyReceiver_same, clock]; exact rest.2)
  rw [State.port_modifyReceiver_same] at queue state register quiet still
  rw [clock] at off on queue state register quiet still
  rw [applyRate_eq, receives, sends]
  refine ⟨?_, rfl⟩
  rw [State.port_modifyTransmitter_same, State.port_modifyReceiver_same, clock]
  exact ⟨rfl, rfl, rfl, rfl, rfl, rfl, queue, state, register, off, on, quiet, still⟩

/-- What is in progress at port `p` answers to a rate application: the clauses of the spec one by one. -/
theorem rateApplicationAbortsTraffic : RateApplicationAbortsTraffic := by
  intro p c s
  have clock := port_clocked_same s p c
  have slots : (clocked s p c).slots = s.slots := rfl
  have final : ∀ u : State, (u.port p).transmitter.state ≠ .sending →
      (u.rateAtTransmitter p).slots = u.slots ∧ ((u.rateAtTransmitter p).port p).receiver = (u.port p).receiver ∧
      ((u.rateAtTransmitter p).port p).counters = (u.port p).counters := by
    intro u quiet
    obtain ⟨off, waits, -, jam, backoff⟩ := rateAtTransmitter_cases u p
    cases h : (u.port p).transmitter.state with
    | off => rw [off h]; exact ⟨rfl, rfl, rfl⟩
    | idle => rw [waits (.inl h), State.port_modifyTransmitter_same]; exact ⟨rfl, rfl, rfl⟩
    | waitGap => rw [waits (.inr h), State.port_modifyTransmitter_same]; exact ⟨rfl, rfl, rfl⟩
    | sending => exact absurd h quiet
    | jam => rw [jam h, State.port_modifyTransmitter_same]; exact ⟨rfl, rfl, rfl⟩
    | backoff => rw [backoff h, State.port_modifyTransmitter_same]; exact ⟨rfl, rfl, rfl⟩
  have transmitter : (((clocked s p c).rateAtReceiver p).port p).transmitter = (s.port p).transmitter := by
    rw [rateAtReceiver_port, if_pos rfl, clock]
  refine ⟨fun i progress slot alone quiet => ?_, fun echo sending => ?_, fun shed quiet => ?_, fun echo jam => ?_,
    fun b backoff draws => ?_⟩
  · have alone' : ReceiversAlone (clocked s p c) p i :=
      ⟨alone.1, fun q ne => by rw [port_clocked, if_neg ne]; exact alone.2.1 q ne, alone.2.2⟩
    obtain ⟨-, -, only, free, port⟩ := abortFrame_of_alone .resync
      (fun k => { k with abortRate := stoppingSucc k.abortRate }) (by rw [clock]; exact slot) alone'
    obtain ⟨same, receiver, counters⟩ := final ((clocked s p c).rateAtReceiver p) (by rw [transmitter]; exact quiet)
    rw [applyRate_eq, receiver, counters]
    have aborted := rateAtReceiver_frame (clocked s p c) p (by rw [clock]; exact progress)
    have slot' : ∀ j, (((clocked s p c).rateAtReceiver p).rateAtTransmitter p).slot j =
        ((clocked s p c).abortFrame p .resync fun k => { k with abortRate := stoppingSucc k.abortRate }).slot j :=
      fun j => (State.slot_congr same j).trans (by rw [aborted]; rfl)
    refine ⟨(slot' i).trans free, fun j ne => (slot' j).trans (only j ne), ?_⟩
    rw [aborted, State.port_modifyReceiver_same, port, clock]
    exact ⟨rfl, rfl, rfl, rfl⟩
  · have receives := (rateAtReceiver_idle (clocked s p c) p).2.1 (by rw [clock]; exact echo)
    have sends := (rateAtTransmitter_cases ((clocked s p c).rateAtReceiver p) p).2.2.1 (by rw [transmitter]; exact sending)
    rw [rate_applyRate, applyRate_eq, sends, receives]
    obtain ⟨jam, drives, time, -⟩ := collided_fields (s.port p).transmitter
    refine ⟨rfl, ?_⟩
    unfold State.collide
    rw [State.port_modifyTransmitter_same, State.port_modifyTransmitter_same, State.port_countPort_same,
      State.port_modifyReceiver_same, clock]
    exact ⟨echo, jam, drives, time, rfl, rfl⟩
  · obtain ⟨same, receiver, counters⟩ := final ((clocked s p c).rateAtReceiver p) (by rw [transmitter]; exact quiet)
    have aborted := rateAtReceiver_frame (clocked s p c) p (by rw [clock]; exact shed.inProgress)
    rw [abortFrame_of_shed _ _ (by rw [clock]; exact shed.noSlot)] at aborted
    rw [applyRate_eq, same, receiver, counters, aborted, State.port_modifyReceiver_same, State.port_modifyReceiver_same, clock]
    exact ⟨rfl, rfl, rfl, rfl, rfl, rfl, rfl⟩
  · have receives := (rateAtReceiver_idle (clocked s p c) p).2.1 (by rw [clock]; exact echo)
    have sends := (rateAtTransmitter_cases ((clocked s p c).rateAtReceiver p) p).2.2.2.1 (by rw [transmitter]; exact jam)
    rw [rate_applyRate, applyRate_eq, sends, receives]
    rw [State.port_modifyTransmitter_same, State.port_modifyReceiver_same, clock]
    exact ⟨rfl, rfl, rfl, rfl, rfl⟩
  · have sends := (rateAtTransmitter_cases ((clocked s p c).rateAtReceiver p) p).2.2.2.2 (by rw [transmitter]; exact backoff)
    rw [rate_applyRate, applyRate_eq, sends, State.port_modifyTransmitter_same, transmitter, draws]
    exact ⟨rfl, rfl⟩

/-- A change of the rate phase after a rate application: what the application did, stands. -/
theorem applyRate_modifyRecord (s : State) (p : Port) (c : RateCode) (phase : RatePhase) :
    let t := (s.applyRate p c).modifyRecord p fun r => { r with ratePhase := phase }
    (∀ q ≠ p, t.port q = s.port q) ∧
    t = { s with ports := t.ports, slots := t.slots, timeBase := t.timeBase } ∧
    (AtRest (s.port p) → RateApplied (s.port p) (t.port p) c ∧ t.slots = s.slots) ∧
    TrafficAtRateChange s t p c ∧ t.rate p = c ∧ (t.port p).framer = framerAtRate (s.port p).framer ∧
    (t.port p).record.ratePhase = phase := by
  dsimp only
  have port := State.port_modifyRecord_same (s.applyRate p c) p fun r => { r with ratePhase := phase }
  obtain ⟨framer, record⟩ := applyRate_framer_record s p c
  have rate : ((s.applyRate p c).modifyRecord p fun r => { r with ratePhase := phase }).rate p = c := by
    unfold State.rate
    rw [port]
    exact congrArg PortRecord.currentRate record
  refine ⟨fun q ne => ?_, ?_, fun rest => ?_, ?_, rate, by rw [port]; exact framer, by rw [port]⟩
  · rw [State.port_modifyRecord_other _ _ ne, port_applyRate_other _ _ ne]
  · rw [show s.applyRate p c = _ from applyRate_only s p c]
    rfl
  · obtain ⟨applied, slots⟩ := applyRate_atRest s p c rest
    rw [port]
    exact ⟨applied, slots⟩
  · have traffic := rateApplicationAbortsTraffic p c s
    unfold TrafficAtRateChange at traffic ⊢
    rw [rate_applyRate] at traffic
    rw [rate, port]
    exact traffic

theorem rateReplyDepartureOpensWindow : RateReplyDepartureOpensWindow := by
  intro p s service word
  let taken := s.modifyWords fun w => { w with rateReplies := w.rateReplies.erase p }
  have opens : ∀ c w, (s.port p).record.ratePhase = .awaitingReply c w →
      exec (.rateReplyDeparted p) s = .next ((taken.applyRate p c).modifyRecord p fun r =>
        { r with ratePhase := .window w (14745600 * w) }) := fun c w awaits => by
    rw [exec_rateReplyDeparted_inService service, takeRateReply_of_awaiting word awaits, Nat.mul_comm]
    rfl
  refine ⟨fun c w awaits rest => ⟨_, opens c w awaits, ?_⟩, fun c w awaits => ⟨_, opens c w awaits, ?_⟩, fun steady => ?_⟩
  · obtain ⟨others, only, atRest, -, -, -, phase⟩ := applyRate_modifyRecord taken p c (.window w (14745600 * w))
    obtain ⟨applied, slots⟩ := atRest rest
    rw [slots] at only
    exact ⟨others, only, applied, phase⟩
  · obtain ⟨others, only, -, traffic, rate, framer, phase⟩ :=
      applyRate_modifyRecord taken p c (.window w (14745600 * w))
    refine ⟨others, only, ?_, rate, framer, phase⟩
    obtain ⟨stored, collided, shed, jam, backoff⟩ := traffic
    exact ⟨stored, collided, fun sheds => shed ⟨sheds.1, sheds.2, sheds.3⟩, jam, backoff⟩
  · rw [exec_rateReplyDeparted_inService service]
    unfold takeRateReply
    rw [if_pos word, steady]
    rfl

theorem windowExpiryRevertsRate : WindowExpiryRevertsRate := by
  intro p w s service
  have reverts : (s.port p).record.ratePhase = .window w 0 → exec (.windowExpiry p) s =
      .next (((s.applyRate p (s.port p).record.confirmedRate).modifyRecord p fun r => { r with ratePhase := .steady }).raise
        .rateReverted (portCharacter p) (byteOf (s.rate p).val)) := fun expired => by
    rw [exec_windowExpiry_inService service, expireWindow_of_expired expired]
  obtain ⟨others, only, atRest, traffic, rate, framer, phase⟩ :=
    applyRate_modifyRecord s p (s.port p).record.confirmedRate .steady
  refine ⟨fun expired rest => ⟨_, reverts expired, others, ?_, (atRest rest).1, phase⟩,
    fun expired => ⟨_, reverts expired, others, ?_, traffic, rate, framer, phase⟩, fun n runs => ?_⟩
  · rw [(atRest rest).2] at only
    generalize (s.applyRate p (s.port p).record.confirmedRate).modifyRecord p (fun r => { r with ratePhase := .steady }) = t
      at only
    rw [only]
    rfl
  · generalize (s.applyRate p (s.port p).record.confirmedRate).modifyRecord p (fun r => { r with ratePhase := .steady }) = t
      at only
    rw [only]
    rfl
  · rw [exec_windowExpiry_inService service]
    unfold expireWindow
    rw [runs]

/-- Settles O21: the two events are rate applications, and each half of a port answers one by its state. -/
theorem rateEventsApplyRates : Obligations.RateEventsApplyRates :=
  ⟨rateReplyDepartureOpensWindow, windowExpiryRevertsRate, rateApplicationAbortsTraffic⟩

end Sys2Proof.Statements
end

section
/-! PROOFS. The Station Map: the timeout's word, aging, learning, and STATIC writes into a full list. -/

namespace Sys2Proof.Statements

open Sys2Proof.Machine Sys2Proof.Safety

variable {s t : State} {a : Byte} {p : Port} {e v : StationEntry} {l : List StationEntry}

/-! ## The word of a timeout (R87) -/

/-- With one entry an address, changing that address's entries is changing the one entry. -/
theorem map_entries_congr {f g : StationEntry → StationEntry} (distinct : l.Pairwise fun x y => x.address ≠ y.address)
    (present : e ∈ l) (same : f e = g e) :
    (l.map fun x => if x.address = e.address then f x else x) = l.map fun x => if x.address = e.address then g x else x := by
  refine List.map_congr_left fun x hx => ?_
  have nodup : (l.map (·.address)).Nodup := List.pairwise_map.mpr distinct
  split
  · next at_e => rw [List.inj_on_of_nodup_map nodup hx present at_e, same]
  · rfl

theorem lookup_eq_none : s.lookup a = none ↔ ∀ x ∈ s.map.entries, x.address ≠ a := by
  simp [State.lookup]

/-- The silence count after one more timeout: it stops at 3. -/
def silenceRisen (e : StationEntry) : StationEntry := { e with silence := if e.silence = 3 then 3 else e.silence + 1 }

theorem silenceRisen_of_silent (silent : e.silence = 3) : silenceRisen e = e := by
  obtain ⟨address, origin, port, retry, silence, timeoutClass⟩ := e
  subst silent
  rfl

theorem silenceRisen_of_not_silent (heard : e.silence ≠ 3) : silenceRisen e = { e with silence := e.silence + 1 } := by
  unfold silenceRisen; rw [if_neg heard]

theorem takeTimeoutWord_unknown (word : a ∈ s.words.timeouts) (unknown : s.lookup a = none) :
    takeTimeoutWord a s = s.modifyWords fun w => { w with timeouts := w.timeouts.erase a } := by
  have unknown' : (s.modifyWords fun w => { w with timeouts := w.timeouts.erase a }).lookup a = none := unknown
  simp only [takeTimeoutWord, if_pos word, unknown']

theorem takeTimeoutWord_known (word : a ∈ s.words.timeouts) (known : s.lookup a = some e) :
    takeTimeoutWord a s =
      let taken := s.modifyWords fun w => { w with timeouts := w.timeouts.erase a }
      if e.silence = 3 then taken
      else
        let risen := taken.modifyStation a fun e => { e with silence := e.silence + 1 }
        if e.silence = 2 then risen.raise .stationSilent a (portCharacter e.port) else risen := by
  have known' : (s.modifyWords fun w => { w with timeouts := w.timeouts.erase a }).lookup a = some e := known
  simp only [takeTimeoutWord, if_pos word, known']

theorem timeoutWordRaisesSilence : TimeoutWordRaisesSilence := by
  intro a s service word distinct
  refine ⟨fun unknown => ?_, fun e present at_a => ⟨_, exec_timeoutWord_inService a service, ?_⟩⟩
  · rw [exec_timeoutWord_inService a service, takeTimeoutWord_unknown word (lookup_eq_none.mpr unknown)]
    rfl
  · subst at_a
    have entries : ∀ g : StationEntry → StationEntry, g e = silenceRisen e →
        (s.map.entries.map fun x => if x.address = e.address then silenceRisen x else x) =
          s.map.entries.map fun x => if x.address = e.address then g x else x :=
      fun g same => map_entries_congr distinct present same.symm
    rw [takeTimeoutWord_known word (State.lookup_of_mem present distinct)]
    unfold silenceRisen at entries
    by_cases silent : e.silence = 3
    · rw [entries id (silenceRisen_of_silent silent).symm]
      have two : e.silence ≠ 2 := by rw [silent]; decide
      simp only [if_pos silent, if_neg two, id, ite_self, List.map_id', List.append_nil]
      rfl
    · rw [entries (fun x => { x with silence := x.silence + 1 }) (silenceRisen_of_not_silent silent).symm]
      simp only [if_neg silent]
      by_cases two : e.silence = 2
      · simp only [if_pos two]
        rfl
      · simp only [if_neg two, List.append_nil]
        rfl

/-! ## Aging (R85) -/

/-- An aging expiry leaves an entry that is STATIC, or one a year older than an entry below age 3. -/
theorem mem_aged : e ∈ l.filterMap StationEntry.aged ↔
    (e.origin = .static ∧ e ∈ l) ∨
      ∃ a : Fin 4, a ≠ 3 ∧ e.origin = .learned (a + 1) ∧ { e with origin := .learned a } ∈ l := by
  rw [List.mem_filterMap]
  constructor
  · rintro ⟨x, present, aged⟩
    unfold StationEntry.aged at aged
    split at aged
    · next a learned =>
      split at aged
      · exact absurd aged (by simp)
      · next young =>
        obtain rfl := Option.some.inj aged
        exact .inr ⟨a, young, rfl, by rw [← learned]; exact present⟩
    · next static =>
      obtain rfl := Option.some.inj aged
      exact .inl ⟨static, present⟩
  · rintro (⟨static, present⟩ | ⟨a, young, learned, present⟩)
    · exact ⟨e, present, by unfold StationEntry.aged; rw [static]⟩
    · refine ⟨_, present, ?_⟩
      unfold StationEntry.aged
      simp only [if_neg young, ← learned]

theorem agingExpiryAgesLearnedEntries : AgingExpiryAgesLearnedEntries := by
  intro s service
  have run : exec .agingExpiry s = .next (expireAging s) := State.whenInService_inService _ service
  refine ⟨fun expired => ⟨_, run, ?_⟩, fun n runs => ?_⟩
  · unfold expireAging
    rw [if_pos expired]
    refine ⟨rfl, rfl, ?_, fun e => mem_aged⟩
    simp only [State.startAging_fields, secondCycles, Nat.mul_comm]
  · rw [run]
    unfold expireAging
    rw [runs, if_neg (by simp)]

/-- Settles O22: the word changes the one entry of its address, and an aging expiry filters the list entry by entry. -/
theorem silenceAndAging : Obligations.SilenceAndAging := ⟨timeoutWordRaisesSilence, agingExpiryAgesLearnedEntries⟩

/-! ## The list of entries (R78) -/

theorem insertStation_eq_orderedInsert (e : StationEntry) (l : List StationEntry) :
    insertStation e l = l.orderedInsert (fun x y => x.address.toNat < y.address.toNat) e := by
  induction l with
  | nil => rfl
  | cons x rest ih => rw [insertStation, List.orderedInsert_cons, ih]

theorem insertStation_perm (e : StationEntry) (l : List StationEntry) : (insertStation e l).Perm (e :: l) := by
  rw [insertStation_eq_orderedInsert]
  exact List.perm_orderedInsert _ e l

theorem insertStation_pairwise (ascending : l.Pairwise fun x y => x.address.toNat < y.address.toNat)
    (fresh : ∀ x ∈ l, x.address ≠ e.address) :
    (insertStation e l).Pairwise fun x y => x.address.toNat < y.address.toNat := by
  induction l with
  | nil => exact List.pairwise_singleton _ _
  | cons x rest ih =>
    obtain ⟨least, ascending⟩ := List.pairwise_cons.mp ascending
    obtain ⟨ne, fresh⟩ := List.forall_mem_cons.mp fresh
    unfold insertStation
    split
    · next before =>
      refine List.pairwise_cons.mpr ⟨fun y hy => ?_, List.pairwise_cons.mpr ⟨least, ascending⟩⟩
      rcases List.mem_cons.mp hy with rfl | later
      · exact before
      · exact before.trans (least y later)
    · next after =>
      refine List.pairwise_cons.mpr ⟨fun y hy => ?_, ih ascending fresh⟩
      rcases List.mem_cons.mp ((insertStation_perm e rest).mem_iff.mp hy) with rfl | later
      · exact Nat.lt_of_le_of_ne (Nat.le_of_not_lt after) fun same => ne (BitVec.eq_of_toNat_eq same)
      · exact least y later

theorem insertionKeepsEntries : InsertionKeepsEntries :=
  fun e l => ⟨insertStation_perm e l, insertStation_pairwise⟩

/-! ## The map update (R80 to R84) -/

theorem mapHasRoom_iff : s.mapHasRoom = true ↔ s.map.entries.length < 96 := decide_eq_true_iff

theorem refreshed_eq (e : StationEntry) : e.refreshed =
    { e with silence := 0, origin := if e.origin = .static then .static else .learned 0 } := by
  unfold StationEntry.refreshed
  split <;> next origin => simp [origin]

/-- The map update of a source with no entry. -/
theorem updateMap_unknown (unknown : s.lookup a = none) : s.updateMap a p =
    (if (s.admin p).isDown then s else s.learnNew a p, .goOn) := by
  unfold State.updateMap
  rw [unknown]
  dsimp only
  split <;> rfl

/-- The map update of a source whose entry is not in a static conflict. -/
theorem updateMap_known (known : s.lookup a = some e) (agrees : e.port = p ∨ e.origin ≠ .static) : s.updateMap a p =
    (if (s.admin p).isDown then s
     else if e.port = p then s.modifyStation a StationEntry.refreshed else s.moveStation e p, .goOn) := by
  have calm : ¬ (e.port ≠ p ∧ e.origin = .static) := fun ⟨other, static⟩ => agrees.elim other fun h => h static
  unfold State.updateMap
  rw [known]
  simp only [if_neg calm]
  split
  · rfl
  · split <;> rfl

theorem updateMap_conflict (known : s.lookup a = some e) (other : e.port ≠ p) (static : e.origin = .static) :
    s.updateMap a p = (s.staticConflict a p, .drop) := by
  unfold State.updateMap
  rw [known]
  exact if_pos ⟨other, static⟩

theorem learnNew_of_room (learns : (s.port p).record.learn = true) (room : s.map.entries.length < 96) :
    s.learnNew a p = s.addStation ⟨a, .learned 0, p, true, 0, 0⟩ := by
  unfold State.learnNew; rw [if_pos learns, if_pos (mapHasRoom_iff.mpr room)]

theorem learnNew_of_full (learns : (s.port p).record.learn = true) (full : 96 ≤ s.map.entries.length) :
    s.learnNew a p =
      (s.count fun k => { k with learnRefusals := stoppingSucc k.learnRefusals }).raise .mapFull (portCharacter p) a := by
  unfold State.learnNew
  rw [if_pos learns, if_neg fun room => Nat.not_lt.mpr full (mapHasRoom_iff.mp room)]

theorem learnNew_of_off (off : (s.port p).record.learn = false) : s.learnNew a p = s := by
  unfold State.learnNew; rw [off]; rfl

theorem address_of_lookup (known : s.lookup a = some e) : e.address = a := by
  simpa using List.find?_some known

theorem moveStation_of_learning (known : s.lookup a = some e) (learns : (s.port p).record.learn = true) :
    s.moveStation e p =
      ((s.modifyStation a fun e => { e with origin := .learned 0, port := p, silence := 0 }).count fun k =>
        { k with moves := stoppingSucc k.moves }).raise .stationMoved a (portCharacter e.port) := by
  unfold State.moveStation; rw [if_pos learns, address_of_lookup known]

theorem moveStation_of_off (known : s.lookup a = some e) (off : (s.port p).record.learn = false) :
    s.moveStation e p = s.modifyStation a fun e => { e with silence := 0 } := by
  unfold State.moveStation; rw [off, address_of_lookup known]; rfl

theorem mapUpdateLearnsFromSource : MapUpdateLearnsFromSource := by
  intro a p s up learns
  refine ⟨fun unknown room => ?_, fun e known own => ?_, fun e known other learned => ?_, fun e known other static => ?_⟩
  · rw [updateMap_unknown unknown, if_neg (by simp [up]), learnNew_of_room learns room]
    exact ⟨rfl, rfl, rfl⟩
  · rw [updateMap_known known (.inl own), if_neg (by simp [up]), if_pos own, funext refreshed_eq]
    exact ⟨rfl, rfl⟩
  · rw [updateMap_known known (.inr learned), if_neg (by simp [up]), if_neg other, moveStation_of_learning known learns]
    exact ⟨rfl, rfl⟩
  · rw [updateMap_conflict known other static]
    exact ⟨rfl, rfl⟩

theorem learningNeverEvicts : LearningNeverEvicts := by
  intro a p s unknown
  rw [updateMap_unknown unknown]
  refine ⟨fun up learns full => ?_, fun idle => ?_⟩
  · rw [if_neg (by simp [up]), learnNew_of_full learns full]
    rfl
  · rcases idle with down | off
    · rw [if_pos down]
    · rw [learnNew_of_off off, ite_self]

theorem mapUpdateWithoutLearning : MapUpdateWithoutLearning := by
  intro a p e s known
  refine ⟨fun up _ own => ?_, fun up off other learned => ?_, fun down agrees => ?_, fun _ other static => ?_⟩
  · rw [updateMap_known known (.inl own), if_neg (by simp [up]), if_pos own, funext refreshed_eq]
    rfl
  · rw [updateMap_known known (.inr learned), if_neg (by simp [up]), if_neg other, moveStation_of_off known off]
    rfl
  · rw [updateMap_known known agrees, if_pos down]
  · rw [updateMap_conflict known other static]
    rfl

/-- Settles O23: one equation of the map update per case of Table 5-1. -/
theorem mapUpdateFollowsItsCases : Obligations.MapUpdateFollowsItsCases :=
  ⟨mapUpdateLearnsFromSource, learningNeverEvicts, mapUpdateWithoutLearning, insertionKeepsEntries⟩

/-! ## STATIC writes (R88, R89) -/

theorem evictionChoice_none (static : ∀ x ∈ l, x.origin = .static) : evictionChoice l = none := by
  induction l with
  | nil => rfl
  | cons x rest ih =>
    obtain ⟨first, later⟩ := List.forall_mem_cons.mp static
    unfold evictionChoice
    rw [ih later]
    simp [StationEntry.isLearned, first]

/-- What `evictionChoice` finds in a list: nothing where nothing is LEARNED, and otherwise a LEARNED entry no LEARNED entry
is evicted before. -/
def Chosen (l : List StationEntry) : Option StationEntry → Prop
  | none => ∀ x ∈ l, x.isLearned = false
  | some c => c ∈ l ∧ c.isLearned = true ∧ ∀ x ∈ l, x.isLearned = true → x.evictedBefore c = false

theorem evictedBefore_iff (e x : StationEntry) :
    e.evictedBefore x = true ↔ x.age < e.age ∨ (e.age = x.age ∧ e.address.toNat < x.address.toNat) := by
  simp [StationEntry.evictedBefore]

theorem evictedBefore_irrefl (e : StationEntry) : e.evictedBefore e = false := by
  simp [StationEntry.evictedBefore]

/-- An entry evicted before one that nothing of a list precedes is preceded by nothing of the list either. -/
theorem not_evictedBefore_trans {x c : StationEntry} (first : e.evictedBefore c = true)
    (kept : x.evictedBefore c = false) : x.evictedBefore e = false := by
  rw [← Bool.not_eq_true, evictedBefore_iff] at kept ⊢
  rw [evictedBefore_iff] at first
  omega

theorem chosen_evictionChoice (l : List StationEntry) : Chosen l (evictionChoice l) := by
  induction l with
  | nil => exact fun x hx => absurd hx List.not_mem_nil
  | cons e rest ih =>
    unfold evictionChoice
    cases later : evictionChoice rest with
    | none =>
      rw [later] at ih
      by_cases learned : e.isLearned = true
      · simp only [if_pos learned]
        refine ⟨List.mem_cons_self, learned, List.forall_mem_cons.mpr ⟨fun _ => evictedBefore_irrefl e, fun x hx hl => ?_⟩⟩
        rw [ih x hx] at hl
        exact absurd hl Bool.false_ne_true
      · simp only [if_neg learned]
        exact List.forall_mem_cons.mpr ⟨Bool.not_eq_true _ ▸ learned, ih⟩
    | some c =>
      rw [later] at ih
      obtain ⟨present, learned, best⟩ := ih
      by_cases before : (e.isLearned && e.evictedBefore c) = true
      · obtain ⟨learned_e, before⟩ := Bool.and_eq_true_iff.mp before
        simp only [learned_e, before, Bool.and_self, if_true]
        exact ⟨List.mem_cons_self, learned_e, List.forall_mem_cons.mpr
          ⟨fun _ => evictedBefore_irrefl e, fun x hx hl => not_evictedBefore_trans before (best x hx hl)⟩⟩
      · simp only [if_neg before]
        refine ⟨List.mem_cons_of_mem _ present, learned, List.forall_mem_cons.mpr ⟨fun hl => ?_, best⟩⟩
        rw [hl, Bool.true_and] at before
        exact Bool.not_eq_true _ ▸ before

theorem evictionChoice_of_evicted (evicted : Evicted l v) : evictionChoice l = some v := by
  have chosen := chosen_evictionChoice l
  cases choice : evictionChoice l with
  | none =>
    rw [choice] at chosen
    exact absurd evicted.learned (by simp [chosen v evicted.present])
  | some c =>
    rw [choice] at chosen
    obtain ⟨present, learned, best⟩ := chosen
    have nodup : (l.map (·.address)).Nodup := List.pairwise_map.mpr
      (evicted.ascending.imp fun less same => Nat.ne_of_lt less (congrArg BitVec.toNat same))
    have notBefore := best v evicted.present evicted.learned
    rw [← Bool.not_eq_true, evictedBefore_iff] at notBefore
    have oldest := evicted.oldest c present learned
    have same : c.address = v.address := BitVec.eq_of_toNat_eq (by omega)
    rw [List.inj_on_of_nodup_map nodup present evicted.present same]

theorem writeStatic_full (unknown : s.lookup e.address = none) (full : s.map.entries.length = 96) :
    s.writeStatic e = (evictionChoice s.map.entries).map fun x =>
      (s.removeStations (·.address == x.address)).addStation e := by
  unfold State.writeStatic
  rw [unknown]
  exact if_neg fun room => by rw [mapHasRoom_iff] at room; omega

theorem writeIntoFullMap : WriteIntoFullMap := by
  intro e s _ full unknown
  rw [writeStatic_full unknown full]
  refine ⟨fun static => ?_, fun v evicted => ?_⟩
  · rw [evictionChoice_none static]; rfl
  · rw [evictionChoice_of_evicted evicted]; rfl

/-- Settles O24: the eviction choice is the oldest LEARNED entry, by induction over the list. -/
theorem staticWriteEvictsOldestLearned : Obligations.StaticWriteEvictsOldestLearned :=
  ⟨writeIntoFullMap, insertionKeepsEntries⟩

end Sys2Proof.Statements
end

section
/-! PROOFS. Admissions to the transmit queues (R32, R33). -/

namespace Sys2Proof.Statements

open Sys2Proof.Machine Sys2Proof.Safety

variable {s t u : State} {p q : Port} {e d : QueueEntry} {before behind kept : List QueueEntry}

theorem joined_ne_nil (x : Transmitter) (e : QueueEntry) : x.joined e ≠ [] := fun empty =>
  absurd (joined_perm x e).length_eq (by rw [empty]; exact Nat.succ_ne_zero _ ∘ Eq.symm)

/-- A queue that has just been joined is not empty, so an IDLE transmitter of an ENABLED port wakes. -/
theorem wakeTransmitter_joined (a : AdminState) (x : Transmitter) (e : QueueEntry) :
    wakeTransmitter a { x with queue := x.joined e } = { x with
      queue := x.joined e, state := if a = .enabled ∧ x.state = .idle then .waitGap else x.state } := by
  unfold wakeTransmitter
  by_cases wakes : a = .enabled ∧ x.state = .idle
  · rw [if_pos ⟨wakes.1, wakes.2, joined_ne_nil x e⟩, if_pos wakes]
  · rw [if_neg fun h => wakes ⟨h.1, h.2.1⟩, if_neg wakes]

@[simp] theorem port_joinQueue_admitted (s : State) (p : Port) (e : QueueEntry) :
    (s.joinQueue p e).port p = admitted (s.port p) e := by
  rw [State.port_joinQueue_same, wakeTransmitter_joined]
  rfl

theorem joined_ordinary (x : Transmitter) (ordinary : e.band = .ordinary) : x.joined e = x.queue ++ [e] := by
  unfold Transmitter.joined; rw [ordinary]

theorem joined_priority (x : Transmitter) (priority : e.band = .priority) :
    x.joined e = x.inTransmission ++ behindPriority e x.waiting := by
  unfold Transmitter.joined; rw [priority]

theorem admissionWithRoom : AdmissionWithRoom := by
  intro p e s
  refine ⟨State.offer_down s e, fun ⟨up, room⟩ order => ⟨_, State.offer_room s e up room, State.joinQueue_only .., fun q ne =>
    State.port_joinQueue_other s e ne, port_joinQueue_admitted .., State.slot_joinQueue_same .., fun j ne =>
    State.slot_joinQueue_other _ _ _ ne, fun ordinary => ?_, fun priority => ?_⟩⟩
  · rw [port_joinQueue_admitted]
    exact joined_ordinary _ ordinary
  · rw [port_joinQueue_admitted]
    refine (joined_priority _ priority).trans ?_
    rw [behindPriority_of_inOrder e order, List.append_assoc]

/-! ## A full queue (R33) -/

/-- At a full queue the entry's band decides. -/
theorem offer_full_ordinary (up : (s.admin p).isDown = false) (full : (s.port p).transmitter.queue.length = 16)
    (ordinary : e.band = .ordinary) : s.offer p e = (s.refuseAtFull p, false) := by
  have noRoom : ¬ (s.port p).transmitter.queue.length < Config.queueCapacity := by rw [full]; exact Nat.lt_irrefl 16
  simp only [State.offer, up, noRoom, ordinary, Bool.false_eq_true, if_false]

theorem offer_full_priority_only (up : (s.admin p).isDown = false) (full : (s.port p).transmitter.queue.length = 16)
    (priority : e.band = .priority) (others : ∀ x ∈ (s.port p).transmitter.waiting, x.band = .priority) :
    s.offer p e = (s.refuseAtFull p, false) := by
  have noRoom : ¬ (s.port p).transmitter.queue.length < Config.queueCapacity := by rw [full]; exact Nat.lt_irrefl 16
  simp only [State.offer, up, noRoom, priority, takeYoungestOrdinary_none others, Bool.false_eq_true, if_false]

theorem offer_displaces (up : (s.admin p).isDown = false) (full : (s.port p).transmitter.queue.length = 16)
    (priority : e.band = .priority) (waits : (s.port p).transmitter.waiting = before ++ d :: behind)
    (ordinary : d.band = .ordinary) (last : ∀ x ∈ behind, x.band = .priority) :
    s.offer p e = ((s.displace p d (before ++ behind)).joinQueue p e, true) := by
  have noRoom : ¬ (s.port p).transmitter.queue.length < Config.queueCapacity := by rw [full]; exact Nat.lt_irrefl 16
  simp only [State.offer, up, noRoom, priority, waits, takeYoungestOrdinary_some before behind ordinary last,
    Bool.false_eq_true, if_false]

/-- The port of a full queue once an entry has left it for a PRIORITY one. -/
def displacing (x : LinePort) (kept : List QueueEntry) : LinePort :=
  { x with
    counters := { x.counters with displacements := stoppingSucc x.counters.displacements }
    transmitter := { x.transmitter with queue := x.transmitter.inTransmission ++ kept } }

theorem displace_eq (s : State) (p : Port) (d : QueueEntry) (kept : List QueueEntry) :
    s.displace p d kept = (s.modifyPort p fun x => displacing x kept).depart p .displaced d := by
  unfold State.displace State.countPort State.modifyTransmitter State.modifyPort displacing
  simp [four_set_set]

theorem port_displace_same (s : State) (p : Port) (d : QueueEntry) (kept : List QueueEntry) :
    (s.displace p d kept).port p = displacing (s.port p) kept := by
  rw [port_displace, if_pos rfl]
  rfl

theorem port_displace_other (s : State) (d : QueueEntry) (kept : List QueueEntry) (ne : q ≠ p) :
    (s.displace p d kept).port q = s.port q := by
  rw [port_displace, if_neg ne]

theorem displace_only (s : State) (p : Port) (d : QueueEntry) (kept : List QueueEntry) :
    s.displace p d kept = { s with
      ports := (s.displace p d kept).ports, slots := (s.displace p d kept).slots,
      words := announcedWords s p .displaced d } := by
  rw [displace_eq]
  conv_lhs => rw [(departuresAreAnnounced p .displaced d (s.modifyPort p fun x => displacing x kept)).1]
  rw [State.depart_ports]
  rfl

/-- The displaced entry's slot gives one reference back, and no other slot changes. -/
theorem displace_slots (s : State) (p : Port) (d : QueueEntry) (kept : List QueueEntry) :
    OnlySlot s (s.displace p d kept) d.slot ∧
    (1 < (s.slot d.slot).refs →
      (s.displace p d kept).slot d.slot = { s.slot d.slot with refs := (s.slot d.slot).refs - 1 }) ∧
    ((s.slot d.slot).refs = 1 → s.heldOutside d.slot = false → (s.displace p d kept).slot d.slot = Slot.empty) := by
  rw [displace_eq]
  obtain ⟨-, only, more, one⟩ := departuresAreAnnounced p .displaced d (s.modifyPort p fun x => displacing x kept)
  refine ⟨only, more, fun refs held => one refs (heldOutside_of_given_up held (fun q h => ?_) rfl rfl)⟩
  by_cases eq : q = p
  · rw [eq, State.port_modifyPort_same] at h
    rw [eq]
    exact h
  · rwa [State.port_modifyPort_other _ _ eq] at h

/-- The parts of the queue an entry has left: those in transmission stay, and `kept` waits. -/
theorem displacing_parts {x : LinePort} (some : x.transmitter.queue ≠ []) (kept : List QueueEntry) :
    (displacing x kept).transmitter.inTransmission = x.transmitter.inTransmission ∧
    (displacing x kept).transmitter.waiting = kept :=
  x.transmitter.parts_of_waiting kept some

/-- A PRIORITY entry joins the queue that one entry has left for it. -/
theorem displacedFor_admitted {x : LinePort} (full : x.transmitter.queue.length = 16) (priority : e.band = .priority)
    (waits : x.transmitter.waiting = before ++ d :: behind) :
    DisplacedFor x (admitted (displacing x (before ++ behind)) e) e (before ++ behind) := by
  obtain ⟨sending, waiting⟩ := displacing_parts (x := x) (List.ne_nil_of_length_eq_add_one full) (before ++ behind)
  have perm : ((displacing x (before ++ behind)).transmitter.joined e).Perm
      (e :: x.transmitter.inTransmission ++ (before ++ behind)) := joined_perm _ e
  refine ⟨rfl, ?_, perm, fun order => ?_⟩
  · have whole := congrArg List.length x.transmitter.inTransmission_append_waiting
    rw [waits, full] at whole
    refine perm.length_eq.trans ?_
    simp only [List.length_append, List.length_cons] at whole ⊢
    omega
  · have keeps : bandsInOrder (before ++ behind) := by
      rw [waits] at order
      exact order.sublist ((List.sublist_cons_self d behind).append_left before)
    refine (joined_priority _ priority).trans ?_
    rw [sending, waiting, behindPriority_of_inOrder e keeps, List.append_assoc]

theorem admissionToFullQueue : AdmissionToFullQueue := by
  intro p e s up full
  refine ⟨fun ordinary => offer_full_ordinary up full ordinary,
    fun priority others => offer_full_priority_only up full priority others,
    fun before behind d priority waits ordinary last ne => ?_⟩
  obtain ⟨only, more, one⟩ := displace_slots s p d (before ++ behind)
  refine ⟨_, offer_displaces up full priority waits ordinary last, ?_, fun q other => ?_, ?_, fun j nj njd => ?_, ?_, ?_,
    fun refs => ?_, fun refs held => ?_⟩
  · conv_lhs => rw [State.joinQueue_only, displace_only]
    rw [show ((s.displace p d (before ++ behind)).joinQueue p e).words = (s.displace p d (before ++ behind)).words from rfl,
      displace_only]
  · rw [State.port_joinQueue_other _ _ other, port_displace_other _ _ _ other]
  · rw [port_joinQueue_admitted, port_displace_same]
    exact displacedFor_admitted full priority waits
  · rw [State.slot_joinQueue_other _ _ _ nj, only j njd]
  · rw [State.slot_joinQueue_same, only e.slot ne.symm]
  · exact congrArg State.words (displace_only s p d (before ++ behind))
  · rw [State.slot_joinQueue_other _ _ _ ne, more refs]
  · rw [State.slot_joinQueue_other _ _ _ ne, one refs held]

/-- Settles O25: an admission joins, is refused, or displaces the youngest ORDINARY entry. -/
theorem admissionsFollowQueueRules : Obligations.AdmissionsFollowQueueRules :=
  ⟨admissionWithRoom, admissionToFullQueue, departuresAreAnnounced⟩

end Sys2Proof.Statements
end

section
/-! PROOFS. The first steps of a relay decision (R95 to R98), and what every later step finds. -/

namespace Sys2Proof.Statements

open Sys2Proof.Machine Sys2Proof.Safety

variable {s u v w z : State} {h : HeldFrame} {rest : List HeldFrame} {i : SlotId}

/-! ## The judgement of the addresses (R96 to R98) -/

theorem not_reserved_of_station {a : Byte} (station : isStationAddress a = true) : ¬ (a = 0x00 ∨ a = 0xFF) := by
  rintro (rfl | rfl) <;> exact absurd station (by decide)

/-- What the map update leaves as it was, whatever its verdict. -/
theorem updateMap_same {a : Byte} {p : Port} {verdict : Verdict} (update : s.updateMap a p = (u, verdict)) :
    u.slots = s.slots ∧ u.ports = s.ports ∧ u.management = s.management := by
  have only := updateMap_only s a p
  rw [update] at only
  dsimp only at only
  rw [only]
  exact ⟨rfl, rfl, rfl⟩

/-- After a map update that goes on the frame's destination is judged. -/
theorem Continues.exec_eq (d : Deciding s h rest) (c : Continues s u h) : exec .relayDecision s =
    .next (((withInput u rest).judgeDestination h (s.slot h.slot)).letGo h.slot) := by
  rw [d.exec_eq, c.judgeFrame_eq]

/-- A decision that ends after the map update, with only relay-wide counters changed, drops its frame. -/
theorem Continues.dropped {k : RelayCounters} (d : Deciding s h rest) (c : Continues s u h)
    (hz : z = { u with relay := { u.relay with input := rest }, counters := k }) :
    Dropped u (z.letGo h.slot) h rest k :=
  d.dropped c.same.1 c.same.2.1 c.same.2.2.1 hz

theorem judgeDestination_own {f : Slot} (some : f.destination ≠ 0x00) (own : f.destination = s.management.ownAddress) :
    s.judgeDestination h f = s.handOver h f := by
  unfold State.judgeDestination; rw [if_neg some, if_pos own]

theorem judgeDestination_elsewhere {f : Slot} (some : f.destination ≠ 0x00)
    (elsewhere : f.destination ≠ s.management.ownAddress) : s.judgeDestination h f = s.matchReply h f := by
  unfold State.judgeDestination; rw [if_neg some, if_neg elsewhere]

/-- Settles O26: the steps in their order, a frame dropped at each of them and a REQUEST for the relay handed over. -/
theorem decisionJudgesAddresses : Obligations.DecisionJudgesAddresses := by
  intro h rest s d
  dsimp only
  refine ⟨fun reserved => ⟨_, d.exec_eq, ?_⟩, fun station own => ⟨_, d.exec_eq, ?_⟩,
    fun u station notOwn update => ⟨_, d.exec_eq, ?_⟩, fun u c => ?_⟩
  · unfold State.judgeFrame
    rw [if_pos reserved]
    exact d.dropped rfl rfl rfl rfl
  · unfold State.judgeFrame
    rw [if_neg (not_reserved_of_station station), if_pos (show _ = (withInput s rest).management.ownAddress from own), own]
    exact d.dropped rfl rfl rfl rfl
  · obtain ⟨slots, ports, management⟩ := updateMap_same update
    unfold State.judgeFrame
    rw [if_neg (not_reserved_of_station station), if_neg (show _ ≠ (withInput s rest).management.ownAddress from notOwn),
      updateMap_withInput, update]
    exact d.dropped slots ports management rfl
  · have ownAddress : (withInput u rest).management = s.management := c.same.2.2.1
    have handed : (s.slot h.slot).destination ≠ 0x00 → (s.slot h.slot).destination = s.management.ownAddress →
        (withInput u rest).judgeDestination h (s.slot h.slot) = (withInput u rest).handOver h (s.slot h.slot) :=
      fun some own => judgeDestination_own some (by rw [ownAddress]; exact own)
    refine ⟨fun zero => ⟨_, c.exec_eq d, ?_⟩, fun some own other => ⟨_, c.exec_eq d, ?_⟩,
      fun some own request full => ⟨_, c.exec_eq d, ?_⟩, fun some own request room => ?_⟩
    · unfold State.judgeDestination
      rw [if_pos zero]
      exact c.dropped d rfl
    · rw [handed some own]
      unfold State.handOver
      rw [if_neg other]
      exact c.dropped d rfl
    · rw [handed some own]
      unfold State.handOver
      rw [if_pos request, ownAddress, if_neg (Nat.not_lt.mpr full)]
      exact c.dropped d rfl
    · rw [c.exec_eq d, handed some own]
      unfold State.handOver
      rw [if_pos request, ownAddress, if_pos (show s.management.queue.length < Config.requestCapacity from room),
        State.letGo_of_held _ ((State.heldOutside_iff _ _).mpr (.inr (.inr ⟨h, by simp, rfl⟩))), c.same.2.2.1]
      rfl

/-! ## The input list taken out of a closure (R95, R114) -/

/-- The input lists `l` and `rest` hold slot `i` alike. -/
def HoldAlike (l rest : List HeldFrame) (i : SlotId) : Prop := l.any (·.slot == i) = rest.any (·.slot == i)

theorem holdAlike_of_ne (ne : i ≠ h.slot) : HoldAlike (h :: rest) rest i := by
  have other : (h.slot == i) = false := beq_eq_false_iff_ne.mpr ne.symm
  unfold HoldAlike
  rw [List.any_cons, other, Bool.false_or]

theorem heldOutside_withInput (alike : HoldAlike s.relay.input rest i) :
    (withInput s rest).heldOutside i = s.heldOutside i := by
  have receivers : (withInput s rest).receiverHolds i = s.receiverHolds i := rfl
  unfold State.heldOutside
  rw [receivers, alike]
  rfl

theorem letGo_withInput (alike : HoldAlike s.relay.input rest i) :
    (withInput s rest).letGo i = withInput (s.letGo i) rest := by
  unfold State.letGo
  rw [heldOutside_withInput alike]
  rw [apply_ite (fun t => withInput t rest)]
  rfl

theorem releaseRef_withInput (alike : HoldAlike s.relay.input rest i) :
    (withInput s rest).releaseRef i = withInput (s.releaseRef i) rest :=
  letGo_withInput (s := s.modifySlot i fun f => { f with refs := f.refs - 1 }) alike

theorem announce_withInput (s : State) (rest : List HeldFrame) (p : Port) (e : QueueEntry) (m : Manner) :
    (withInput s rest).announce p e m = withInput (s.announce p e m) rest := by
  unfold State.announce
  cases e.origin with
  | relayed =>
    dsimp only
    rw [apply_ite (fun t => withInput t rest)]
    rfl
  | generated =>
    dsimp only
    rw [apply_ite (fun t => withInput t rest), apply_ite (fun t => withInput t rest)]
    rfl

theorem depart_withInput {p : Port} {e : QueueEntry} {m : Manner} (alike : HoldAlike s.relay.input rest e.slot) :
    (withInput s rest).depart p m e = withInput (s.depart p m e) rest := by
  unfold State.depart
  rw [releaseRef_withInput alike, announce_withInput]

theorem departs_withInput {p : Port} {m : Manner} {l : List QueueEntry} (alike : HoldAlike s.relay.input rest i)
    (names : ∀ e ∈ l, e.slot = i) :
    l.foldl (fun s e => s.depart p m e) (withInput s rest) = withInput (l.foldl (fun s e => s.depart p m e) s) rest := by
  induction l generalizing s with
  | nil => rfl
  | cons e l ih =>
    obtain ⟨here, later⟩ := List.forall_mem_cons.mp names
    rw [List.foldl_cons, List.foldl_cons, depart_withInput (by rw [here]; exact alike)]
    exact ih (by rw [(State.depart_traffic s p m e).fields.2.2.2.1]; exact alike) later

theorem withdrawAt_withInput {p : Port} (alike : HoldAlike s.relay.input rest i) :
    (withInput s rest).withdrawAt i p = withInput (s.withdrawAt i p) rest :=
  departs_withInput (s := s.modifyTransmitter p fun t =>
    restTransmitter { t with queue := t.inTransmission ++ t.waiting.filter (·.slot != i) }) alike
    fun e mem => by simpa using (List.mem_filter.mp mem).2

theorem withdraw_withInput (alike : HoldAlike s.relay.input rest i) :
    (withInput s rest).withdraw i = withInput (s.withdraw i) rest := by
  unfold State.withdraw
  induction allPorts generalizing s with
  | nil => rfl
  | cons p l ih =>
    rw [List.foldl_cons, List.foldl_cons, withdrawAt_withInput alike]
    exact ih (by rw [(State.withdrawAt_traffic s i p).fields.2.2.2.1]; exact alike)

/-- What a closure makes of a state from which the exchange's slot has been withdrawn. -/
def endClosure (x : Exchange) (c : Closure) (t : State) : State :=
  match c.report with
  | some r => ((t.releaseRef x.slot).count c.count).askReport r x.key x.requesterPort
  | none => (t.releaseRef x.slot).count c.count

theorem closeExchange_eq_end (s : State) (x : Exchange) (c : Closure) :
    s.closeExchange x c = endClosure x c (((s.dropRecord x).modifyWords (c.words x)).withdraw x.slot) := rfl

theorem endClosure_withInput {x : Exchange} {c : Closure} (alike : HoldAlike s.relay.input rest x.slot) :
    endClosure x c (withInput s rest) = withInput (endClosure x c s) rest := by
  unfold endClosure
  rw [releaseRef_withInput alike]
  cases c.report <;> rfl

theorem closeExchange_withInput {x : Exchange} {c : Closure} (alike : HoldAlike s.relay.input rest x.slot) :
    (withInput s rest).closeExchange x c = withInput (s.closeExchange x c) rest := by
  have withdrawn := withdraw_withInput (s := (s.dropRecord x).modifyWords (c.words x)) (i := x.slot) alike
  rw [closeExchange_eq_end, closeExchange_eq_end, ← endClosure_withInput, ← withdrawn]
  · rfl
  · rw [(State.withdraw_traffic _ _).fields.2.2.2.1]
    exact alike

/-! ## What reply matching leaves (R99, R100) -/

theorem closeExchange_receiver (s : State) (x : Exchange) (c : Closure) (p : Port) :
    ((s.closeExchange x c).port p).receiver = (s.port p).receiver := by
  obtain ⟨-, -, -, -, -, port, -⟩ := closed_closeExchange s x c
  rw [port p]

/-- A closure of another slot's exchange leaves the decision to make. -/
theorem Deciding.closeExchange {x : Exchange} {c : Closure} (d : Deciding s h rest) (ne : x.slot ≠ h.slot) :
    Deciding (s.closeExchange x c) h rest := by
  have only := s.closeExchange_only x c
  refine ⟨by rw [only]; exact d.inService, by rw [only]; exact d.input, ?_, ?_, d.once, by rw [only]; exact d.notQueued⟩
  · rw [State.slot_closeExchange_other s x c ne.symm]; exact d.refs
  · rw [← d.noReceiver]
    unfold State.receiverHolds
    simp only [closeExchange_receiver]

theorem Deciding.continues (d : Deciding s h rest) (c : Continues s u h) : Deciding u h rest := by
  obtain ⟨slots, ports, management, relay, -, -, phase⟩ := c.same
  refine ⟨by rw [phase]; exact d.inService, by rw [relay]; exact d.input, ?_, ?_, d.once,
    by rw [management]; exact d.notQueued⟩
  · rw [State.slot_congr slots]; exact d.refs
  · rw [← d.noReceiver]
    unfold State.receiverHolds
    simp only [State.port_congr ports]

/-- What is left when the frame reaches the rule list: the decision is still to make, on the same frame and the same relay
configuration. -/
structure LeftForRules (s u : State) (h : HeldFrame) (rest : List HeldFrame) : Prop where
  deciding : Deciding u h rest
  slot : u.slot h.slot = s.slot h.slot
  relay : u.relay = s.relay

theorem LeftForRules.ofContinues (d : Deciding s h rest) (c : Continues s u h) : LeftForRules s u h rest :=
  ⟨d.continues c, State.slot_congr c.same.1 _, c.same.2.2.2.1⟩

theorem LeftForRules.closeExchange {x : Exchange} {c : Closure} (l : LeftForRules s u h rest) (ne : x.slot ≠ h.slot) :
    LeftForRules s (u.closeExchange x c) h rest :=
  ⟨l.deciding.closeExchange ne, by rw [State.slot_closeExchange_other u x c ne.symm]; exact l.slot,
    by rw [u.closeExchange_only x c]; exact l.relay⟩

/-- The key a reply is matched under finds its exchange in the table. -/
theorem matchReply_closes {f : Slot} {x : Exchange} (reply : f.kind = .reply)
    (found : s.exchanges.find? (·.key == ⟨f.destination, f.source, f.tag⟩) = some x) :
    s.matchReply h f = (s.closeExchange x .byReply).applyRules h f := by
  have found' : s.findExchange f.replyKey = some x := found
  unfold State.matchReply
  rw [if_pos reply, found']

theorem findExchange_none {key : ExchangeKey} (orphan : ∀ x ∈ s.exchanges, x.key ≠ key) : s.findExchange key = none :=
  List.find?_eq_none.mpr fun x mem => by simpa using orphan x mem

theorem matchReply_orphan_drop {f : Slot} (reply : f.kind = .reply)
    (orphan : ∀ x ∈ s.exchanges, x.key ≠ ⟨f.destination, f.source, f.tag⟩) (drop : s.relay.orphanPolicy = .drop) :
    s.matchReply h f = s.count fun k => { k with orphanDrops := stoppingSucc k.orphanDrops } := by
  simp only [State.matchReply, if_pos reply, findExchange_none (key := f.replyKey) orphan, drop]

theorem matchReply_orphan_pass {f : Slot} (reply : f.kind = .reply)
    (orphan : ∀ x ∈ s.exchanges, x.key ≠ ⟨f.destination, f.source, f.tag⟩) (pass : s.relay.orphanPolicy = .pass) :
    s.matchReply h f = s.applyRules h f := by
  simp only [State.matchReply, if_pos reply, findExchange_none (key := f.replyKey) orphan, pass]

theorem matchReply_other {f : Slot} (other : f.kind ≠ .reply) : s.matchReply h f = s.applyRules h f := by
  unfold State.matchReply
  rw [if_neg other]

/-- A frame for another station whose source passes is matched and goes on. -/
theorem Continues.exec_elsewhere (d : Deciding s h rest) (c : Continues s u h) (some : (s.slot h.slot).destination ≠ 0x00)
    (elsewhere : (s.slot h.slot).destination ≠ s.management.ownAddress) :
    exec .relayDecision s = .next (((withInput u rest).matchReply h (s.slot h.slot)).letGo h.slot) := by
  rw [c.exec_eq d, judgeDestination_elsewhere some]
  rw [show (withInput u rest).management = s.management from c.same.2.2.1]
  exact elsewhere

/-- A frame that reaches the rule list is decided on by it. -/
theorem ReachesRules.exec_eq (r : ReachesRules s u h rest) : LeftForRules s u h rest ∧
    exec .relayDecision s = .next (((withInput u rest).applyRules h (s.slot h.slot)).letGo h.slot) := by
  obtain ⟨w, c, goesOn⟩ := r.goesOn
  have left := LeftForRules.ofContinues r.toDeciding c
  rw [c.exec_elsewhere r.toDeciding r.destination r.elsewhere]
  rcases goesOn with ⟨other, rfl⟩ | ⟨reply, orphan, pass, rfl⟩ | ⟨reply, x, found, ne, rfl⟩
  · exact ⟨left, by rw [matchReply_other other]⟩
  · refine ⟨left, ?_⟩
    rw [matchReply_orphan_pass (s := withInput u rest) reply orphan (by rw [← pass, ← left.relay]; rfl)]
  · refine ⟨left.closeExchange ne, ?_⟩
    rw [matchReply_closes (s := withInput w rest) reply found, closeExchange_withInput]
    rw [left.deciding.input]
    exact holdAlike_of_ne ne

end Sys2Proof.Statements
end

section
/-! PROOFS. A frame past reply matching: the rule list, the output set, and its admissions (R101 to R108). -/

namespace Sys2Proof.Statements

open Sys2Proof.Machine Sys2Proof.Safety

variable {s t u v w z : State} {h : HeldFrame} {rest : List HeldFrame} {i : SlotId} {p q : Port} {e : QueueEntry} {f : Slot}
  {l out : List Port} {n : Nat} {route : Route} {rules before behind : List Rule} {r : Rule}

/-! ## One frame offered to several ports (R32, R33) -/

/-- A port where an admission of `e` displaces nothing: it is down, or its queue admits or refuses. -/
def Judges (s : State) (q : Port) (e : QueueEntry) : Prop := (s.admin q).isDown = true ∨ AdmitsOrRefuses s q e

/-- Port `q` takes an entry: it is not down and its queue has room. -/
def takes (s : State) (q : Port) : Bool := !(s.admin q).isDown && decide ((s.port q).transmitter.queue.length < 16)

/-- What an admission that displaces nothing makes of port `q`. -/
def offeredAt (s : State) (q : Port) (e : QueueEntry) : LinePort :=
  if takes s q then admitted (s.port q) e else refusedAt s q

theorem takes_congr (same : t.port q = s.port q) : takes t q = takes s q := by
  unfold takes State.admin
  rw [same]

theorem offeredAt_congr (same : t.port q = s.port q) : offeredAt t q e = offeredAt s q e := by
  unfold offeredAt refusedAt
  rw [takes_congr same, same]
  unfold State.admin
  rw [same]

/-- An admission that displaces nothing. -/
theorem offer_judged (judged : Judges s p e) :
    (takes s p = true → s.offer p e = (s.joinQueue p e, true)) ∧
    (takes s p = false → (s.admin p).isDown = true ∧ s.offer p e = (s, false) ∨
      (s.admin p).isDown = false ∧ s.offer p e = (s.refuseAtFull p, false)) := by
  unfold takes
  cases down : (s.admin p).isDown with
  | true => exact ⟨nofun, fun _ => .inl ⟨rfl, State.offer_down s e down⟩⟩
  | false =>
    have judged : AdmitsOrRefuses s p e := judged.resolve_left (by rw [down]; exact Bool.false_ne_true)
    simp only [Bool.not_false, Bool.true_and, decide_eq_true_eq, decide_eq_false_iff_not]
    refine ⟨fun room => State.offer_room s e down room, fun noRoom => .inr ⟨trivial, ?_⟩⟩
    have full : (s.port p).transmitter.queue.length = 16 := Nat.le_antisymm judged.1 (Nat.le_of_not_lt noRoom)
    cases band : e.band with
    | ordinary => exact offer_full_ordinary down full band
    | priority =>
      rcases judged.2 full with ordinary | others
      · rw [ordinary] at band; exact absurd band nofun
      · exact offer_full_priority_only down full band others

/-- The entry `e` of `s` has been offered to the ports of `l`, and `n` of them have admitted it with no displacement. -/
structure OfferedAll (s t : State) (e : QueueEntry) (l : List Port) (n : Nat) : Prop where
  count : n = (l.filter (takes s)).length
  only : t = { s with ports := t.ports, slots := t.slots }
  ports : ∀ q, t.port q = if q ∈ l then offeredAt s q e else s.port q
  slot : t.slot e.slot = { s.slot e.slot with refs := (s.slot e.slot).refs + n }
  others : OnlySlot s t e.slot

/-- One admission that displaces nothing. -/
theorem offeredAll_one (judged : Judges s p e) :
    OfferedAll s (s.offer p e).1 e [p] (if (s.offer p e).2 then 1 else 0) := by
  obtain ⟨admits, refuses⟩ := offer_judged judged
  have other : ∀ t : State, (∀ q, q ≠ p → t.port q = s.port q) → t.port p = offeredAt s p e →
      ∀ q, t.port q = if q ∈ [p] then offeredAt s q e else s.port q := fun t others here q => by
    by_cases eq : q = p
    · rw [eq, if_pos (List.mem_singleton.mpr rfl), here]
    · rw [if_neg (mt List.mem_singleton.mp eq), others q eq]
  cases take : takes s p with
  | true =>
    rw [admits take]
    refine ⟨by simp [take], rfl, other _ (fun q => State.port_joinQueue_other s e) ?_, State.slot_joinQueue_same ..,
      fun j ne => State.slot_joinQueue_other _ _ _ ne⟩
    exact (port_joinQueue_admitted ..).trans (if_pos take).symm
  | false =>
    have here : offeredAt s p e = refusedAt s p := if_neg (by rw [take]; exact Bool.false_ne_true)
    rcases refuses take with ⟨down, eq⟩ | ⟨up, eq⟩ <;> rw [eq]
    · exact ⟨by simp [take], rfl, other _ (fun _ _ => rfl) (here.trans (if_pos down)).symm, rfl, fun _ _ => rfl⟩
    · refine ⟨by simp [take], rfl, other _ (fun q ne => State.port_countPort_other _ _ ne) ?_, rfl, fun _ _ => rfl⟩
      exact (State.port_countPort_same ..).trans (here.trans (if_neg (by rw [up]; exact Bool.false_ne_true))).symm

/-- Offers to ports that displace nothing. -/
theorem offerAll_judged (distinct : l.Nodup) (judged : ∀ q ∈ l, Judges s q e) :
    OfferedAll s (s.offerAll e l).1 e l (s.offerAll e l).2 := by
  induction l generalizing s with
  | nil => exact ⟨rfl, rfl, fun _ => rfl, rfl, fun _ _ => rfl⟩
  | cons p l ih =>
    obtain ⟨new, distinct⟩ := List.nodup_cons.mp distinct
    have first := offeredAll_one (judged p List.mem_cons_self)
    have step : s.offerAll e (p :: l) = (((s.offer p e).1.offerAll e l).1,
        if (s.offer p e).2 then ((s.offer p e).1.offerAll e l).2 + 1 else ((s.offer p e).1.offerAll e l).2) := rfl
    rw [step]
    generalize s.offer p e = one at first ⊢
    obtain ⟨s1, accepted⟩ := one
    dsimp only at first ⊢
    have later : ∀ q ∈ l, s1.port q = s.port q := fun q mem => by
      rw [first.ports q, if_neg fun here => new (by rw [← List.mem_singleton.mp here]; exact mem)]
    have rest := ih (s := s1) distinct fun q mem => by
      have same := later q mem
      unfold Judges AdmitsOrRefuses State.admin
      rw [same]
      exact judged q (List.mem_cons_of_mem _ mem)
    have countFirst : [p].filter (takes s) = if takes s p then [p] else [] := by
      cases take : takes s p <;> simp [take]
    refine ⟨?_, ?_, fun q => ?_, ?_, fun j ne => ?_⟩
    · have both := rest.count
      rw [List.filter_congr fun q mem => takes_congr (later q mem)] at both
      have one := first.count
      rw [both, List.filter_cons]
      cases take : takes s p <;> cases accepted <;> simp [take] at one ⊢
    · rw [rest.only, first.only]
    · rw [rest.ports q]
      by_cases eq : q = p
      · rw [eq, if_neg new, first.ports p, if_pos (List.mem_singleton.mpr rfl), if_pos List.mem_cons_self]
      · by_cases mem : q ∈ l
        · rw [if_pos mem, if_pos (List.mem_cons_of_mem _ mem), offeredAt_congr (later q mem)]
        · rw [if_neg mem, first.ports q, if_neg (mt List.mem_singleton.mp eq), if_neg (List.not_mem_cons_of_ne_of_not_mem eq mem)]
    · rw [rest.slot, first.slot]
      simp only [Slot.mk.injEq, true_and, and_true]
      split <;> omega
    · rw [rest.others j ne, first.others j ne]

/-! ## Matching rules (R102) -/

theorem ruleMatchesByItsFields : RuleMatchesByItsFields := by
  intro r h f
  unfold RuleFields.matchesFrame
  simp only [Bool.and_eq_true, decide_eq_true_eq, and_assoc]
  cases f.kind <;> rfl

theorem FirstMatch.matches (m : FirstMatch rules h f before r behind) : r.fields.matchesFrame h f = true := by
  unfold RuleFields.matchesFrame
  simp only [Bool.and_eq_true, decide_eq_true_eq]
  exact ⟨⟨⟨m.source, m.destination⟩, m.kind⟩, m.ingress⟩

theorem firstMatch_of_none (no : ∀ r ∈ rules, r.fields.matchesFrame h f = false) : firstMatch h f rules = none := by
  induction rules with
  | nil => rfl
  | cons r rules ih =>
    obtain ⟨first, later⟩ := List.forall_mem_cons.mp no
    unfold firstMatch
    rw [first, ih later]
    rfl

theorem firstMatch_append (no : ∀ x ∈ before, x.fields.matchesFrame h f = false)
    (hit : r.fields.matchesFrame h f = true) : firstMatch h f (before ++ r :: behind) =
      some (r.fields, before ++ { r with hits := stoppingSucc r.hits } :: behind) := by
  induction before with
  | nil => exact if_pos hit
  | cons x before ih =>
    obtain ⟨first, later⟩ := List.forall_mem_cons.mp no
    rw [List.cons_append, firstMatch, first, ih later]
    rfl

theorem FirstMatch.eq_some (m : FirstMatch rules h f before r behind) : firstMatch h f rules =
    some (r.fields, before ++ { r with hits := stoppingSucc r.hits } :: behind) := by
  rw [m.place]
  exact firstMatch_append m.earlier m.matches

/-- `s` with another rule list. -/
def withRules (s : State) (rules : List Rule) : State := { s with relay := { s.relay with rules := rules } }

theorem applyRules_of_none (no : ∀ r ∈ s.relay.rules, r.fields.matchesFrame h f = false) :
    (s.relay.defaultAction = .drop → s.applyRules h f = s.dropByRule) ∧
    (s.relay.defaultAction = .pass → s.applyRules h f = s.routeFrame h f .normal) := by
  constructor <;> intro default <;> simp only [State.applyRules, firstMatch_of_none no, default]

theorem applyRules_of_first (m : FirstMatch s.relay.rules h f before r behind) :
    (r.fields.action = .drop → s.applyRules h f = (hitCounted s before r behind).dropByRule) ∧
    (r.fields.action = .pass → s.applyRules h f = (hitCounted s before r behind).routeFrame h f .normal) ∧
    (r.fields.action = .redirect →
      s.applyRules h f = (hitCounted s before r behind).routeFrame h f (.redirect r.fields.redirectPort)) := by
  refine ⟨fun action => ?_, fun action => ?_, fun action => ?_⟩ <;>
    simp only [State.applyRules, m.eq_some, action, hitCounted]

/-- What the rule list leaves of the state: its hit counts alone may differ. -/
theorem GoesOnFromRules.withRules (g : GoesOnFromRules s u v h route) (same : u.relay = s.relay)
    (slot : u.slot h.slot = s.slot h.slot) :
    (∃ rules, v = withRules u rules) ∧
      (withInput u rest).applyRules h (s.slot h.slot) = (withInput v rest).routeFrame h (s.slot h.slot) route := by
  rcases g with ⟨no, pass, rfl, rfl⟩ | ⟨before, r, behind, m, rfl, action⟩
  · refine ⟨⟨v.relay.rules, rfl⟩, (applyRules_of_none (s := withInput v rest) ?_).2 ?_⟩
    · rw [← same] at no; exact no
    · rw [← same] at pass; exact pass
  · refine ⟨⟨_, rfl⟩, ?_⟩
    rw [← same] at m
    obtain ⟨-, passes, redirects⟩ := applyRules_of_first (s := withInput u rest) m
    rcases action with ⟨pass, rfl⟩ | ⟨redirect, rfl⟩
    · exact passes pass
    · exact redirects redirect

/-! ## The output set (R105) -/

theorem filter_eq_port (p : Port) (c : Port → Bool) : allPorts.filter (fun q => c q && decide (q = p)) = [p].filter c := by
  have single : allPorts.filter (fun q => decide (q = p)) = [p] := by revert p; decide
  rw [← single, List.filter_filter]

theorem startingSet_eq_none (no : ¬ HasStartingSet s h f.destination route) : s.startingSet h f route = none := by
  unfold HasStartingSet at no
  push Not at no
  obtain ⟨normal, station, unknown, floods⟩ := no
  have floods : (s.port h.ingress).record.floodUnknown = false := Bool.not_eq_true _ ▸ floods
  simp only [State.startingSet, normal, if_neg station, unknown, floods, Bool.false_eq_true, if_false]

/-- The starting set less what it may not hold is the output set of the statements. -/
theorem outputSet_eq (start : HasStartingSet s h f.destination route) :
    ∃ ports, s.startingSet h f route = some ports ∧ s.outputSet h ports = outputPorts s h f.destination route := by
  have direct : ∀ p : Port, s.outputSet h [p] =
      allPorts.filter fun q => (decide (q ≠ h.ingress) && !(s.admin q).isDown) && decide (q = p) := fun p => by
    rw [filter_eq_port]
    unfold State.outputSet
    exact List.filter_congr fun q _ => by simp [bne, beq_eq_decide]
  have everywhere : ∀ c : Port → Bool, (∀ q, c q = true) → s.outputSet h allPorts =
      allPorts.filter fun q => (decide (q ≠ h.ingress) && !(s.admin q).isDown) && c q := fun c all => by
    unfold State.outputSet
    exact List.filter_congr fun q _ => by simp [all, bne, beq_eq_decide]
  unfold State.startingSet outputPorts
  cases route with
  | redirect p => exact ⟨_, rfl, direct p⟩
  | normal =>
    by_cases broadcast : f.destination = 0xFF
    · simp only [if_pos broadcast]
      exact ⟨_, rfl, everywhere _ fun q => by simp [broadcast]⟩
    · simp only [if_neg broadcast]
      cases known : s.lookup f.destination with
      | some e =>
        refine ⟨_, rfl, (direct e.port).trans (List.filter_congr fun q _ => ?_)⟩
        have station : (f.destination == 255#8) = false := beq_eq_false_iff_ne.mpr broadcast
        simp [station, eq_comm]
      | none =>
        have floods : (s.port h.ingress).record.floodUnknown = true := by
          rcases start with other | isBroadcast | isKnown | floods
          · exact absurd rfl other
          · exact absurd isBroadcast broadcast
          · exact absurd known isKnown
          · exact floods
        simp only [floods, if_true]
        exact ⟨_, rfl, everywhere _ fun q => by simp⟩

theorem routeFrame_hopLimit (hop : f.hop = 3) :
    s.routeFrame h f route = s.count fun k => { k with hopLimit := stoppingSucc k.hopLimit } := if_pos hop

theorem routeFrame_unknown (hop : f.hop ≠ 3) (no : ¬ HasStartingSet s h f.destination route) :
    s.routeFrame h f route = s.count fun k => { k with unknown := stoppingSucc k.unknown } := by
  simp only [State.routeFrame, if_neg hop, startingSet_eq_none no]

theorem routeFrame_local (hop : f.hop ≠ 3) (start : HasStartingSet s h f.destination route)
    (empty : outputPorts s h f.destination route = []) :
    s.routeFrame h f route = s.count fun k => { k with localDrops := stoppingSucc k.localDrops } := by
  obtain ⟨ports, starting, output⟩ := outputSet_eq start
  simp only [State.routeFrame, if_neg hop, starting, output, empty, if_true]

theorem routeFrame_carries (hop : f.hop ≠ 3) (start : HasStartingSet s h f.destination route)
    (some : outputPorts s h f.destination route ≠ []) :
    s.routeFrame h f route = s.openAndCarry h f (outputPorts s h f.destination route) := by
  obtain ⟨ports, starting, output⟩ := outputSet_eq start
  simp only [State.routeFrame, if_neg hop, starting, output, if_neg some]

theorem outputPorts_nodup : (outputPorts s h f.destination route).Nodup :=
  List.Nodup.filter _ (by decide)

theorem outputPorts_up (mem : q ∈ outputPorts s h f.destination route) : (s.admin q).isDown = false := by
  obtain ⟨-, holds⟩ := List.mem_filter.mp mem
  simp only [Bool.and_eq_true, Bool.not_eq_true'] at holds
  exact holds.1.2

/-! ## Carrying (R107, R108) -/

theorem band_relayedEntry (f : Slot) (i : SlotId) :
    (⟨f.kind.band, 0, .relayed, i⟩ : QueueEntry) = relayedEntry f i := by
  unfold relayedEntry
  cases f.kind <;> rfl

theorem raiseHop_refs (f : Slot) (n : Nat) : ({ f with refs := n } : Slot).raiseHop = { f.raiseHop with refs := n } := rfl

theorem slot_carry (z : State) (h : HeldFrame) (f : Slot) (out : List Port) :
    z.carry h f out = (z.modifySlot h.slot Slot.raiseHop).offerAll (relayedEntry f h.slot) out := by
  unfold State.carry
  rw [band_relayedEntry]

/-- A frame carried to ports that admit or refuse it. -/
theorem carry_judged (distinct : out.Nodup) (judged : ∀ q ∈ out, AdmitsOrRefuses z q (relayedEntry f h.slot)) :
    OfferedAll (z.modifySlot h.slot Slot.raiseHop) (z.carry h f out).1 (relayedEntry f h.slot) out (z.carry h f out).2 := by
  rw [slot_carry]
  exact offerAll_judged distinct fun q mem => .inr (judged q mem)

theorem openAndCarry_opensNone (none : f.kind ≠ .request ∨ f.destination = 0xFF) :
    z.openAndCarry h f out = (z.carry h f out).1 :=
  if_neg fun ⟨request, station⟩ => none.elim (fun other => other request) fun broadcast => station broadcast

theorem offeredAt_receiver (s : State) (q : Port) (e : QueueEntry) : (offeredAt s q e).receiver = (s.port q).receiver := by
  unfold offeredAt
  split
  · rfl
  · unfold refusedAt
    split <;> rfl

theorem OfferedAll.heldOutside (o : OfferedAll s t e l n) (free : s.heldOutside i = false) : t.heldOutside i = false := by
  have only := o.only
  refine heldOutside_of_given_up free (fun q current => ?_) (by rw [only]) (by rw [only])
  rw [o.ports q] at current
  split at current
  · rwa [offeredAt_receiver] at current
  · exact current

/-- The frame's slot once it is let go: it stands with the references of its copies, or is FREE with none. -/
theorem OfferedAll.letGo (o : OfferedAll s t e l n) (refs : (s.slot e.slot).refs = 0)
    (free : s.heldOutside e.slot = false) :
    (t.letGo e.slot).slot e.slot = if n = 0 then Slot.empty else { s.slot e.slot with refs := n } := by
  have slot := o.slot
  rw [refs, Nat.zero_add] at slot
  rw [State.slot_letGo_same, slot, o.heldOutside free]
  simp

end Sys2Proof.Statements
end

section
/-! PROOFS. What becomes of a frame past the rule list, and of the exchange its request opens or its reply closes. -/

namespace Sys2Proof.Statements

open Sys2Proof.Machine Sys2Proof.Safety

variable {s t u v w z : State} {h : HeldFrame} {rest : List HeldFrame} {i : SlotId} {p q : Port} {e : QueueEntry} {f : Slot}
  {l out : List Port} {n : Nat} {route : Route} {rules before behind : List Rule} {r : Rule}

/-! ## Past the rule list (O27) -/

theorem PassesRules.exec_eq (c : PassesRules s u v h rest route) : LeftForRules s u h rest ∧
    (∃ rules, v = withRules u rules) ∧
    exec .relayDecision s = .next (((withInput v rest).routeFrame h (s.slot h.slot) route).letGo h.slot) := by
  obtain ⟨left, run⟩ := c.toReachesRules.exec_eq
  obtain ⟨only, applied⟩ := c.rules.withRules (rest := rest) left.relay left.slot
  exact ⟨left, only, by rw [run, applied]⟩

/-- A decision that ends with counters alone changed past the rule list drops its frame. -/
theorem Deciding.dropped_withRules {k : RelayCounters} (d : Deciding u h rest) (rules : List Rule)
    (hz : z = { withRules u rules with relay := { (withRules u rules).relay with input := rest }, counters := k }) :
    Dropped (withRules u rules) (z.letGo h.slot) h rest k :=
  d.dropped rfl rfl rfl hz

/-- A frame taken out of the input list is held outside the count by nothing. -/
theorem Deciding.free_withInput (d : Deciding u h rest) (rules : List Rule) :
    (withInput (withRules u rules) rest).heldOutside h.slot = false := d.released rfl rfl rfl

/-- Offers made of a state that has the ports of `u`, and its slots but for the frame's own. -/
theorem OfferedAll.offeredTo (o : OfferedAll z t (relayedEntry (u.slot h.slot) h.slot) out n)
    (up : ∀ q ∈ out, (u.admin q).isDown = false) (ports : ∀ q, z.port q = u.port q) (others : OnlySlot u z h.slot) :
    OfferedTo u t h out ∧ n = (portsWithRoom u out).length := by
  have admits : ∀ q ∈ out, takes z q = decide ((u.port q).transmitter.queue.length < 16) := fun q mem => by
    rw [takes_congr (ports q)]
    unfold takes
    rw [up q mem, Bool.not_false, Bool.true_and]
  have room : ∀ q ∈ out, (q ∈ portsWithRoom u out ↔ takes z q = true) := fun q mem => by
    simp [portsWithRoom, mem, admits]
  refine ⟨⟨fun q mem => ?_, fun q mem full => ?_, fun q other => ?_, fun j ne => ?_⟩, ?_⟩
  · have inside : q ∈ out := List.mem_of_mem_filter mem
    rw [o.ports q, if_pos inside]
    unfold offeredAt
    rw [if_pos ((room q inside).mp mem), ports]
  · rw [o.ports q, if_pos mem]
    unfold offeredAt refusedAt
    rw [if_neg fun k => full ((room q mem).mpr k), ports, show z.admin q = u.admin q from congrArg (·.record.admin) (ports q),
      up q mem]
    rfl
  · rw [o.ports q, if_neg other, ports]
  · rw [o.others j ne, others j ne]
  · rw [o.count, List.filter_congr admits]
    rfl

theorem OfferedTo.letGo (o : OfferedTo u t h out) : OfferedTo u (t.letGo h.slot) h out := by
  obtain ⟨admits, refuses, outside, others⟩ := o
  have ports : ∀ q, (t.letGo h.slot).port q = t.port q := State.port_congr (by simp)
  refine ⟨fun q mem => ?_, fun q mem full => ?_, fun q other => ?_, fun j ne => ?_⟩
  · rw [ports]; exact admits q mem
  · rw [ports]; exact refuses q mem full
  · rw [ports]; exact outside q other
  · rw [State.slot_letGo_other _ ne]; exact others j ne

/-- A frame whose slot has been offered and let go. -/
theorem offeredTo_of_offeredAll (d : Deciding u h rest) (up : ∀ q ∈ out, (u.admin q).isDown = false)
    (o : OfferedAll ((withInput (withRules u rules) rest).modifySlot h.slot Slot.raiseHop) t
      (relayedEntry (u.slot h.slot) h.slot) out n) :
    t.letGo h.slot = { withRules u rules with
      relay := { (withRules u rules).relay with input := rest }, ports := (t.letGo h.slot).ports,
      slots := (t.letGo h.slot).slots } ∧
    OfferedTo u (t.letGo h.slot) h out ∧ n = (portsWithRoom u out).length ∧
    (t.letGo h.slot).slot h.slot = if n = 0 then Slot.empty else { (u.slot h.slot).raiseHop with refs := n } := by
  have here : ((withInput (withRules u rules) rest).modifySlot h.slot Slot.raiseHop).slot h.slot =
      (u.slot h.slot).raiseHop := State.slot_modifySlot_same ..
  have slot := o.letGo
    (by rw [show (relayedEntry (u.slot h.slot) h.slot).slot = h.slot from rfl, here]; exact d.refs) (d.free_withInput rules)
  rw [show (relayedEntry (u.slot h.slot) h.slot).slot = h.slot from rfl, here] at slot
  obtain ⟨offered, count⟩ := o.offeredTo up (fun _ => rfl) fun j ne => State.slot_modifySlot_other _ _ ne
  exact ⟨by rw [State.letGo_only, o.only]; rfl, offered.letGo, count, slot⟩

theorem portsWithRoom_of_all (room : ∀ q ∈ out, HasRoom u q) : portsWithRoom u out = out :=
  List.filter_eq_self.mpr fun q mem => decide_eq_true (room q mem).2

theorem admitsOrRefuses_of_room (room : HasRoom u q) : AdmitsOrRefuses u q e :=
  ⟨Nat.le_of_lt room.2, fun full => absurd room.2 (by rw [full]; exact Nat.lt_irrefl 16)⟩

/-- Settles O27: unknown, local, or carried to the output set. -/
theorem decisionCarriesFrame : Obligations.DecisionCarriesFrame := by
  intro h rest s u v route c
  dsimp only
  obtain ⟨left, ⟨rules, rfl⟩, run⟩ := c.exec_eq
  have d := left.deciding
  obtain ⟨f, hf⟩ : ∃ f, f = s.slot h.slot := ⟨_, rfl⟩
  have hop : f.hop ≠ 3 := by rw [hf]; exact c.hops
  have uslot : u.slot h.slot = f := by rw [hf]; exact left.slot
  rw [← hf] at run ⊢
  obtain ⟨out, hout⟩ : ∃ out, out = outputPorts u h f.destination route := ⟨_, rfl⟩
  have carried : f.kind ≠ .request ∨ f.destination = 0xFF → HasStartingSet u h f.destination route → out ≠ [] →
      exec .relayDecision s = .next (((withInput (withRules u rules) rest).carry h f out).1.letGo h.slot) :=
    fun none start some => by
      rw [hout] at some ⊢
      rw [run, routeFrame_carries (s := withInput (withRules u rules) rest) hop start some, openAndCarry_opensNone none]
      rfl
  have offered : (∀ q ∈ out, AdmitsOrRefuses u q (relayedEntry f h.slot)) → OfferedAll
      ((withInput (withRules u rules) rest).modifySlot h.slot Slot.raiseHop)
      ((withInput (withRules u rules) rest).carry h f out).1 (relayedEntry (u.slot h.slot) h.slot) out
      ((withInput (withRules u rules) rest).carry h f out).2 := fun judged => by
    rw [uslot]
    exact carry_judged (by rw [hout]; exact outputPorts_nodup) judged
  have up : ∀ q ∈ out, (u.admin q).isDown = false := fun q mem => outputPorts_up (s := u) (by rw [← hout]; exact mem)
  rw [← hout]
  refine ⟨fun no => ⟨_, run, ?_⟩, fun start empty => ⟨_, run, ?_⟩, fun none start some => ?_,
    fun none start some room => ⟨_, carried none start some, ?_⟩,
    fun none start some judged => ⟨_, carried none start some, ?_⟩⟩
  · rw [routeFrame_unknown (s := withInput (withRules u rules) rest) hop no]
    exact d.dropped_withRules rules rfl
  · rw [routeFrame_local (s := withInput (withRules u rules) rest) hop start (hout.symm.trans empty)]
    exact d.dropped_withRules rules rfl
  · rw [carried none start some, slot_carry]
    rfl
  · obtain ⟨only, ⟨admits, -, outside, others⟩, count, slot⟩ :=
      offeredTo_of_offeredAll d up (offered fun q mem => admitsOrRefuses_of_room (room q mem))
    rw [portsWithRoom_of_all room] at admits count
    rw [count, if_neg (List.length_pos_iff.mpr some).ne'] at slot
    exact ⟨only, admits, outside, slot, others⟩
  · obtain ⟨only, offeredTo, count, slot⟩ := offeredTo_of_offeredAll d up (offered judged)
    rw [count] at slot
    refine ⟨only, offeredTo, fun some => ?_, fun none => ?_⟩
    · rw [slot, if_neg (List.length_pos_iff.mpr some).ne']
    · rw [slot, none]
      rfl

/-! ## What the first matching rule decides (O28) -/

theorem hitCounted_eq (u : State) (before : List Rule) (r : Rule) (behind : List Rule) : hitCounted u before r behind =
    withRules u (before ++ { r with hits := stoppingSucc r.hits } :: behind) := rfl

/-- A redirect to the ingress port or to a port that is down has no output port, any other one. -/
theorem outputPorts_redirect (u : State) (h : HeldFrame) (d : Byte) (p : Port) :
    outputPorts u h d (.redirect p) = if p = h.ingress ∨ (u.admin p).isDown = true then [] else [p] := by
  unfold outputPorts
  rw [filter_eq_port]
  by_cases back : p = h.ingress
  · simp [back]
  · cases down : (u.admin p).isDown <;> simp [back, down]

theorem rulesDecide : RulesDecide := by
  intro h rest s u c
  dsimp only
  obtain ⟨left, run⟩ := c.exec_eq
  have d := left.deciding
  have relay := left.relay
  refine ⟨fun no => ?_, fun before behind r first => ?_⟩
  · have no : ∀ r ∈ (withInput u rest).relay.rules, r.fields.matchesFrame h (s.slot h.slot) = false := by
      rw [← relay] at no; exact no
    obtain ⟨drops, passes⟩ := applyRules_of_none no
    refine ⟨fun drop => ⟨_, run, ?_⟩, fun pass hop => ⟨_, run, ?_⟩⟩
    · rw [drops (by rw [← relay] at drop; exact drop)]
      exact d.dropped rfl rfl rfl rfl
    · rw [passes (by rw [← relay] at pass; exact pass), routeFrame_hopLimit hop]
      exact d.dropped rfl rfl rfl rfl
  · have here : FirstMatch (withInput u rest).relay.rules h (s.slot h.slot) before r behind := by
      rw [← relay] at first; exact first
    obtain ⟨drops, passes, redirects⟩ := applyRules_of_first here
    have passesRules : r.fields.action = .redirect → (s.slot h.slot).hop ≠ 3 →
        PassesRules s u (hitCounted u before r behind) h rest (.redirect r.fields.redirectPort) := fun redirect hop =>
      ⟨c, .inr ⟨before, r, behind, first, rfl, .inr ⟨redirect, rfl⟩⟩, hop⟩
    refine ⟨fun drop => ⟨_, run, ?_⟩, fun action hop => ⟨_, run, ?_⟩, fun redirect hop dead => ?_,
      fun redirect hop away room opensNone => ?_⟩
    · rw [drops drop]
      exact d.dropped_withRules _ rfl
    · cases act : r.fields.action with
      | drop => exact absurd act action
      | pass =>
        rw [passes act, routeFrame_hopLimit hop]
        exact d.dropped_withRules _ rfl
      | redirect =>
        rw [redirects act, routeFrame_hopLimit hop]
        exact d.dropped_withRules _ rfl
    · obtain ⟨-, isLocal, -⟩ := decisionCarriesFrame h rest s u _ _ (passesRules redirect hop)
      exact isLocal (.inl nofun) (by rw [outputPorts_redirect, if_pos dead])
    · obtain ⟨-, -, -, carries, -⟩ := decisionCarriesFrame h rest s u _ _ (passesRules redirect hop)
      have out : outputPorts u h (s.slot h.slot).destination (.redirect r.fields.redirectPort) = [r.fields.redirectPort] := by
        rw [outputPorts_redirect, if_neg (by rw [room.1]; simp [away])]
      rw [out] at carries
      exact carries opensNone (.inl nofun) (by simp) (by simpa using room)

/-- Settles O28: the list is searched for its first match, whose action decides. -/
theorem firstMatchingRuleDecides : Obligations.FirstMatchingRuleDecides := ⟨ruleMatchesByItsFields, rulesDecide⟩

end Sys2Proof.Statements
end

section
/-! PROOFS. The exchange that a request opens and the one that a reply closes (R106, R99, R114). -/

namespace Sys2Proof.Statements

open Sys2Proof.Machine Sys2Proof.Safety

variable {s t u v w z : State} {h : HeldFrame} {rest : List HeldFrame} {i : SlotId} {p q : Port} {d e : QueueEntry} {f : Slot}
  {x : Exchange} {c : Closure} {l out kept : List Port} {n : Nat} {route : Route} {rules : List Rule}

/-! ## What a closure leaves of ports and words (R114) -/

theorem port_closeExchange (s : State) (x : Exchange) (c : Closure) (p : Port) :
    (s.closeExchange x c).port p = { s.port p with
      transmitter := restTransmitter { (s.port p).transmitter with
        queue := (s.port p).transmitter.inTransmission ++ (s.port p).transmitter.waiting.filter (·.slot != x.slot) } } := by
  obtain ⟨t, rfl, close⟩ := closeExchange_parts s x c
  rw [close]
  exact (State.port_congr (by simp) p).trans (State.port_withdraw ((s.dropRecord x).modifyWords (c.words x)) x.slot p)

theorem words_closeExchange (s : State) (x : Exchange) (c : Closure) : (s.closeExchange x c).words = c.words x s.words := by
  obtain ⟨t, rfl, close⟩ := closeExchange_parts s x c
  rw [close, State.withdraw_only]
  simp

/-- A queue that names the slot nowhere stays, and with it its port where no WAIT_GAP stands on an empty queue. -/
theorem port_closeExchange_of_absent (absent : ∀ e ∈ (s.port p).transmitter.queue, e.slot ≠ x.slot)
    (waits : (s.port p).transmitter.state = .waitGap → (s.port p).transmitter.queue ≠ []) :
    (s.closeExchange x c).port p = s.port p := by
  rw [← (s.port p).transmitter.inTransmission_append_waiting] at absent
  have all : (s.port p).transmitter.waiting.filter (·.slot != x.slot) = (s.port p).transmitter.waiting :=
    List.filter_eq_self.mpr fun e mem => by simpa using absent e (List.mem_append_right _ mem)
  rw [port_closeExchange, all, Transmitter.inTransmission_append_waiting]
  unfold restTransmitter
  rw [if_neg fun ⟨wait, empty⟩ => waits wait empty]

/-! ## A request's exchange (R106, R113) -/

theorem newExchange_eq (s : State) (h : HeldFrame) (f : Slot) (out : List Port) :
    s.newExchange h f out = openedRecord s h f out := by
  match out with
  | [] => rfl
  | [p] => rfl
  | p :: q :: l => rfl

theorem openAndCarry_duplicate (request : f.kind = .request) (station : f.destination ≠ 0xFF)
    (dup : ∃ x ∈ s.exchanges, x.key = ⟨f.source, f.destination, f.tag⟩) :
    s.openAndCarry h f out = s.count fun k => { k with duplicate := stoppingSucc k.duplicate } := by
  have found : (s.findExchange f.requestKey).isSome = true := by
    obtain ⟨x, mem, key⟩ := dup
    exact List.find?_isSome.mpr ⟨x, mem, beq_iff_eq.mpr key⟩
  unfold State.openAndCarry
  rw [if_pos ⟨request, station⟩, if_pos found]

theorem openAndCarry_new (request : f.kind = .request) (station : f.destination ≠ 0xFF)
    (new : ∀ x ∈ s.exchanges, x.key ≠ ⟨f.source, f.destination, f.tag⟩) :
    (s.exchanges.length < 16 → s.openAndCarry h f out = s.carryRequest h f out) ∧
    (16 ≤ s.exchanges.length → s.openAndCarry h f out =
      (s.count fun k => { k with exchangesFull := stoppingSucc k.exchangesFull }).askReport (.busy .exchangesFull)
        ⟨f.source, f.destination, f.tag⟩ h.ingress) := by
  have notFound : ¬ (s.findExchange f.requestKey).isSome = true := by
    rw [findExchange_none (key := f.requestKey) new]
    exact Bool.false_ne_true
  unfold State.openAndCarry
  rw [if_pos ⟨request, station⟩, if_neg notFound]
  exact ⟨fun room => if_pos room, fun full => if_neg (Nat.not_lt.mpr full)⟩

theorem carryRequest_eq (z : State) (h : HeldFrame) (f : Slot) (out : List Port) : z.carryRequest h f out =
    let carried := (z.openExchange (openedRecord z h f out)).carry h f out
    if carried.2 = 0 then carried.1.closeExchange (openedRecord z h f out) .busy else carried.1 := by
  unfold State.carryRequest
  rw [newExchange_eq]
  dsimp only
  generalize (z.openExchange (openedRecord z h f out)).carry h f out = carried
  obtain ⟨t, n⟩ := carried
  cases n <;> rfl

/-- The state in which a request is offered: its exchange open, its hop count raised. -/
def opened (u : State) (rules : List Rule) (rest : List HeldFrame) (h : HeldFrame) (out : List Port) : State :=
  ((withInput (withRules u rules) rest).openExchange (openedRecord u h (u.slot h.slot) out)).modifySlot h.slot Slot.raiseHop

theorem slot_opened (d : Deciding u h rest) :
    (opened u rules rest h out).slot h.slot = { (u.slot h.slot).raiseHop with refs := 1 } := by
  unfold opened
  rw [State.slot_modifySlot_same, show ((withInput (withRules u rules) rest).openExchange
    (openedRecord u h (u.slot h.slot) out)).slot h.slot = { u.slot h.slot with refs := (u.slot h.slot).refs + 1 } from
      State.slot_addRef_same _ h.slot, d.refs, raiseHop_refs]

theorem slot_opened_other : OnlySlot u (opened u rules rest h out) h.slot := fun j ne => by
  unfold opened
  rw [State.slot_modifySlot_other _ _ ne]
  exact State.slot_addRef_other _ ne

/-- A request is ORDINARY: a queue within its bound admits it or refuses it. -/
theorem admitsOrRefuses_request (request : f.kind = .request) (bound : (u.port q).transmitter.queue.length ≤ 16) :
    AdmitsOrRefuses u q (relayedEntry f i) :=
  ⟨bound, fun _ => .inl (by unfold relayedEntry; simp [request])⟩

/-- With no port that has room every queue keeps its entries. -/
theorem OfferedTo.transmitter_of_none (o : OfferedTo u t h out) (none : portsWithRoom u out = []) (q : Port) :
    (t.port q).transmitter = (u.port q).transmitter := by
  obtain ⟨-, refuses, outside, -⟩ := o
  by_cases mem : q ∈ out
  · rw [refuses q mem (by rw [none]; exact List.not_mem_nil)]
    rfl
  · rw [outside q mem]

theorem entriesNaming_eq_zero (absent : ∀ q, ∀ e ∈ (s.port q).transmitter.queue, e.slot ≠ i) : entriesNaming s i = 0 :=
  List.sum_eq_zero fun k mem => by
    obtain ⟨q, -, rfl⟩ := List.mem_map.mp mem
    exact List.countP_eq_zero.mpr fun e inQueue => by simpa using absent q e inQueue

/-- An exchange opened behind the others leaves the table as it was when it closes. -/
theorem eraseP_append_new {l : List Exchange} (new : ∀ y ∈ l, y.key ≠ x.key) : (l ++ [x]).eraseP (·.key == x.key) = l := by
  rw [List.eraseP_append_right _ fun y mem => by simpa using new y mem]
  simp

/-- A request that no queue admits is closed again at once (R121). -/
theorem closed_request (d : Deciding u h rest) (up : ∀ q ∈ out, (u.admin q).isDown = false)
    (new : ∀ y ∈ u.exchanges, y.key ≠ (openedRecord u h (u.slot h.slot) out).key)
    (o : OfferedAll (opened u rules rest h out) t (relayedEntry (u.slot h.slot) h.slot) out n)
    (none : portsWithRoom u out = []) (absent : ∀ q : Port, ∀ e ∈ (u.port q).transmitter.queue, e.slot ≠ h.slot)
    (waits : ∀ q : Port, (u.port q).transmitter.state = .waitGap → (u.port q).transmitter.queue ≠ []) :
    let x := openedRecord u h (u.slot h.slot) out
    let closed := t.closeExchange x .busy
    closed = { withRules u rules with
      relay := { (withRules u rules).relay with input := rest }, ports := closed.ports, slots := closed.slots
      counters := { u.counters with queueFullClosures := stoppingSucc u.counters.queueFullClosures }
      reports := u.reports ++ [⟨.busy .queueFull, x.key, h.ingress⟩]
      words := { u.words with tracker := u.words.tracker.filter fun d => d.slot != h.slot } } ∧
    OfferedTo u closed h out ∧ closed.slot h.slot = Slot.empty := by
  dsimp only
  obtain ⟨offered, count⟩ := o.offeredTo up (fun _ => rfl) slot_opened_other
  have kept := offered.transmitter_of_none none
  have words := words_closeExchange t (openedRecord u h (u.slot h.slot) out) .busy
  have ports : ∀ q, (t.closeExchange (openedRecord u h (u.slot h.slot) out) .busy).port q = t.port q := fun q =>
    port_closeExchange_of_absent (by rw [kept q]; exact absent q) (by rw [kept q]; exact waits q)
  have only := o.only
  obtain ⟨closes, -, -, -, others, -, -, empty⟩ := closed_closeExchange t (openedRecord u h (u.slot h.slot) out) .busy
  refine ⟨?_, ?_, empty (fun q e mem => ?_) ?_ ?_⟩
  · rw [closes, words, only]
    simp only [show (opened u rules rest h out).exchanges = u.exchanges ++ [openedRecord u h (u.slot h.slot) out] from rfl,
      eraseP_append_new new]
    rfl
  · obtain ⟨admits, refuses, outside, sameSlots⟩ := offered
    exact ⟨fun q mem => (ports q).trans (admits q mem), fun q mem full => (ports q).trans (refuses q mem full),
      fun q other => (ports q).trans (outside q other), fun j ne => (others j ne).trans (sameSlots j ne)⟩
  · rw [kept q] at mem
    refine absent q e ?_
    rw [← (u.port q).transmitter.inTransmission_append_waiting]
    exact List.mem_append_left _ mem
  · have zero : entriesNaming t h.slot = 0 := entriesNaming_eq_zero fun q => by rw [kept q]; exact absent q
    rw [show (openedRecord u h (u.slot h.slot) out).slot = h.slot from rfl, zero,
      show t.slot h.slot = _ from o.slot, count, none,
      show (relayedEntry (u.slot h.slot) h.slot).slot = h.slot from rfl, slot_opened d]
    rfl
  · exact o.heldOutside (i := h.slot) (d.free_withInput rules)

/-- A request under its open exchange stands in its slot with its copies' references and its record's. -/
theorem carried_request (d : Deciding u h rest) (up : ∀ q ∈ out, (u.admin q).isDown = false)
    (o : OfferedAll (opened u rules rest h out) t (relayedEntry (u.slot h.slot) h.slot) out n) :
    t.letGo h.slot = { withRules u rules with
      relay := { (withRules u rules).relay with input := rest }, ports := (t.letGo h.slot).ports,
      slots := (t.letGo h.slot).slots, exchanges := u.exchanges ++ [openedRecord u h (u.slot h.slot) out] } ∧
    OfferedTo u (t.letGo h.slot) h out ∧
    (t.letGo h.slot).slot h.slot = { (u.slot h.slot).raiseHop with refs := (portsWithRoom u out).length + 1 } := by
  obtain ⟨offeredTo, count⟩ := o.offeredTo up (fun _ => rfl) slot_opened_other
  have slot : t.slot h.slot = { (u.slot h.slot).raiseHop with refs := (portsWithRoom u out).length + 1 } := by
    have slot := o.slot
    rw [show (relayedEntry (u.slot h.slot) h.slot).slot = h.slot from rfl, slot_opened d, count] at slot
    rw [slot, Nat.add_comm]
  rw [State.letGo_of_refs _ (by rw [slot]; exact Nat.succ_ne_zero _)]
  refine ⟨?_, offeredTo, slot⟩
  conv_lhs => rw [o.only]
  rfl

/-- Settles O29: a duplicate, a full table, or a record opened with the request carried, closed again with no queue for it. -/
theorem requestOpensExchange : Obligations.RequestOpensExchange := by
  intro h rest s u v route c
  dsimp only
  intro request station start some
  obtain ⟨left, ⟨rules, rfl⟩, run⟩ := c.exec_eq
  have d := left.deciding
  have uslot : s.slot h.slot = u.slot h.slot := left.slot.symm
  have hop := c.hops
  rw [routeFrame_carries (s := withInput (withRules u rules) rest) hop start some] at run
  rw [uslot] at request station start some run ⊢
  have outputs : outputPorts (withInput (withRules u rules) rest) h (u.slot h.slot).destination route =
      outputPorts u h (u.slot h.slot).destination route := rfl
  have nodup : (outputPorts u h (u.slot h.slot).destination route).Nodup := outputPorts_nodup
  have up : ∀ q ∈ outputPorts u h (u.slot h.slot).destination route, (u.admin q).isDown = false :=
    fun q => outputPorts_up
  rw [outputs] at run
  generalize outputPorts u h (u.slot h.slot).destination route = out at *
  refine ⟨fun dup => ⟨_, run, ?_⟩, fun new full => ⟨_, run, ?_⟩, fun new room bound => ?_⟩
  · rw [openAndCarry_duplicate (s := withInput (withRules u rules) rest) request station dup]
    exact d.dropped_withRules rules rfl
  · rw [(openAndCarry_new (s := withInput (withRules u rules) rest) request station new).2 full]
    exact d.dropped (u := { withRules u rules with
      reports := u.reports ++ [⟨.busy .exchangesFull, ⟨(u.slot h.slot).source, (u.slot h.slot).destination,
        (u.slot h.slot).tag⟩, h.ingress⟩] }) rfl rfl rfl rfl
  · rw [(openAndCarry_new (s := withInput (withRules u rules) rest) request station new).1 room, carryRequest_eq] at run
    have offered : OfferedAll (opened u rules rest h out) _ _ _ _ := carry_judged (z := (withInput (withRules u rules)
      rest).openExchange (openedRecord u h (u.slot h.slot) out)) nodup
      fun q mem => admitsOrRefuses_request (i := h.slot) request (bound q mem)
    dsimp only at run
    rw [show openedRecord (withInput (withRules u rules) rest) h (u.slot h.slot) out = openedRecord u h (u.slot h.slot) out
      from rfl] at run
    generalize ((withInput (withRules u rules) rest).openExchange (openedRecord u h (u.slot h.slot) out)).carry h
      (u.slot h.slot) out = carried at run offered
    obtain ⟨offeredTo, count⟩ := offered.offeredTo up (fun _ => rfl) slot_opened_other
    rw [count] at run
    refine ⟨fun some => ⟨_, run, ?_⟩, fun none absent waits => ⟨_, run, ?_⟩⟩
    · rw [if_neg (List.length_pos_iff.mpr some).ne']
      exact carried_request d up offered
    · obtain ⟨closes, offeredTo, empty⟩ := closed_request d up new offered none absent waits
      rw [none, if_pos (show ([] : List Port).length = 0 from rfl)]
      generalize carried.1.closeExchange (openedRecord u h (u.slot h.slot) out) .busy = closed at *
      refine ⟨?_, offeredTo.letGo, ?_⟩
      · rw [show (closed.letGo h.slot).ports = closed.ports by simp, State.letGo_only]
        generalize (closed.letGo h.slot).slots = slots
        conv_lhs => rw [closes]
        rfl
      · rw [State.slot_letGo_same, empty, ite_self]

end Sys2Proof.Statements
end

section
/-! PROOFS. A reply goes on beside the exchange it has closed (R99, R100, R114). -/

namespace Sys2Proof.Statements

open Sys2Proof.Machine Sys2Proof.Safety

variable {s t u v w z : State} {h : HeldFrame} {rest : List HeldFrame} {i : SlotId} {p q : Port} {d e : QueueEntry} {f : Slot}
  {x : Exchange} {c : Closure} {l : List Port} {kept : List QueueEntry} {n : Nat} {route : Route} {rules : List Rule}

/-! ## The answers of an admission -/

/-- Everything an admission can do (R32, R33). -/
theorem offer_cases (s : State) (p : Port) (e : QueueEntry) :
    s.offer p e = (s, false) ∨ s.offer p e = (s.joinQueue p e, true) ∨ s.offer p e = (s.refuseAtFull p, false) ∨
    ∃ d kept, takeYoungestOrdinary (s.port p).transmitter.waiting = some (d, kept) ∧
      s.offer p e = ((s.displace p d kept).joinQueue p e, true) := by
  unfold State.offer
  split
  · exact .inl rfl
  · split
    · exact .inr (.inl rfl)
    · split
      · exact .inr (.inr (.inl rfl))
      · split
        · next d kept youngest => exact .inr (.inr (.inr ⟨d, kept, youngest, rfl⟩))
        · exact .inr (.inr (.inl rfl))

theorem announcedWords_timeouts (s : State) (p : Port) (m : Manner) (e : QueueEntry) :
    (announcedWords s p m e).timeouts = s.words.timeouts := by
  unfold announcedWords
  dsimp only
  split
  · split <;> rfl
  · split
    · rfl
    · split
      · rfl
      · split <;> rfl

/-! ## Operations beside a slot that no waiting entry names -/

/-- No waiting entry names slot `i`. -/
def NoneWaits (s : State) (i : SlotId) : Prop := ∀ q, ∀ e ∈ (s.port q).transmitter.waiting, e.slot ≠ i

/-- `t` has come of `s` beside slot `i`: the slot and what a closure has left of the tables are as they were, and still no
waiting entry names the slot. -/
structure Beside (i : SlotId) (s t : State) : Prop where
  exchanges : t.exchanges = s.exchanges
  reports : t.reports = s.reports
  timeouts : t.words.timeouts = s.words.timeouts
  map : t.map = s.map
  matched : t.counters.repliesMatched = s.counters.repliesMatched
  slot : t.slot i = s.slot i
  noneWaits : NoneWaits s i → NoneWaits t i

theorem Beside.trans (a : Beside i s t) (b : Beside i t u) : Beside i s u :=
  ⟨b.exchanges.trans a.exchanges, b.reports.trans a.reports, b.timeouts.trans a.timeouts, b.map.trans a.map,
    b.matched.trans a.matched, b.slot.trans a.slot, b.noneWaits ∘ a.noneWaits⟩

theorem Beside.refl : Beside i s s := ⟨rfl, rfl, rfl, rfl, rfl, rfl, id⟩

theorem Beside.modifySlot {j : SlotId} (ne : i ≠ j) (g : Slot → Slot) : Beside i s (s.modifySlot j g) :=
  ⟨rfl, rfl, rfl, rfl, rfl, State.slot_modifySlot_other _ _ ne, id⟩

theorem Beside.letGo {j : SlotId} (ne : i ≠ j) : Beside i s (s.letGo j) := by
  unfold State.letGo
  split
  · exact .modifySlot ne _
  · exact .refl

/-- Replacing the entries that wait with some of them, and others of another slot. -/
theorem noneWaits_replaced (none : NoneWaits s i) (others : ∀ q, q ≠ p → t.port q = s.port q)
    (here : ∀ e ∈ (t.port p).transmitter.waiting, e ∈ (s.port p).transmitter.waiting ∨ e.slot ≠ i) : NoneWaits t i := by
  intro q e mem
  by_cases eq : q = p
  · rw [eq] at mem
    exact (here e mem).elim (none p e) id
  · rw [others q eq] at mem
    exact none q e mem

theorem waiting_admitted (y : LinePort) (mem : d ∈ (admitted y e).transmitter.waiting) :
    d = e ∨ d ∈ y.transmitter.waiting := by
  have parts : ∃ w : List QueueEntry, y.transmitter.joined e = y.transmitter.inTransmission ++ w ∧
      w.Perm (e :: y.transmitter.waiting) := by
    cases band : e.band with
    | ordinary =>
      exact ⟨y.transmitter.waiting ++ [e], by
        rw [joined_ordinary _ band, ← List.append_assoc, Transmitter.inTransmission_append_waiting],
        List.perm_append_singleton ..⟩
    | priority => exact ⟨_, joined_priority _ band, behindPriority_perm ..⟩
  obtain ⟨w, joined, perm⟩ := parts
  have same : (admitted y e).transmitter =
      wakeTransmitter y.record.admin { y.transmitter with queue := y.transmitter.joined e } :=
    (wakeTransmitter_joined ..).symm
  have waits : (admitted y e).transmitter.waiting =
      Transmitter.waiting { y.transmitter with queue := y.transmitter.inTransmission ++ w } := by
    rw [same, ← joined]
    unfold Transmitter.waiting
    rw [headInTransmission_wake, (wakeTransmitter_keeps ..).1]
  rw [waits] at mem
  exact List.mem_cons.mp (perm.mem_iff.mp ((waiting_replaced _ w).subset mem))

theorem Beside.joinQueue (ne : e.slot ≠ i) : Beside i s (s.joinQueue p e) := by
  refine ⟨rfl, rfl, rfl, rfl, rfl, State.slot_joinQueue_other _ _ _ ne.symm, fun none =>
    noneWaits_replaced (p := p) none (fun q => State.port_joinQueue_other s e) fun d mem => ?_⟩
  rw [port_joinQueue_admitted] at mem
  exact (waiting_admitted _ mem).elim (fun eq => .inr (eq ▸ ne)) .inl

theorem Beside.displace (none : NoneWaits s i)
    (youngest : takeYoungestOrdinary (s.port p).transmitter.waiting = some (d, kept)) : Beside i s (s.displace p d kept) := by
  obtain ⟨sub, perm⟩ := takeYoungestOrdinary_perm youngest
  have ne : i ≠ d.slot := (none p d (perm.mem_iff.mpr List.mem_cons_self)).symm
  have only := displace_only s p d kept
  refine ⟨by rw [only], by rw [only], by rw [only]; exact announcedWords_timeouts .., by rw [only], by rw [only],
    (displace_slots s p d kept).1 i ne, fun none => noneWaits_replaced (p := p) none
      (fun q ne => port_displace_other s d kept ne) fun d' mem => .inl ?_⟩
  rw [port_displace_same] at mem
  exact sub.subset ((waiting_replaced _ kept).subset mem)

theorem Beside.refuseAtFull : Beside i s (s.refuseAtFull p) := by
  refine ⟨rfl, rfl, rfl, rfl, rfl, rfl, fun none => noneWaits_replaced (p := p) none (fun q => ?_) fun d mem => .inl ?_⟩
  · exact State.port_countPort_other s _
  · rw [State.refuseAtFull, State.port_countPort_same] at mem
    exact mem

theorem Beside.offer (none : NoneWaits s i) (ne : e.slot ≠ i) : Beside i s (s.offer p e).1 := by
  rcases offer_cases s p e with eq | eq | eq | ⟨d, kept, youngest, eq⟩ <;> rw [eq]
  · exact .refl
  · exact .joinQueue ne
  · exact .refuseAtFull
  · exact (Beside.displace none youngest).trans (.joinQueue ne)

theorem Beside.offerAll (none : NoneWaits s i) (ne : e.slot ≠ i) (l : List Port) : Beside i s (s.offerAll e l).1 := by
  induction l generalizing s with
  | nil => exact .refl
  | cons p l ih => exact (Beside.offer none ne).trans (ih ((Beside.offer none ne).noneWaits none))

theorem Beside.carry (none : NoneWaits s i) (ne : h.slot ≠ i) : Beside i s (s.carry h f l).1 := by
  rw [slot_carry]
  exact (Beside.modifySlot ne.symm _).trans
    (.offerAll (s := s.modifySlot h.slot Slot.raiseHop) (e := relayedEntry f h.slot) none ne l)

/-- A frame of a kind that opens no exchange goes on from the rule list beside every slot but its own. -/
theorem Beside.routeFrame (none : NoneWaits s i) (ne : h.slot ≠ i) (other : f.kind ≠ .request) :
    Beside i s (s.routeFrame h f route) := by
  have counted : ∀ k : RelayCounters → RelayCounters, (∀ c, (k c).repliesMatched = c.repliesMatched) →
      Beside i s (s.count k) := fun k same => ⟨rfl, rfl, rfl, rfl, same _, rfl, id⟩
  unfold State.routeFrame
  split
  · exact counted _ fun _ => rfl
  · split
    · exact counted _ fun _ => rfl
    · split
      · exact counted _ fun _ => rfl
      · rw [openAndCarry_opensNone (.inl other)]
        exact .carry none ne

theorem Beside.applyRules (none : NoneWaits s i) (ne : h.slot ≠ i) (other : f.kind ≠ .request) :
    Beside i s (s.applyRules h f) := by
  have hit : ∀ rules, Beside i s (withRules s rules) := fun _ => ⟨rfl, rfl, rfl, rfl, rfl, rfl, id⟩
  have dropped : ∀ s, Beside i s s.dropByRule := fun _ => ⟨rfl, rfl, rfl, rfl, rfl, rfl, id⟩
  unfold State.applyRules
  split
  · next r rules _ =>
    dsimp only
    split
    · exact (hit rules).trans (.routeFrame none ne other)
    · exact (hit rules).trans (dropped _)
    · exact (hit rules).trans (.routeFrame none ne other)
  · split
    · exact .routeFrame none ne other
    · exact dropped s

/-! ## The reply (O30) -/

theorem NoneWaits.withInput (none : NoneWaits s i) : NoneWaits (withInput s rest) i := none

theorem noneWaits_closeExchange (s : State) (x : Exchange) (c : Closure) : NoneWaits (s.closeExchange x c) x.slot := by
  intro p e mem
  rw [port_closeExchange] at mem
  dsimp only at mem
  unfold Transmitter.waiting at mem
  rw [headInTransmission_rest, (restTransmitter_only _)] at mem
  have sub := (waiting_replaced (s.port p).transmitter ((s.port p).transmitter.waiting.filter (·.slot != x.slot))).subset mem
  simpa using (List.mem_filter.mp sub).2

/-- What stands of a closure by a reply in a state come of it beside the exchange's slot. -/
theorem repliedBeside (b : Beside x.slot (withInput (u.closeExchange x .byReply) rest) t)
    (none : NoneWaits (withInput (u.closeExchange x .byReply) rest) x.slot) :
    t.exchanges = u.exchanges.eraseP (·.key == x.key) ∧ t.reports = u.reports ∧ t.words.timeouts = u.words.timeouts ∧
    t.map = u.map ∧ t.counters.repliesMatched = stoppingSucc u.counters.repliesMatched ∧ NoneWaits t x.slot ∧
    ((∀ p : Port, ∀ e ∈ (u.port p).transmitter.inTransmission, e.slot ≠ x.slot) →
      (u.slot x.slot).refs = entriesNaming u x.slot + 1 → u.heldOutside x.slot = false →
      t.slot x.slot = Slot.empty) := by
  obtain ⟨only, words, -, -, -, -, -, empty⟩ := closed_closeExchange u x .byReply
  have exchanges := u.closeExchange_exchanges x .byReply
  have reports := u.closeExchange_reports x .byReply
  obtain ⟨bExchanges, bReports, bTimeouts, bMap, bMatched, bSlot, bWaits⟩ := b
  have waits := bWaits none
  clear bWaits none
  generalize u.closeExchange x .byReply = closed at *
  have map : closed.map = u.map := by rw [only]
  have matched : closed.counters.repliesMatched = stoppingSucc u.counters.repliesMatched := by rw [only]; rfl
  exact ⟨bExchanges.trans exchanges, (bReports.trans reports).trans (List.append_nil _), bTimeouts.trans words,
    bMap.trans map, bMatched.trans matched, waits, fun sending refs held => bSlot.trans (empty sending refs held)⟩

/-- Settles O30: the closure stands whatever the rule list makes of the reply, for what follows goes on beside its slot. -/
theorem replyClosesItsExchange : Obligations.ReplyClosesItsExchange := by
  intro h rest s u d c
  dsimp only
  intro reply some elsewhere
  have left := LeftForRules.ofContinues d c
  have run := c.exec_elsewhere d some elsewhere
  refine ⟨fun x found ne => ⟨closed_closeExchange u x .byReply, _, run, ?_⟩, fun orphan drop => ⟨_, run, ?_⟩⟩
  · rw [matchReply_closes (s := withInput u rest) reply found,
      closeExchange_withInput (by rw [left.deciding.input]; exact holdAlike_of_ne ne)]
    have none : NoneWaits (withInput (u.closeExchange x .byReply) rest) x.slot :=
      (noneWaits_closeExchange u x .byReply).withInput
    have beside : Beside x.slot (withInput (u.closeExchange x .byReply) rest)
        (((withInput (u.closeExchange x .byReply) rest).applyRules h (s.slot h.slot)).letGo h.slot) :=
      (Beside.applyRules none ne.symm (by rw [reply]; exact nofun)).trans (.letGo ne)
    generalize ((withInput (u.closeExchange x .byReply) rest).applyRules h (s.slot h.slot)).letGo h.slot = t at beside ⊢
    have key : x.key = ⟨(s.slot h.slot).destination, (s.slot h.slot).source, (s.slot h.slot).tag⟩ := by
      simpa using List.find?_some found
    rw [← key]
    exact repliedBeside beside none
  · have drop : (withInput u rest).relay.orphanPolicy = .drop := by rw [← left.relay] at drop; exact drop
    rw [matchReply_orphan_drop (s := withInput u rest) reply orphan drop]
    exact left.deciding.dropped rfl rfl rfl rfl

end Sys2Proof.Statements
end

section
/-! PROOFS. The announcements the Exchange Tracker takes, and the first expiry (R115, R116, R120, R121). -/

namespace Sys2Proof.Statements

open Sys2Proof.Machine Sys2Proof.Safety

variable {s t u v : State} {i : SlotId} {p q : Port} {d : AgedDeparture} {e : QueueEntry} {x : Exchange} {c : Closure}
  {k : ExchangeKey} {m : Manner}

/-! ## Announcements (R115, R120, R121) -/

/-- The word `d` is taken. -/
def wordTaken (s : State) (d : AgedDeparture) : State :=
  { s with words := { s.words with tracker := s.words.tracker.erase d } }

theorem takeTrackerWord_eq (word : s.words.tracker.find? (·.slot == i) = some d)
    (record : s.exchanges.find? (·.slot == i) = some x) (manner : d.manner = m) :
    s.takeTrackerWord i m = some (x, d.age, wordTaken s d) := by
  have record' : s.exchangeOn i = some x := record
  unfold State.takeTrackerWord
  rw [word]
  dsimp only
  rw [if_pos manner, record']
  rfl

/-- With one record a key, changing the record of a key is changing that record. -/
theorem map_exchanges_congr {f g : Exchange → Exchange} (distinct : KeysDistinct s) (present : x ∈ s.exchanges)
    (same : f x = g x) : (s.exchanges.map fun y => if y.key = x.key then f y else y) =
      s.exchanges.map fun y => if y.key = x.key then g y else y := by
  have nodup : (s.exchanges.map (·.key)).Nodup := List.pairwise_map.mpr distinct
  refine List.map_congr_left fun y hy => ?_
  split
  · next key => rw [List.inj_on_of_nodup_map nodup hy present key, same]
  · rfl

theorem takeCompleted_of_some (taken : s.takeTrackerWord i .completed = some (x, n, t)) :
    (x.state = .sendPending → takeCompleted i s =
      t.modifyExchange x.key fun y => { y with deadline := t.startedDeadline y n, state := .awaitReply }) ∧
    (x.state = .retryPending → takeCompleted i s =
      t.modifyExchange x.key fun y => { y with deadline := t.startedDeadline y n, state := .retryAwait }) ∧
    (x.state = .awaitReply → takeCompleted i s = t) := by
  refine ⟨fun state => ?_, fun state => ?_, fun state => ?_⟩ <;> simp only [takeCompleted, taken, state]

theorem entryNames_eq_false : s.entryNames i = false ↔ entriesNaming s i = 0 := by
  simp [State.entryNames, entriesNaming, allPorts]

/-- A lost copy closes its exchange when no copy has completed and none remains queued. -/
theorem loseCopy_eq (s : State) (x : Exchange) (c : Closure) :
    (x.state = .awaitReply ∨ x.state = .retryAwait ∨ (x.state = .sendPending ∧ s.entryNames x.slot = true) →
      s.loseCopy x c = s) ∧
    (x.state = .retryPending ∨ (x.state = .sendPending ∧ s.entryNames x.slot = false) →
      s.loseCopy x c = s.closeExchange x c) := by
  constructor
  · rintro (state | state | ⟨state, names⟩)
    · simp only [State.loseCopy, state]
    · simp only [State.loseCopy, state]
    · simp only [State.loseCopy, state, names, if_true]
  · rintro (state | ⟨state, names⟩)
    · simp only [State.loseCopy, state]
    · simp only [State.loseCopy, state, names, Bool.false_eq_true, if_false]

/-- Settles O31: the oldest word for the slot is taken with the slot's record, whose state decides. -/
theorem trackerTakesDepartures : Obligations.TrackerTakesDepartures := by
  intro i d x s service distinct word record
  dsimp only
  have present : x ∈ s.exchanges := List.mem_of_find?_eq_some record
  have taken : ∀ m, d.manner = m → s.takeTrackerWord i m = some (x, d.age, wordTaken s d) :=
    fun m manner => takeTrackerWord_eq word record manner
  refine ⟨fun completed => ?_, fun discarded => ?_, fun displaced => ?_⟩
  · rw [show exec (.exchangeCompleted i) s = .next (takeCompleted i s) from State.whenInService_inService _ service]
    obtain ⟨sent, retried, awaiting⟩ := takeCompleted_of_some (taken .completed completed)
    have starts : ∀ st : ExchangeState, (s.exchanges.map fun y => if y.key = x.key then
        { y with deadline := (wordTaken s d).startedDeadline y d.age, state := st } else y) =
        s.exchanges.map fun y => if y.key = x.key then
          { y with deadline := some (msCycles (s.timeoutTable.get x.timeoutClass) - d.age), state := st } else y :=
      fun st => map_exchanges_congr distinct present rfl
    refine ⟨fun state => ?_, fun state => ?_, fun state => by rw [awaiting state]; rfl⟩
    · rw [sent state, ← starts]
      rfl
    · rw [retried state, ← starts]
      rfl
  · have run : exec (.exchangeDiscarded i) s = .next ((wordTaken s d).loseCopy x (.noAnswer .lineFault)) := by
      rw [show exec (.exchangeDiscarded i) s = .next (takeDiscarded i s) from State.whenInService_inService _ service]
      simp only [takeDiscarded, taken .discarded discarded]
    obtain ⟨stays, closes⟩ := loseCopy_eq (wordTaken s d) x (.noAnswer .lineFault)
    refine ⟨fun unchanged => by rw [run, stays unchanged]; rfl, fun close => ⟨_, run, ?_⟩⟩
    rw [closes close]
    exact closed_closeExchange (wordTaken s d) x (.noAnswer .lineFault)
  · have run : exec (.exchangeDisplaced i) s = .next ((wordTaken s d).loseCopy x .busy) := by
      rw [show exec (.exchangeDisplaced i) s = .next (takeDisplaced i s) from State.whenInService_inService _ service]
      simp only [takeDisplaced, taken .displaced displaced]
    obtain ⟨stays, closes⟩ := loseCopy_eq (wordTaken s d) x .busy
    refine ⟨fun unchanged => by rw [run, stays unchanged]; rfl, fun close => ⟨_, run, ?_⟩⟩
    rw [closes close]
    exact closed_closeExchange (wordTaken s d) x .busy

/-! ## The first expiry (R116) -/

/-- A closure by timeout sends the Station Map its word. -/
theorem closed_timedOut (s : State) (x : Exchange) : Closed s (s.closeExchange x (.noAnswer .timeout)) x
    (some (.noAnswer .timeout)) { s.counters with timeouts := stoppingSucc s.counters.timeouts }
    (s.words.timeouts ++ [x.key.responder]) := closed_closeExchange s x (.noAnswer .timeout)

theorem expireFirst_of_noRetry (found : s.findExchange k = some x) (expired : x.expiredIn .awaitReply = true)
    (no : x.retryAllowed = false ∨ x.responderPort = .flooded) :
    expireFirst k s = s.closeExchange x (.noAnswer .timeout) := by
  rcases no with never | flooded
  · cases port : x.responderPort <;> simp only [expireFirst, found, expired, port, never, if_true]
  · simp only [expireFirst, found, expired, flooded, if_true]

/-- A refused retry closes the exchange. -/
theorem retryExchange_refused (refused : s.offer p ⟨.ordinary, 0, .relayed, x.slot⟩ = (t, false)) :
    s.retryExchange x p = t.closeExchange x (.noAnswer .timeout) := by
  simp only [State.retryExchange, refused]

/-- Settles O32: with a retry allowed the retry port's queue decides, and without one the exchange closes. -/
theorem firstExpiryRetriesOrCloses : Obligations.FirstExpiryRetriesOrCloses := by
  intro k x s service found
  dsimp only
  have run := exec_firstExpiry_inService k service
  refine ⟨fun state deadline => ?_, fun n running => ?_⟩
  · have expired := (x.expiredIn_iff .awaitReply).mpr ⟨state, deadline⟩
    refine ⟨fun p q port allowed here => ?_, fun no => ⟨_, run, ?_⟩⟩
    · rw [expireFirst_of_retryAllowed found expired port allowed, State.retryPort_eq, ← here] at run
      refine ⟨fun room => ⟨_, run, ?_⟩, fun down => ⟨_, run, ?_⟩, fun up full => ⟨_, run, ?_⟩⟩
      · rw [State.retryExchange_of_room x room]
        refine ⟨rfl, ?_, fun r other => ?_, fun j other => ?_, ?_⟩
        · exact port_joinQueue_admitted s q ⟨.ordinary, 0, .relayed, x.slot⟩
        · exact State.port_joinQueue_other s ⟨.ordinary, 0, .relayed, x.slot⟩ other
        · exact State.slot_joinQueue_other s q ⟨.ordinary, 0, .relayed, x.slot⟩ other
        · exact State.slot_joinQueue_same s q ⟨.ordinary, 0, .relayed, x.slot⟩
      · rw [retryExchange_refused (State.offer_down s ⟨.ordinary, 0, .relayed, x.slot⟩ down)]
        exact closed_timedOut s x
      · rw [retryExchange_refused (offer_full_ordinary up full rfl)]
        exact closed_timedOut (s.refuseAtFull q) x
    · rw [expireFirst_of_noRetry found expired no]
      exact closed_timedOut s x
  · rw [run]
    have found' : s.findExchange k = some x := found
    have early : ¬ x.expiredIn .awaitReply = true := fun expired => by
      rw [Exchange.expiredIn_iff, running] at expired
      exact absurd expired.2 nofun
    simp only [expireFirst, found', if_neg early]

end Sys2Proof.Statements
end

section
/-! PROOFS. The word that a port has gone down judges every open record (R122). -/

namespace Sys2Proof.Statements

open Sys2Proof.Machine Sys2Proof.Safety

variable {s t u v : State} {i j : SlotId} {p q : Port} {d : AgedDeparture} {e : QueueEntry} {x y : Exchange} {c : Closure}
  {k : ExchangeKey} {closed more : List SlotId} {pre l : List Exchange}

/-! ## Slots withdrawn from the queues -/

/-- The queue of a transmitter without the waiting entries of the slots `closed`. -/
def keptOf (x : Transmitter) (closed : List SlotId) : List QueueEntry :=
  x.inTransmission ++ x.waiting.filter fun e => e.slot ∉ closed

/-- `t` is `s` with the waiting entries of the slots `closed` gone from every queue, and their slots holding the references of
their entries in transmission, FREE with none; of the rest only tables, counters and words may differ. -/
structure Withdrawn (s t : State) (closed : List SlotId) : Prop where
  port : ∀ q, t.port q = { s.port q with transmitter := { (s.port q).transmitter with
    queue := keptOf (s.port q).transmitter closed, state := (t.port q).transmitter.state } }
  rests : ∀ q, (s.port q).transmitter.state = .waitGap → (s.port q).transmitter.queue ≠ [] →
    keptOf (s.port q).transmitter closed = [] → (t.port q).transmitter.state = .idle
  stays : ∀ q, (s.port q).transmitter.state ≠ .waitGap ∨ keptOf (s.port q).transmitter closed ≠ [] →
    (t.port q).transmitter.state = (s.port q).transmitter.state
  others : ∀ i, i ∉ closed → t.slot i = s.slot i
  freed : ∀ i ∈ closed, entriesSendingSlot s i = 0 → t.slot i = Slot.empty
  sends : ∀ i ∈ closed, entriesSendingSlot s i ≠ 0 → t.slot i = { s.slot i with refs := entriesSendingSlot s i }

theorem keptOf_nil (x : Transmitter) : keptOf x [] = x.queue := by
  unfold keptOf
  simp [Transmitter.inTransmission_append_waiting]

theorem Withdrawn.refl : Withdrawn s s [] where
  port q := by rw [keptOf_nil]
  rests q _ some none := absurd (keptOf_nil _ ▸ none) some
  stays _ _ := rfl
  others _ _ := rfl
  freed _ mem := absurd mem List.not_mem_nil
  sends _ mem := absurd mem List.not_mem_nil

/-- The parts of a queue from which waiting entries have been withdrawn. -/
theorem Withdrawn.parts (w : Withdrawn s t closed) (q : Port) :
    (t.port q).transmitter.inTransmission = (s.port q).transmitter.inTransmission ∧
    (t.port q).transmitter.waiting = (s.port q).transmitter.waiting.filter fun e => e.slot ∉ closed := by
  have queue : (t.port q).transmitter.queue = keptOf (s.port q).transmitter closed := by rw [w.port q]
  by_cases none : keptOf (s.port q).transmitter closed = []
  · obtain ⟨noneSends, noneWaits⟩ := List.append_eq_nil_iff.mp none
    have parts := (t.port q).transmitter.inTransmission_append_waiting
    rw [queue, none] at parts
    obtain ⟨sends, waits⟩ := List.append_eq_nil_iff.mp parts
    rw [sends, waits, noneSends, noneWaits]
    exact ⟨rfl, rfl⟩
  · have some : (s.port q).transmitter.queue ≠ [] := fun empty => none (by
      unfold keptOf Transmitter.inTransmission Transmitter.waiting
      rw [empty]
      simp)
    have state := w.stays q (.inr none)
    have same : (t.port q).transmitter = { (s.port q).transmitter with
        queue := keptOf (s.port q).transmitter closed } := by
      rw [w.port q]; dsimp only; rw [state]
    rw [same]
    exact Transmitter.parts_of_waiting _ _ some

theorem Withdrawn.entriesSendingSlot (w : Withdrawn s t closed) (i : SlotId) :
    entriesSendingSlot t i = entriesSendingSlot s i := by
  unfold Statements.entriesSendingSlot
  simp only [(w.parts _).1]

theorem Withdrawn.keptOf (w : Withdrawn s t closed) (more : List SlotId) (q : Port) :
    keptOf (t.port q).transmitter more = keptOf (s.port q).transmitter (closed ++ more) := by
  obtain ⟨sends, waits⟩ := w.parts q
  unfold Statements.keptOf
  rw [sends, waits, List.filter_filter]
  congr 1
  exact List.filter_congr fun e _ => by simp [Bool.and_comm]

theorem keptOf_ne_nil_of_append {x : Transmitter} (some : keptOf x (closed ++ more) ≠ []) : keptOf x closed ≠ [] := by
  unfold keptOf at some ⊢
  intro none
  obtain ⟨noneSends, noneWaits⟩ := List.append_eq_nil_iff.mp none
  refine some (List.append_eq_nil_iff.mpr ⟨noneSends, List.filter_eq_nil_iff.mpr fun e mem => ?_⟩)
  have := List.filter_eq_nil_iff.mp noneWaits e mem
  simp only [decide_not, Bool.not_eq_true', decide_eq_false_iff_not, Decidable.not_not] at this
  simp [this]

/-- Withdrawals one after the other, of different slots. -/
theorem Withdrawn.trans (a : Withdrawn s t closed) (b : Withdrawn t u more) (apart : ∀ i ∈ closed, i ∉ more) :
    Withdrawn s u (closed ++ more) where
  port q := by
    conv_lhs => rw [b.port q, a.keptOf, a.port q]
  rests q wait some none := by
    by_cases first : Statements.keptOf (s.port q).transmitter closed = []
    · exact (b.stays q (.inl (by rw [a.rests q wait some first]; exact nofun))).trans (a.rests q wait some first)
    · refine b.rests q ((a.stays q (.inr first)).trans wait) ?_ (by rw [a.keptOf]; exact none)
      rw [a.port q]
      exact first
  stays q h := by
    rcases h with other | some
    · have first := a.stays q (.inl other)
      exact (b.stays q (.inl (by rw [first]; exact other))).trans first
    · have first := a.stays q (.inr (keptOf_ne_nil_of_append some))
      exact (b.stays q (.inr (by rw [a.keptOf]; exact some))).trans first
  others i out := by
    obtain ⟨outA, outB⟩ := not_or.mp (List.mem_append.not.mp out)
    rw [b.others i outB, a.others i outA]
  freed i mem zero := by
    rcases List.mem_append.mp mem with here | later
    · rw [b.others i (apart i here), a.freed i here zero]
    · exact b.freed i later (by rw [a.entriesSendingSlot]; exact zero)
  sends i mem some := by
    rcases List.mem_append.mp mem with here | later
    · rw [b.others i (apart i here), a.sends i here some]
    · have outside : i ∉ closed := fun here => apart i here later
      rw [b.sends i later (by rw [a.entriesSendingSlot]; exact some), a.entriesSendingSlot, a.others i outside]

/-- Entries that name a slot are in transmission or wait. -/
theorem entriesNaming_split (s : State) (i : SlotId) : entriesNaming s i =
    entriesSendingSlot s i + (allPorts.map fun p => (s.port p).transmitter.waiting.countP (·.slot == i)).sum := by
  have each : ∀ p, s.entriesAt i p = (s.port p).transmitter.inTransmission.countP (·.slot == i) +
      (s.port p).transmitter.waiting.countP (·.slot == i) := fun p => by
    unfold State.entriesAt
    rw [← List.countP_append, Transmitter.inTransmission_append_waiting]
  unfold entriesNaming entriesSendingSlot
  simp only [each, allPorts, List.map_cons, List.map_nil, List.sum_cons, List.sum_nil]
  omega

/-- The exchange's slot once it is closed. -/
theorem slot_closeExchange_same (refs : (s.slot x.slot).refs = entriesNaming s x.slot + 1)
    (free : s.heldOutside x.slot = false) :
    (s.closeExchange x c).slot x.slot = if entriesSendingSlot s x.slot = 0 then Slot.empty else
      { s.slot x.slot with refs := entriesSendingSlot s x.slot } := by
  obtain ⟨t, rfl, close⟩ := closeExchange_parts s x c
  have split := entriesNaming_split s x.slot
  have withdrawn := State.slot_withdraw_same ((s.dropRecord x).modifyWords (c.words x)) (i := x.slot)
    (show _ < (s.slot x.slot).refs by
      rw [refs, split]
      exact Nat.lt_succ_of_le (Nat.le_add_left ..))
  have left : ((((s.dropRecord x).modifyWords (c.words x)).withdraw x.slot).slot x.slot) =
      { s.slot x.slot with refs := entriesSendingSlot s x.slot + 1 } := by
    rw [withdrawn]
    have refs' : (s.slot x.slot).refs - (allPorts.map fun p =>
        (s.port p).transmitter.waiting.countP (·.slot == x.slot)).sum = entriesSendingSlot s x.slot + 1 := by omega
    exact congrArg (fun n => ({ s.slot x.slot with refs := n } : Slot)) refs'
  have free' : (((s.dropRecord x).modifyWords (c.words x)).withdraw x.slot).heldOutside x.slot = false := by
    refine heldOutside_of_given_up free (fun q current => ?_) (by rw [State.withdraw_only]; rfl)
      (by rw [State.withdraw_only]; rfl)
    rw [State.port_withdraw] at current
    exact current
  rw [close, show ∀ (a : State) (r : List ReportRequest), ({ a with reports := r } : State).slot x.slot = a.slot x.slot
    from fun _ _ => rfl, State.slot_congr (State.count_fields ..).2.2.2.1, State.slot_releaseRef_same, left, free']
  simp

theorem withdrawn_closeExchange (refs : (s.slot x.slot).refs = entriesNaming s x.slot + 1)
    (free : s.heldOutside x.slot = false) : Withdrawn s (s.closeExchange x c) [x.slot] := by
  have kept : ∀ q, keptOf (s.port q).transmitter [x.slot] =
      (s.port q).transmitter.inTransmission ++ (s.port q).transmitter.waiting.filter (·.slot != x.slot) := fun q => by
    unfold keptOf
    congr 1
    exact List.filter_congr fun e _ => by simp [bne, beq_eq_decide]
  have state : ∀ q, ((s.closeExchange x c).port q).transmitter.state =
      if (s.port q).transmitter.state = .waitGap ∧ keptOf (s.port q).transmitter [x.slot] = [] then .idle
      else (s.port q).transmitter.state := fun q => by
    rw [port_closeExchange, kept]
    unfold restTransmitter
    dsimp only
    split <;> rfl
  have slot := slot_closeExchange_same (c := c) refs free
  refine ⟨fun q => ?_, fun q wait _ none => ?_, fun q other => ?_, fun i out => ?_, fun i mem zero => ?_, fun i mem some => ?_⟩
  · conv_lhs => rw [port_closeExchange, restTransmitter_only, ← kept]
    rw [port_closeExchange, kept]
  · rw [state, if_pos ⟨wait, none⟩]
  · exact (state q).trans (if_neg fun both => other.elim (fun away => away both.1) fun some => some both.2)
  · exact State.slot_closeExchange_other s x c fun eq => out (List.mem_singleton.mpr eq)
  · obtain rfl := List.mem_singleton.mp mem
    rw [slot, if_pos zero]
  · obtain rfl := List.mem_singleton.mp mem
    rw [slot, if_neg some]

/-! ## The records judged one after another (R122) -/

/-- What the word of port `p` makes of a record. -/
theorem portDownClosure_eq (s : State) (p : Port) (x : Exchange) :
    (portDownOutcome s p x = .silent → s.portDownClosure p x = some .silent) ∧
    (portDownOutcome s p x = .reported → s.portDownClosure p x = some (.noAnswer .portDown)) ∧
    (portDownOutcome s p x = .stays → s.portDownClosure p x = none) := by
  unfold portDownOutcome State.portDownClosure
  simp only [entryNames_eq_false]
  by_cases requester : x.requesterPort = p
  · simp [requester]
  · cases responder : x.responderPort with
    | port q => by_cases here : q = p <;> simp [requester, here]
    | flooded =>
      by_cases gone : x.state = .sendPending ∧ entriesNaming s x.slot = 0
      · simp [requester, gone]
      · simp [requester, gone]

/-- The slots of the records of `l` that the word closes. -/
def slotsClosedOf (s : State) (p : Port) (l : List Exchange) : List SlotId :=
  (l.filter fun x => portDownOutcome s p x ≠ .stays).map (·.slot)

/-- The reports asked for by the records of `l` closed with PORT_DOWN. -/
def reportsOf (s : State) (p : Port) (l : List Exchange) : List ReportRequest :=
  (l.filter fun x => portDownOutcome s p x = .reported).map fun x => ⟨.noAnswer .portDown, x.key, x.requesterPort⟩

/-- The counter of PORT_DOWN closures once the records of `l` have been judged. -/
def closuresCounted (s : State) (p : Port) (l : List Exchange) (n : Count) : Count :=
  (l.filter fun x => portDownOutcome s p x = .reported).foldl (fun k _ => stoppingSucc k) n

/-- The records of `l` have been judged, those of `pre` before them having stayed. -/
structure Judged (s t : State) (p : Port) (pre l : List Exchange) : Prop where
  only : t = { s with
    ports := t.ports, slots := t.slots
    exchanges := pre ++ l.filter fun x => portDownOutcome s p x = .stays
    reports := s.reports ++ reportsOf s p l
    counters := { s.counters with portDownClosures := closuresCounted s p l s.counters.portDownClosures }
    words := { s.words with tracker := s.words.tracker.filter fun d => d.slot ∉ slotsClosedOf s p l } }
  withdrawn : Withdrawn s t (slotsClosedOf s p l)

/-- Each record of `l` has its own slot, counted by the entries and the record alone. -/
structure Judgeable (s : State) (l : List Exchange) : Prop where
  slots : (l.map (·.slot)).Nodup
  refs : ∀ x ∈ l, (s.slot x.slot).refs = entriesNaming s x.slot + 1
  free : ∀ x ∈ l, s.heldOutside x.slot = false

theorem entriesNaming_closeExchange (ne : i ≠ x.slot) : entriesNaming (s.closeExchange x c) i = entriesNaming s i := by
  have each : ∀ p, (s.closeExchange x c).entriesAt i p = s.entriesAt i p := fun p => by
    unfold State.entriesAt
    rw [port_closeExchange, ← (s.port p).transmitter.inTransmission_append_waiting]
    dsimp only
    rw [(restTransmitter_keeps _).1, List.countP_append, List.countP_append, List.countP_filter]
    congr 1
    refine List.countP_congr fun e _ => ?_
    simp only [Bool.and_eq_true, beq_iff_eq, bne_iff_ne]
    exact ⟨And.left, fun here => ⟨here, here ▸ ne⟩⟩
  exact congrArg List.sum (List.map_congr_left fun p _ => each p)

theorem portDownOutcome_closeExchange (ne : y.slot ≠ x.slot) :
    portDownOutcome (s.closeExchange x c) p y = portDownOutcome s p y := by
  unfold portDownOutcome
  rw [entriesNaming_closeExchange ne]

theorem Judgeable.tail (j : Judgeable s (x :: l)) : Judgeable s l :=
  ⟨(List.nodup_cons.mp j.slots).2, fun y mem => j.refs y (List.mem_cons_of_mem _ mem),
    fun y mem => j.free y (List.mem_cons_of_mem _ mem)⟩

theorem Judgeable.apart (j : Judgeable s (x :: l)) (mem : y ∈ l) : y.slot ≠ x.slot := fun eq =>
  (List.nodup_cons.mp j.slots).1 (List.mem_map.mpr ⟨y, mem, eq⟩)

theorem Judgeable.closeExchange (j : Judgeable s (x :: l)) : Judgeable (s.closeExchange x c) l := by
  refine ⟨j.tail.slots, fun y mem => ?_, fun y mem => ?_⟩
  · rw [State.slot_closeExchange_other s x c (j.apart mem), entriesNaming_closeExchange (j.apart mem)]
    exact j.tail.refs y mem
  · refine heldOutside_of_given_up (j.tail.free y mem) (fun q current => ?_) (by rw [State.closeExchange_only])
      (by rw [State.closeExchange_only])
    rwa [closeExchange_receiver] at current

/-- Judging a record leaves the others' outcomes as they were. -/
theorem Judgeable.congr (j : Judgeable s (x :: l)) :
    slotsClosedOf (s.closeExchange x c) p l = slotsClosedOf s p l ∧
    reportsOf (s.closeExchange x c) p l = reportsOf s p l ∧
    (∀ n, closuresCounted (s.closeExchange x c) p l n = closuresCounted s p l n) ∧
    (l.filter fun x' => portDownOutcome (s.closeExchange x c) p x' = .stays) =
      l.filter fun x => portDownOutcome s p x = .stays := by
  have same : ∀ o : PortDownOutcome, ∀ y ∈ l,
      decide (portDownOutcome (s.closeExchange x c) p y = o) = decide (portDownOutcome s p y = o) := fun o y mem => by
    rw [portDownOutcome_closeExchange (j.apart mem)]
  have differ : ∀ y ∈ l, decide (portDownOutcome (s.closeExchange x c) p y ≠ .stays) =
      decide (portDownOutcome s p y ≠ .stays) := fun y mem => by
    rw [portDownOutcome_closeExchange (j.apart mem)]
  unfold slotsClosedOf reportsOf closuresCounted
  rw [List.filter_congr differ, List.filter_congr (same .reported), List.filter_congr (same .stays)]
  exact ⟨rfl, rfl, fun _ => rfl, rfl⟩

theorem slotsClosedOf_cons (s : State) (p : Port) (x : Exchange) (l : List Exchange) : slotsClosedOf s p (x :: l) =
    if portDownOutcome s p x = .stays then slotsClosedOf s p l else x.slot :: slotsClosedOf s p l := by
  unfold slotsClosedOf
  rw [List.filter_cons]
  by_cases stays : portDownOutcome s p x = .stays <;> simp [stays]

/-- A record that stays leaves the judgement of the others. -/
theorem Judged.ofStays (stays : portDownOutcome s p x = .stays) (rest : Judged s t p (pre ++ [x]) l) :
    Judged s t p pre (x :: l) := by
  obtain ⟨only, withdrawn⟩ := rest
  have closed : slotsClosedOf s p (x :: l) = slotsClosedOf s p l := by rw [slotsClosedOf_cons, if_pos stays]
  refine ⟨?_, by rw [closed]; exact withdrawn⟩
  have reports : reportsOf s p (x :: l) = reportsOf s p l := by simp [reportsOf, stays]
  have counted : closuresCounted s p (x :: l) = closuresCounted s p l := by
    funext n; simp [closuresCounted, stays]
  rw [closed, reports, counted, List.filter_cons, if_pos (decide_eq_true stays), List.append_cons]
  exact only

theorem eraseP_of_distinct (distinct : (pre ++ x :: l).Pairwise fun a b => a.key ≠ b.key) :
    (pre ++ x :: l).eraseP (·.key == x.key) = pre ++ l := by
  have before := (List.pairwise_append.mp distinct).2.2
  rw [List.eraseP_append_right _ fun y mem => by simpa using before y mem x List.mem_cons_self]
  simp

theorem notMem_slotsClosedOf (j : Judgeable s (x :: l)) : x.slot ∉ slotsClosedOf s p l := fun mem => by
  obtain ⟨y, hy, eq⟩ := List.mem_map.mp mem
  exact j.apart (List.mem_of_mem_filter hy) eq

/-- A record closed by the word, and then the others judged. -/
theorem Judged.ofCloses (closes : portDownOutcome s p x ≠ .stays)
    (report : c.report.map (fun r => ReportRequest.mk r x.key x.requesterPort) =
      if portDownOutcome s p x = .reported then some ⟨.noAnswer .portDown, x.key, x.requesterPort⟩ else none)
    (count : c.count s.counters = if portDownOutcome s p x = .reported then
      { s.counters with portDownClosures := stoppingSucc s.counters.portDownClosures } else s.counters)
    (noTimeout : c ≠ .noAnswer .timeout)
    (j : Judgeable s (x :: l)) (rest : Judged (s.closeExchange x c) t p pre l) :
    Judged s t p pre (x :: l) := by
  obtain ⟨only, withdrawn⟩ := rest
  obtain ⟨closed, reports, counted, stays⟩ := j.congr (c := c) (p := p)
  have first := withdrawn_closeExchange (c := c) (j.refs x List.mem_cons_self) (j.free x List.mem_cons_self)
  rw [closed] at only withdrawn
  rw [stays, reports, counted] at only
  have here : slotsClosedOf s p (x :: l) = [x.slot] ++ slotsClosedOf s p l := by rw [slotsClosedOf_cons, if_neg closes]; rfl
  refine ⟨?_, by
    rw [here]
    exact first.trans withdrawn fun i mem => by rw [List.mem_singleton.mp mem]; exact notMem_slotsClosedOf j⟩
  have sReports := s.closeExchange_reports x c
  have sWords := words_closeExchange s x c
  have sCounters : (s.closeExchange x c).counters = c.count s.counters := by rw [(closed_closeExchange s x c).1]
  have sOnly := s.closeExchange_only x c
  rw [report] at sReports
  rw [count] at sCounters
  generalize s.closeExchange x c = s1 at *
  have reports' : s1.reports ++ reportsOf s p l = s.reports ++ reportsOf s p (x :: l) := by
    rw [sReports]
    unfold reportsOf
    rw [List.filter_cons, List.append_assoc]
    by_cases reported : portDownOutcome s p x = .reported <;> simp [reported]
  have counters' : { s1.counters with
      portDownClosures := closuresCounted s p l s1.counters.portDownClosures } = { s.counters with
      portDownClosures := closuresCounted s p (x :: l) s.counters.portDownClosures } := by
    rw [sCounters]
    unfold closuresCounted
    rw [List.filter_cons]
    by_cases reported : portDownOutcome s p x = .reported <;> simp [reported]
  have words' : { s1.words with tracker := s1.words.tracker.filter fun d => d.slot ∉ slotsClosedOf s p l } =
      { s.words with tracker := s.words.tracker.filter fun d => d.slot ∉ slotsClosedOf s p (x :: l) } := by
    rw [sWords, here]
    unfold Closure.words
    rw [if_neg noTimeout]
    dsimp only
    rw [List.filter_filter]
    congr 1
    exact List.filter_congr fun d _ => by simp [bne, beq_eq_decide, Bool.and_comm]
  rw [reports', counters', words'] at only
  have stays' : ((x :: l).filter fun x => portDownOutcome s p x = .stays) =
      l.filter fun x => portDownOutcome s p x = .stays := by
    rw [List.filter_cons, if_neg (by simpa using closes)]
  rw [stays', only, sOnly]

/-- The fold of the judgement over the records. -/
theorem judged_foldl (l : List Exchange) : ∀ (pre : List Exchange) (s : State), s.exchanges = pre ++ l →
    (pre ++ l).Pairwise (fun a b => a.key ≠ b.key) → Judgeable s l → Judged s (l.foldl (State.judgePortDown p) s) p pre l := by
  induction l with
  | nil =>
    intro pre s place _ _
    refine ⟨?_, .refl⟩
    simp [reportsOf, closuresCounted, slotsClosedOf, ← place]
  | cons x l ih =>
    intro pre s place distinct j
    rw [List.foldl_cons]
    obtain ⟨silent, reported, stays⟩ := portDownClosure_eq s p x
    have closing : ∀ c, s.portDownClosure p x = some c → s.judgePortDown p x = s.closeExchange x c := fun c eq => by
      simp only [State.judgePortDown, eq]
    have next : ∀ c, Judged (s.closeExchange x c) (l.foldl (State.judgePortDown p) (s.closeExchange x c)) p pre l := fun c =>
      ih pre _ (by rw [State.closeExchange_exchanges, place, eraseP_of_distinct distinct])
        (distinct.sublist ((List.sublist_cons_self x l).append_left pre)) j.closeExchange
    cases outcome : portDownOutcome s p x with
    | silent =>
      rw [closing _ (silent outcome)]
      exact .ofCloses (c := .silent) (by rw [outcome]; decide) (by rw [outcome]; rfl) (by rw [outcome]; rfl) (by decide) j
        (next _)
    | reported =>
      rw [closing _ (reported outcome)]
      exact .ofCloses (c := .noAnswer .portDown) (by rw [outcome]; decide) (by rw [outcome]; rfl) (by rw [outcome]; rfl)
        (by decide) j (next _)
    | stays =>
      have same : s.judgePortDown p x = s := by simp only [State.judgePortDown, stays outcome]
      rw [same]
      exact .ofStays outcome (ih (pre ++ [x]) s (by rw [place]; simp) (by simpa using distinct) j.tail)

theorem judgeable_of_consistent (pool : PoolConsistent s) : Judgeable s s.exchanges := by
  obtain ⟨counts, ⟨-, -, -, held, -⟩, -, ⟨distinct, -, -⟩⟩ := pool
  have naming : ∀ x ∈ s.exchanges, recordsNaming s x.slot = 1 := fun x mem => by
    unfold recordsNaming
    have one := List.nodup_iff_count_le_one.mp distinct x.slot
    have some : 0 < (s.exchanges.map (·.slot)).count x.slot := List.count_pos_iff.mpr (List.mem_map_of_mem mem)
    rw [List.count, List.countP_map] at one some
    change s.exchanges.countP (fun y => y.slot == x.slot) ≤ 1 at one
    change 0 < s.exchanges.countP (fun y => y.slot == x.slot) at some
    omega
  refine ⟨distinct, fun x mem => by rw [counts, naming x mem], fun x mem => ?_⟩
  rw [← Bool.not_eq_true, State.heldOutside_iff]
  intro outside
  have inHolders : x.slot ∈ holders s := by
    unfold holders
    rcases outside with ⟨p, current⟩ | ⟨h, inInput, slot⟩ | ⟨h, inQueue, slot⟩
    · exact List.mem_append_left _ (List.mem_append_left _ (List.mem_filterMap.mpr ⟨p, mem_allPorts p, current⟩))
    · exact List.mem_append_left _ (List.mem_append_right _ (List.mem_map.mpr ⟨h, inInput, slot⟩))
    · exact List.mem_append_right _ (List.mem_map.mpr ⟨h, inQueue, slot⟩)
  have zero := held x.slot inHolders
  rw [counts, naming x mem] at zero
  omega

/-- Settles O34: the word judges the records in opening order, and each closure leaves the others' outcomes. -/
theorem portDownWordClosesExchanges : Obligations.PortDownWordClosesExchanges := by
  intro p s service word pool
  dsimp only
  have run : exec (.portDownWord p) s = .next (takePortDown p s) := State.whenInService_inService _ service
  unfold takePortDown at run
  rw [if_pos word] at run
  have taken : Judgeable (s.modifyWords fun w => { w with portDown := w.portDown.erase p }) s.exchanges :=
    ⟨(judgeable_of_consistent pool).slots, (judgeable_of_consistent pool).refs, (judgeable_of_consistent pool).free⟩
  obtain ⟨only, withdrawn⟩ := judged_foldl (p := p) s.exchanges []
    (s.modifyWords fun w => { w with portDown := w.portDown.erase p }) rfl pool.2.2.1 taken
  refine ⟨_, run, only, fun q => ⟨withdrawn.port q, withdrawn.rests q, withdrawn.stays q⟩, withdrawn.others,
    fun i mem => ⟨withdrawn.freed i mem, withdrawn.sends i mem⟩⟩

end Sys2Proof.Statements
end

section
/-! PROOFS. Frames that a generator sends: path reports (R124) and notices (R141 to R144). -/

namespace Sys2Proof.Statements

open Sys2Proof.Machine Sys2Proof.Safety

variable {s t u v : State} {i j : SlotId} {p q : Port} {e : QueueEntry} {l : List Port} {n : Nat} {frame : List Character}

/-! ## A generated frame (R28) -/

/-- A slot claimed for a generator. -/
def claimed (s : State) (i : SlotId) : State := s.modifySlot i fun _ => ⟨[], 0, .inUse⟩

/-- The frame has been built in slot `i` and offered to the ports of `l`, of which `n` admitted it; then the slot was let
go. -/
structure GeneratedSent (s t : State) (i : SlotId) (frame : List Character) (l : List Port) (n : Nat) : Prop where
  count : n = (l.filter (takes s)).length
  only : t = { s with ports := t.ports, slots := t.slots }
  ports : ∀ q, t.port q = if q ∈ l then offeredAt s q (generatedEntry i) else s.port q
  others : OnlySlot s t i
  stands : n ≠ 0 → t.slot i = ⟨frame, n, .inUse⟩
  gone : n = 0 → s.heldOutside i = false → t.slot i = Slot.empty

theorem judges_of_refuses (refuses : RefusesReply s q) : Judges s q (generatedEntry i) :=
  refuses.imp id fun ⟨full, others⟩ => ⟨Nat.le_of_eq full, fun _ => .inr others⟩

theorem judges_of_room (room : HasRoom s q) : Judges s q e := .inr (admitsOrRefuses_of_room room)

theorem takes_iff : takes s q = true ↔ HasRoom s q := by
  simp [takes, HasRoom]

/-- A generated frame sent to ports that each admit or refuse it. -/
theorem sendGenerated_judged (distinct : l.Nodup) (judged : ∀ q ∈ l, Judges s q (generatedEntry i)) :
    GeneratedSent s ((claimed s i).sendGenerated i frame l).1 i frame l ((claimed s i).sendGenerated i frame l).2 := by
  have built : (claimed s i).modifySlot i (fun f => { f with chars := frame }) = s.modifySlot i fun _ => ⟨frame, 0, .inUse⟩ := by
    unfold claimed
    rw [State.modifySlot_modifySlot]
  have offered : OfferedAll (s.modifySlot i fun _ => ⟨frame, 0, .inUse⟩)
      (State.offerAll (s.modifySlot i fun _ => ⟨frame, 0, .inUse⟩) (generatedEntry i) l).1 (generatedEntry i) l
      (State.offerAll (s.modifySlot i fun _ => ⟨frame, 0, .inUse⟩) (generatedEntry i) l).2 := offerAll_judged distinct judged
  have sent : (claimed s i).sendGenerated i frame l =
      ((State.offerAll (s.modifySlot i fun _ => ⟨frame, 0, .inUse⟩) (generatedEntry i) l).1.letGo i,
        (State.offerAll (s.modifySlot i fun _ => ⟨frame, 0, .inUse⟩) (generatedEntry i) l).2) := by
    unfold State.sendGenerated
    rw [built]
    rfl
  rw [sent]
  generalize State.offerAll (s.modifySlot i fun _ => ⟨frame, 0, .inUse⟩) (generatedEntry i) l = result at offered ⊢
  obtain ⟨t, n⟩ := result
  dsimp only at offered ⊢
  have base : (s.modifySlot i fun _ => ⟨frame, 0, .inUse⟩).slot i = ⟨frame, 0, .inUse⟩ := State.slot_modifySlot_same ..
  have slot : t.slot i = ⟨frame, n, .inUse⟩ := by
    have here := offered.slot
    rw [show (generatedEntry i).slot = i from rfl, base, Nat.zero_add] at here
    exact here
  refine ⟨offered.count, ?_, fun q => ?_, fun j ne => ?_, fun some => ?_, fun none free => ?_⟩
  · rw [State.letGo_only, offered.only]
    rfl
  · rw [State.port_congr (show (t.letGo i).ports = t.ports by simp) q, offered.ports q]
    rfl
  · rw [State.slot_letGo_other _ ne, offered.others j ne, State.slot_modifySlot_other _ _ ne]
  · rw [State.letGo_of_refs _ (by rw [slot]; exact some), slot]
  · have held : t.heldOutside i = false := offered.heldOutside free
    rw [State.slot_letGo_same, slot, none, held]
    rfl

theorem GeneratedSent.port_takes (g : GeneratedSent s t i frame l n) (mem : q ∈ l) (take : takes s q = true) :
    t.port q = admitted (s.port q) (generatedEntry i) := by
  rw [g.ports q, if_pos mem]
  exact if_pos take

theorem GeneratedSent.port_refuses (g : GeneratedSent s t i frame l n) (mem : q ∈ l) (take : takes s q = false) :
    t.port q = refusedAt s q := by
  rw [g.ports q, if_pos mem]
  exact if_neg (by rw [take]; exact Bool.false_ne_true)

theorem takes_of_refuses (refuses : RefusesReply s q) : takes s q = false := by
  rw [← Bool.not_eq_true, takes_iff]
  rintro ⟨up, room⟩
  rcases refuses with down | ⟨full, -⟩
  · rw [up] at down; exact Bool.false_ne_true down
  · rw [full] at room; exact Nat.lt_irrefl 16 room

/-! ## Path reports (R124) -/

theorem exec_pathReport (service : s.phase = .inService) : exec .pathReport s = .next (takeReport s) :=
  State.whenInService_inService _ service

/-- A report with a slot to stand in is sent to the requester's port, and lost when that refuses it. -/
theorem takeReport_of_free {r : ReportRequest} {rest : List ReportRequest} (pending : s.reports = r :: rest)
    (free : s.lowestFree = some i) : takeReport s =
      let sent := (claimed { s with reports := rest } i).sendGenerated i (reportFrame s.management.ownAddress r) [r.port]
      if sent.2 = 0 then sent.1.loseReport else sent.1 := by
  have claim : ({ s with reports := rest } : State).claimForGenerator = some (i, claimed { s with reports := rest } i) :=
    State.claimForGenerator_some _ free
  unfold takeReport
  simp only [pending, claim]
  generalize (claimed { s with reports := rest } i).sendGenerated i (reportFrame s.management.ownAddress r) [r.port] = sent
  obtain ⟨t, n⟩ := sent
  cases n <;> rfl

theorem takeReport_of_none {r : ReportRequest} {rest : List ReportRequest} (pending : s.reports = r :: rest)
    (none : s.lowestFree = none) : takeReport s = ({ s with reports := rest } : State).loseReport := by
  have claim : ({ s with reports := rest } : State).claimForGenerator = Option.none := State.claimForGenerator_none _ none
  unfold takeReport
  simp only [pending, claim]

/-- Settles O35: a slot, a frame in it, and the requester's port to admit it, or the report is lost. -/
theorem pathReportGoesToRequesterPort : Obligations.PathReportGoesToRequesterPort := by
  refine ⟨by decide, fun r rest s service pending => ?_⟩
  dsimp only
  rw [exec_pathReport service]
  refine ⟨fun none => by rw [takeReport_of_none pending none]; rfl, fun i free => ?_⟩
  rw [takeReport_of_free pending free]
  have sent : Judges { s with reports := rest } r.port (generatedEntry i) →
      GeneratedSent { s with reports := rest } _ i (reportFrame s.management.ownAddress r) [r.port] _ := fun judged =>
    sendGenerated_judged (List.nodup_singleton _) fun q mem => by rw [List.mem_singleton.mp mem]; exact judged
  dsimp only
  generalize (claimed { s with reports := rest } i).sendGenerated i (reportFrame s.management.ownAddress r) [r.port] = result
    at sent ⊢
  obtain ⟨t, n⟩ := result
  dsimp only at sent ⊢
  refine ⟨fun room => ⟨_, rfl, ?_⟩, fun refuses held => ⟨_, rfl, ?_⟩⟩
  · have sent := sent (judges_of_room room)
    have take : takes s r.port = true := takes_iff.mpr room
    have one : n = 1 := by
      rw [sent.count, List.filter_cons, if_pos (show takes { s with reports := rest } r.port = true from take)]
      rfl
    rw [if_neg (by rw [one]; exact Nat.one_ne_zero)]
    refine ⟨sent.only, ?_, sent.others, sent.port_takes (List.mem_singleton.mpr rfl) take, fun q ne => ?_⟩
    · rw [sent.stands (by rw [one]; exact Nat.one_ne_zero), one]
      rfl
    · rw [sent.ports q, if_neg (mt List.mem_singleton.mp ne)]
      rfl
  · have sent := sent (judges_of_refuses refuses)
    have take : takes s r.port = false := takes_of_refuses refuses
    have none : n = 0 := by
      rw [sent.count, List.filter_cons, if_neg (by rw [show takes { s with reports := rest } r.port = false from take]; exact Bool.false_ne_true)]
      rfl
    rw [if_pos none]
    refine ⟨?_, sent.gone none held, sent.others, sent.port_refuses (List.mem_singleton.mpr rfl) take, fun q ne => ?_⟩
    · unfold State.loseReport State.count
      conv_lhs => rw [sent.only]
    · show t.port q = s.port q
      rw [sent.ports q, if_neg (mt List.mem_singleton.mp ne)]
      rfl

/-! ## Raises and the interval (R141, R144) -/

theorem modifyNotices_eq {f : NoticeUnit → NoticeUnit} {u : NoticeUnit} (is : f s.notices = u) :
    s.modifyNotices f = { s with notices := u } := by
  rw [← is]
  rfl

theorem exec_noticeRaise (x : RaisedNotice) (service : s.phase = .inService) :
    exec (.noticeRaise x) s = .next (takeRaised x s) := State.whenInService_inService _ service

theorem mayTakeRaise_iff (s : State) (x : RaisedNotice) : s.mayTakeRaise x = true ↔
    x ∈ s.words.raised ∧ (x.kind = .imageResult ∨ ∀ r ∈ s.words.raised, r.kind ≠ .imageResult) := by
  simp [State.mayTakeRaise]

theorem has_iff (u : NoticeUnit) (x : RaisedNotice) :
    u.has x = true ↔ ∃ y ∈ u.list, y.kind = x.kind ∧ y.subject = x.subject := by
  simp [NoticeUnit.has]

theorem not_has {u : NoticeUnit} {x : RaisedNotice} (new : ∀ y ∈ u.list, ¬ (y.kind = x.kind ∧ y.subject = x.subject)) :
    ¬ u.has x = true := fun has => by
  obtain ⟨y, mem, same⟩ := (has_iff u x).mp has
  exact new y mem same

theorem take_coalesces {u : NoticeUnit} {x : RaisedNotice} (old : u.has x = true) : u.take x = u := by
  unfold NoticeUnit.take
  rw [if_pos old]

theorem take_joins {u : NoticeUnit} {x : RaisedNotice} (new : ¬ u.has x = true) (room : u.list.length < 8) :
    u.take x = { u with list := u.list ++ [⟨u.next, x.kind, x.subject, x.detail⟩], next := u.next + 1 } := by
  unfold NoticeUnit.take
  rw [if_neg new]
  exact if_pos room

theorem stoppingSucc_byte (b : Byte) : stoppingSucc b = if b = 255 then 255 else b + 1 := by
  revert b; decide

theorem take_discards {u : NoticeUnit} {x : RaisedNotice} (new : ¬ u.has x = true) (full : 8 ≤ u.list.length) :
    u.take x = { u with lost := stoppingSucc u.lost } := by
  unfold NoticeUnit.take
  rw [if_neg new]
  exact if_neg (Nat.not_lt.mpr full)

theorem raiseJoinsOrCoalesces : RaiseJoinsOrCoalesces := by
  intro x s service raised
  dsimp only
  rw [exec_noticeRaise x service]
  have takes : (x.kind = .imageResult ∨ ∀ r ∈ s.words.raised, r.kind ≠ .imageResult) → takeRaised x s =
      (s.modifyWords fun w => { w with raised := w.raised.erase x }).modifyNotices fun u => u.take x := fun may =>
    if_pos ((mayTakeRaise_iff s x).mpr ⟨raised, may⟩)
  refine ⟨fun may => ?_, fun other waits => ?_, fun image order => ?_⟩
  · rw [takes may]
    exact ⟨fun old => congrArg _ (modifyNotices_eq (take_coalesces ((has_iff _ x).mpr old))),
      fun new full => congrArg _ (modifyNotices_eq ((take_discards (not_has new) full).trans (by rw [stoppingSucc_byte]))),
      fun new room => congrArg _ (modifyNotices_eq (take_joins (not_has new) room))⟩
  · refine congrArg _ (if_neg fun may => ?_)
    obtain ⟨-, image | none⟩ := (mayTakeRaise_iff s x).mp may
    · exact other image
    · obtain ⟨r, mem, isImage⟩ := waits
      exact none r mem isImage
  · obtain ⟨-, -, -, -, unnumbered⟩ := order
    obtain ⟨empty, zero⟩ := unnumbered x raised image
    have joins := take_joins (u := s.notices) (x := x) (by rw [has_iff]; simp [empty]) (by simp [empty])
    rw [empty, zero, image] at joins
    rw [takes (.inl image)]
    exact congrArg _ (modifyNotices_eq joins)

theorem noticeIntervalExpires : NoticeIntervalExpires := by
  intro s service
  rw [show exec .noticeIntervalExpiry s = .next (expireNoticeInterval s) from State.whenInService_inService _ service]
  refine ⟨fun expired => congrArg _ (if_pos expired), fun n runs => congrArg _ (if_neg ?_)⟩
  rw [runs]
  exact nofun

/-! ## The head notice (R142) -/

theorem endSend_eq (u : NoticeUnit) (sequence : Byte) (acknowledged : Bool) : u.endSend sequence acknowledged =
    { u with
      inFlight := none
      timer := if u.list.head?.map (·.sequence) = some sequence ∧ acknowledged = false then some (14745600 * u.interval)
        else none } := by
  unfold NoticeUnit.endSend
  rw [secondCycles, Nat.mul_comm]

theorem noticeDue_some {x : Notice} {behind : List Notice} {a : Byte} (list : s.notices.list = x :: behind)
    (target : s.notices.target = some a) (other : a ≠ s.management.ownAddress) : s.noticeDue = some (x, a) := by
  simp only [State.noticeDue, list, target, if_neg other]

theorem sendNotice_idle (idle : s.notices.list = [] ∨ s.notices.target = none ∨
    s.notices.target = some s.management.ownAddress ∨ s.notices.inFlight ≠ none ∨ s.notices.timer ≠ none) :
    sendNotice s = s := by
  unfold sendNotice
  split
  · next x a due noneInFlight noTimer =>
    have notDue : s.noticeDue = none → False := fun none => by rw [none] at due; exact absurd due nofun
    rcases idle with empty | noTarget | own | flies | runs
    · exact (notDue (by simp [State.noticeDue, empty])).elim
    · exact (notDue (by unfold State.noticeDue; rw [noTarget]; split <;> simp_all)).elim
    · exact (notDue (by unfold State.noticeDue; rw [own]; split <;> simp_all)).elim
    · exact absurd noneInFlight flies
    · exact absurd noTimer runs
  · rfl

/-- The state a notice is sent from: slot wait is over. -/
def waitOver (s : State) : State := s.modifyNotices fun u => { u with slotWait := false }

/-- A notice with a slot to stand in is offered; with no copy admitted its send ends. -/
theorem sendNotice_of_free {x : Notice} {a : Byte} (due : s.noticeDue = some (x, a)) (flies : s.notices.inFlight = none)
    (timer : s.notices.timer = none) (free : s.lowestFree = some i) : sendNotice s =
      let sent := (claimed (waitOver s) i).sendGenerated i
        (noticeFrame a s.management.ownAddress s.notices.lost x) (s.noticePorts a)
      if sent.2 = 0 then sent.1.modifyNotices fun u => u.endSend x.sequence false
      else sent.1.modifyNotices fun u => { u with inFlight := some ⟨i, x.sequence, sent.2, false⟩ } := by
  have claim : s.claimForGenerator = some (i, claimed s i) := State.claimForGenerator_some _ free
  have offer : sendNotice s = (claimed s i).offerNotice i x a := by
    simp only [sendNotice, due, flies, timer, claim]
  have sending : ((claimed s i).modifyNotices fun u => { u with slotWait := false }) = claimed (waitOver s) i := rfl
  have ports : (claimed s i).noticePorts a = s.noticePorts a := rfl
  have frame : noticeFrame a (claimed s i).management.ownAddress (claimed s i).notices.lost x =
      noticeFrame a s.management.ownAddress s.notices.lost x := rfl
  rw [offer]
  unfold State.offerNotice
  rw [sending, ports, frame]
  dsimp only
  generalize (claimed (waitOver s) i).sendGenerated i (noticeFrame a s.management.ownAddress s.notices.lost x)
    (s.noticePorts a) = sent
  obtain ⟨t, n⟩ := sent
  cases n <;> rfl

theorem sendNotice_of_none {x : Notice} {a : Byte} (due : s.noticeDue = some (x, a)) (flies : s.notices.inFlight = none)
    (timer : s.notices.timer = none) (none : s.lowestFree = none) :
    sendNotice s = s.modifyNotices fun u => { u with slotWait := true } := by
  simp only [sendNotice, due, flies, timer, State.claimForGenerator_none _ none]

theorem noticePorts_nodup (s : State) (a : Byte) : (s.noticePorts a).Nodup := by
  unfold State.noticePorts
  split
  · exact List.nodup_singleton _
  · exact List.Nodup.filter _ (by decide)

/-- The send of the head notice `x` to `a` in slot `i`. -/
theorem headNotice_sent {x : Notice} {behind : List Notice} {a : Byte} (list : s.notices.list = x :: behind)
    (due : s.noticeDue = some (x, a)) (flies : s.notices.inFlight = none) (timer : s.notices.timer = none)
    (free : s.lowestFree = some i) (declines : ∀ p ∈ (s.noticePorts a).filter (fun p =>
      p ∉ (s.noticePorts a).filter (takes s)), RefusesReply s p) :
    ((s.noticePorts a).filter (takes s) ≠ [] →
      sendNotice s = { s with
        ports := (sendNotice s).ports, slots := (sendNotice s).slots
        notices := { s.notices with
          slotWait := false, inFlight := some ⟨i, x.sequence, ((s.noticePorts a).filter (takes s)).length, false⟩ } } ∧
      (sendNotice s).slot i = ⟨noticeFrame a s.management.ownAddress s.notices.lost x,
        ((s.noticePorts a).filter (takes s)).length, .inUse⟩) ∧
    ((s.noticePorts a).filter (takes s) = [] → s.heldOutside i = false →
      sendNotice s = { s with
        ports := (sendNotice s).ports, slots := (sendNotice s).slots
        notices := { s.notices with slotWait := false, timer := some (14745600 * s.notices.interval) } } ∧
      (sendNotice s).slot i = Slot.empty) ∧
    OnlySlot s (sendNotice s) i ∧
    (∀ p ∈ (s.noticePorts a).filter (takes s), (sendNotice s).port p = admitted (s.port p) (generatedEntry i)) ∧
    (∀ p ∈ s.noticePorts a, takes s p = false → (sendNotice s).port p = refusedAt s p) ∧
    ∀ p : Port, p ∉ s.noticePorts a → (sendNotice s).port p = s.port p := by
  have judged : ∀ q ∈ s.noticePorts a, Judges (waitOver s) q (generatedEntry i) := fun q mem => by
    by_cases take : takes s q = true
    · exact judges_of_room (s := waitOver s) (takes_iff.mp take)
    · exact judges_of_refuses (s := waitOver s)
        (declines q (List.mem_filter.mpr ⟨mem, by simp [mem, take]⟩))
  have sent := sendGenerated_judged (s := waitOver s) (i := i)
    (frame := noticeFrame a s.management.ownAddress s.notices.lost x) (noticePorts_nodup s a) judged
  rw [sendNotice_of_free due flies timer free]
  generalize (claimed (waitOver s) i).sendGenerated i (noticeFrame a s.management.ownAddress s.notices.lost x)
    (s.noticePorts a) = result at sent ⊢
  obtain ⟨t, n⟩ := result
  dsimp only at sent ⊢
  have count : n = ((s.noticePorts a).filter (takes s)).length := sent.count
  have port : ∀ (u v : NoticeUnit → NoticeUnit) q, (if n = 0 then t.modifyNotices u else t.modifyNotices v).port q = t.port q :=
    fun u v q => by split <;> rfl
  have slot : ∀ (u v : NoticeUnit → NoticeUnit) j, (if n = 0 then t.modifyNotices u else t.modifyNotices v).slot j = t.slot j :=
    fun u v j => by split <;> rfl
  refine ⟨fun some => ⟨?_, ?_⟩, fun none held => ⟨?_, ?_⟩, fun j ne => ?_, fun p mem => ?_, fun p mem take => ?_,
    fun p out => ?_⟩
  · have some : n ≠ 0 := by rw [count]; exact (List.length_pos_iff.mpr some).ne'
    rw [if_neg some, ← count, modifyNotices_eq rfl]
    conv_lhs => rw [sent.only]
    rfl
  · have some : n ≠ 0 := by rw [count]; exact (List.length_pos_iff.mpr some).ne'
    rw [slot, sent.stands some, count]
  · have none : n = 0 := by rw [count, none]; rfl
    have ends : (waitOver s).notices.endSend x.sequence false =
        { s.notices with slotWait := false, timer := some (14745600 * s.notices.interval) } := by
      have head : (waitOver s).notices.list.head?.map (·.sequence) = some x.sequence := by
        rw [show (waitOver s).notices.list = s.notices.list from rfl, list]
        rfl
      rw [endSend_eq, if_pos ⟨head, rfl⟩, ← flies]
      rfl
    have notices : t.notices = (waitOver s).notices := by rw [sent.only]
    have ended := modifyNotices_eq (s := t) (f := fun u => u.endSend x.sequence false)
      ((congrArg (·.endSend x.sequence false) notices).trans ends)
    rw [if_pos none, ended]
    conv_lhs => rw [sent.only]
    rfl
  · rw [slot, sent.gone (by rw [count, none]; rfl) held]
  · rw [slot, sent.others j ne]
    rfl
  · obtain ⟨inside, take⟩ := List.mem_filter.mp mem
    rw [port, sent.port_takes inside take]
    rfl
  · rw [port, sent.port_refuses mem take]
    rfl
  · rw [port, sent.ports p, if_neg out]
    rfl

theorem headNoticeIsSent : HeadNoticeIsSent := by
  intro s service
  have run : exec .noticeSend s = .next (sendNotice s) := State.whenInService_inService _ service
  rw [run]
  refine ⟨fun idle => by rw [sendNotice_idle idle], fun x behind a list target other flies timer => ?_⟩
  have due := noticeDue_some list target other
  refine ⟨fun none => by rw [sendNotice_of_none due flies timer none]; rfl, fun i free => ⟨fun declines some => ⟨_, rfl, ?_⟩,
    fun declines none held => ⟨_, rfl, ?_⟩⟩⟩
  · obtain ⟨stands, -, others, admits, refuses, outside⟩ := headNotice_sent list due flies timer free declines
    obtain ⟨only, slot⟩ := stands some
    refine ⟨only, slot, others, admits, fun p mem => ?_, outside⟩
    obtain ⟨inside, declined⟩ := List.mem_filter.mp mem
    exact refuses p inside (takes_of_refuses (declines p mem))
  · obtain ⟨-, ends, others, -, refuses, outside⟩ := headNotice_sent list due flies timer free declines
    obtain ⟨only, slot⟩ := ends none held
    refine ⟨only, slot, others, fun p mem => refuses p mem ?_, outside⟩
    rw [← Bool.not_eq_true]
    intro take
    have inside : p ∈ (s.noticePorts a).filter (takes s) := List.mem_filter.mpr ⟨mem, take⟩
    rw [show (s.noticePorts a).filter (takes s) = [] from none] at inside
    exact List.not_mem_nil inside

/-! ## The end of a send (R143) -/

theorem noticeCopiesDepart : NoticeCopiesDepart := by
  intro d rest f s service copies flies
  dsimp only
  rw [show exec .noticeCopyDeparture s = .next (takeNoticeCopy s) from State.whenInService_inService _ service]
  have takes : takeNoticeCopy s = (s.modifyWords fun w => { w with noticeCopies := rest }).modifyNotices fun u =>
      if f.copies ≤ 1 then u.endSend f.sequence f.acknowledged
      else { u with inFlight := some { f with copies := f.copies - 1 } } := by
    simp only [takeNoticeCopy, copies, flies]
  rw [takes]
  refine ⟨fun more => congrArg _ (modifyNotices_eq (if_neg (Nat.not_le.mpr more))), fun last =>
    ⟨fun atHead fresh => congrArg _ (modifyNotices_eq ((if_pos (Nat.le_of_eq last)).trans ?_)),
      fun gone => congrArg _ (modifyNotices_eq ((if_pos (Nat.le_of_eq last)).trans ?_))⟩⟩
  · obtain ⟨x, behind, list, sequence⟩ := atHead
    have head : s.notices.list.head?.map (·.sequence) = some f.sequence := by rw [list, ← sequence]; rfl
    exact (endSend_eq s.notices _ _).trans (by rw [if_pos ⟨head, fresh⟩])
  · have no : ¬ (s.notices.list.head?.map (·.sequence) = some f.sequence ∧ f.acknowledged = false) := by
      rintro ⟨head, fresh⟩
      rcases gone with acknowledged | other
      · rw [acknowledged] at fresh; exact absurd fresh nofun
      · cases list : s.notices.list with
        | nil => rw [list] at head; exact absurd head nofun
        | cons x behind =>
          rw [list] at head
          exact other x behind list (Option.some.inj head)
    exact (endSend_eq s.notices _ _).trans (by rw [if_neg no])

/-- Settles O36: raises, the interval, the send and its end, each by the conditions of its rule. -/
theorem noticeUnitEvents : Obligations.NoticeUnitEvents :=
  ⟨raiseJoinsOrCoalesces, noticeIntervalExpires, headNoticeIsSent, noticeCopiesDepart⟩

end Sys2Proof.Statements
end

section
/-! PROOFS. How a restart takes effect and how a flush ends (R161, R162, R165). -/

namespace Sys2Proof.Statements

open Sys2Proof.Machine Sys2Proof.Safety

variable {s t : State} {i : SlotId} {p : Port} {r : PendingRestart}

/-! ## A restart taken (R165) -/

theorem port_beginFlush (s : State) (p : Port) :
    (beginFlush s).port p = LinePort.flushed (backoffSeeds.get p) (s.port p) := Four.get_zipWith ..

theorem not_isLearned (e : StationEntry) : (!e.isLearned) = decide (e.origin = .static) := by
  unfold StationEntry.isLearned
  cases e.origin <;> rfl

theorem flushApplies_iff (x : PortRecord) :
    x.flushApplies = true ↔ x.ratePhase ≠ .steady ∧ x.currentRate ≠ x.confirmedRate := by
  simp [PortRecord.flushApplies]

theorem flushBegun_beginFlush (s : State) : FlushBegun s (beginFlush s) := by
  have static : (s.map.entries.filter fun e => !e.isLearned) =
      s.map.entries.filter fun e => decide (e.origin = .static) := List.filter_congr fun e _ => not_isLearned e
  refine ⟨rfl, fun i => ?_, rfl, rfl, rfl, rfl, ?_, rfl, rfl, rfl, rfl, rfl, rfl, fun p => ?_⟩
  · simp [State.slot, beginFlush]
  · rw [← static]
    rfl
  · rw [port_beginFlush, port_reset]
    refine ⟨rfl, rfl, rfl, rfl, rfl, rfl, rfl, rfl, ?_, rfl⟩
    unfold LinePort.flushed State.rate
    dsimp only
    by_cases applies : (s.port p).record.flushApplies = true
    · rw [if_pos applies, if_pos ((flushApplies_iff _).mp applies), framerAtRate_eq]
    · rw [if_neg applies, if_neg fun both => applies ((flushApplies_iff _).mpr both)]

theorem takeRestart_some (pending : s.management.pendingRestart = some r) : RestartTaken s s.takeRestart r := by
  refine ⟨fun flush => ?_, fun cold => ?_⟩
  · have taken : s.takeRestart = beginFlush s := by simp only [State.takeRestart, pending, flush]
    rw [taken]
    exact flushBegun_beginFlush s
  · simp only [State.takeRestart, pending, cold]
    rfl

theorem takeRestart_none (none : s.management.pendingRestart = none) : s.takeRestart = s := by
  simp only [State.takeRestart, none]

theorem expireRestart_eq (s : State) :
    (∀ r, s.management.pendingRestart = some r → expireRestart s = if r.timer = 0 then s.takeRestart else s) ∧
    (s.management.pendingRestart = none → expireRestart s = s) := by
  refine ⟨fun r pending => ?_, fun none => ?_⟩
  · simp only [expireRestart, pending]
  · simp only [expireRestart, none]

theorem pendingRestartTakesEffectOnce : PendingRestartTakesEffectOnce := by
  intro s service
  rw [exec_restartTimerExpiry_inService service]
  obtain ⟨expires, idle⟩ := expireRestart_eq s
  refine ⟨fun r pending => ⟨fun expired => ⟨_, rfl, ?_⟩, fun runs => ?_⟩, fun none => by rw [idle none],
    fun i d w word watched => ?_⟩
  · rw [expires r pending, if_pos expired]
    exact takeRestart_some pending
  · rw [expires r pending, if_neg runs]
  · dsimp only
    have run : exec (.watchedReplyDeparture i) s = .next (({ s with
        words := { s.words with watchedReplies := s.words.watchedReplies.erase d }
        management := { s.management with watch := s.management.watch.erase w } } : State).takeWatched w.command) := by
      rw [show exec (.watchedReplyDeparture i) s = .next (takeWatchedReply i s) from State.whenInService_inService _ service]
      simp only [takeWatchedReply, word, watched]
      rfl
    rw [run]
    refine ⟨fun p rate => by rw [rate]; rfl, fun r restart pending => ⟨_, rfl, ?_⟩, fun restart none => ?_⟩
    · rw [restart]
      exact takeRestart_some (s := { s with
        words := { s.words with watchedReplies := s.words.watchedReplies.erase d }
        management := { s.management with watch := s.management.watch.erase w } }) pending
    · rw [restart]
      exact congrArg _ (takeRestart_none (s := { s with
        words := { s.words with watchedReplies := s.words.watchedReplies.erase d }
        management := { s.management with watch := s.management.watch.erase w } }) none)

/-! ## The end of a flush (R165) -/

theorem flushEndsAtTick : FlushEndsAtTick := by
  intro s
  have run : exec .flushEnd s = .next (endFlush s) := rfl
  refine ⟨fun ended => ⟨_, run, ?_⟩, fun runs => ⟨?_, fun none => ⟨tick s, ?_, ?_⟩⟩⟩
  · unfold endFlush
    rw [if_pos ended]
    exact ⟨entersService_enterService rfl rfl rfl, rfl⟩
  · rw [run]
    unfold endFlush
    rw [if_neg (by rw [runs]; decide)]
  · simp only [step, none]
  · rw [tick_outOfReset (by rw [runs]; decide)]
    show s.phase.next s.timeBase.tickEnds = _
    rw [runs]
    rfl

/-- Settles O39: the two ways a pending restart is taken, and the tick that ends a flush. -/
theorem restartsTakeEffectAndEnd : Obligations.RestartsTakeEffectAndEnd :=
  ⟨pendingRestartTakesEffectOnce, flushEndsAtTick⟩

end Sys2Proof.Statements
end

section
/-! PROOFS. The serial memory and pass 1 of a load (R167, R168). -/

namespace Sys2Proof.Statements

open Sys2Proof.Machine Sys2Proof.Safety

variable {s t u : State} {m : SerialMemory} {status : ImageStatus} {code : Byte} {trailer left pos done n k : Nat}
  {records : List (List Byte)} {bytes rest : List Byte} {up : Bool}

/-! ## Bytes of the memory (R167) -/

theorem memoryReadsMostSignificantFirst : MemoryReadsMostSignificantFirst := by
  refine ⟨memoryByte_getMsbD, fun m n silent => ?_⟩
  have pulled : memoryByte m n = if m.pullUp then 0xFF else 0 := by
    unfold memoryByte
    rw [silent]
    cases m.pullUp <;> simp [List.range_succ] <;> rfl
  rw [pulled]
  exact ⟨fun up => if_pos up, fun down => if_neg (by rw [down]; exact Bool.false_ne_true)⟩

theorem memoryBytes_append (m : SerialMemory) (start a b : Nat) :
    memoryBytes m start (a + b) = memoryBytes m start a ++ memoryBytes m (start + a) b := by
  unfold memoryBytes
  rw [← List.map_append, List.range'_append_1]

theorem memoryBytes_succ (m : SerialMemory) (start n : Nat) :
    memoryBytes m start (n + 1) = memoryByte m start :: memoryBytes m (start + 1) n := by
  unfold memoryBytes
  rw [List.range'_succ, List.map_cons]

@[simp] theorem length_memoryBytes (m : SerialMemory) (start n : Nat) : (memoryBytes m start n).length = n := by
  simp [memoryBytes]

/-- What a memory that answers bytes reads as. -/
theorem memoryBytes_memoryOf (bytes : List Byte) (up : Bool) (start n : Nat) (inside : start + n ≤ bytes.length) :
    memoryBytes (memoryOf bytes up) start n = (bytes.drop start).take n := by
  refine List.ext_getElem (by simp; omega) fun k here _ => ?_
  have lt : start + k < bytes.length := by simp at here; omega
  have byte : memoryByte (memoryOf bytes up) (start + k) = bytes.getD (start + k) (if up then 0xFF else 0) :=
    memoryByte_of_bytes bytes up (start + k)
  simp only [memoryBytes, List.getElem_map, List.getElem_range', Nat.one_mul, byte, List.getElem_take, List.getElem_drop]
  rw [List.getD_eq_getElem _ _ lt]

/-! ## The end of a load (R170) -/

theorem endOfStartUp_of_load (ran : u.loader.status ≠ .notRun) :
    u.endOfStartUp = u.enterService.raise .imageResult 0 u.loader.status.code := if_neg ran

/-- A load that ends with a status, the loader's bookkeeping aside. -/
theorem loadEnded_endLoad {l : ImageLoader} (errors : l.errors = s.loader.errors) (ran : status ≠ .notRun)
    (is : status.code = code) : LoadEnded s (({ s with loader := l } : State).endLoad status) status code := by
  unfold State.endLoad
  rw [endOfStartUp_of_load ran]
  refine ⟨entersService_enterService rfl rfl rfl, rfl, rfl, errors, ?_⟩
  rw [← is]
  rfl

/-- Pass 1 that fails ends the load. -/
theorem pass1_fails {records : Nat} (loading : s.phase = .loading) (pass1 : s.loader.state = .pass1)
    (judged : judgePass1 m = some (status, n, records)) (ran : status ≠ .notRun) (is : status.code = code) :
    ∃ t, exec (.pass1End m) s = .next t ∧ LoadEnded s t status code := by
  refine ⟨_, rfl, ?_⟩
  unfold finishPass1
  rw [if_pos ⟨loading, pass1⟩]
  simp only [judged]
  exact loadEnded_endLoad rfl ran is

theorem pass1_passes (loading : s.phase = .loading) (pass1 : s.loader.state = .pass1) (judged : judgePass1 m = none) :
    exec (.pass1End m) s = .next ((s.modifyLoader fun l =>
      { l.withHeader m 6 with
        errors := 0, pass1Check := checkOf (memoryBytes m 0 (imageLength m - 2)) }).endPass.beginPass .pass2) := by
  show Host.Outcome.next (finishPass1 m s) = _
  unfold finishPass1
  rw [if_pos ⟨loading, pass1⟩]
  simp only [judged]

/-! ## The walk over the records (R168) -/

theorem memoryBytes_two (m : SerialMemory) (start : Nat) :
    memoryBytes m start 2 = [memoryByte m start, memoryByte m (start + 1)] := rfl

/-- The walk goes on over a record that lies whole before the trailer. -/
theorem walkRecords_step (least : 1 ≤ (memoryByte m pos).toNat) (most : (memoryByte m pos).toNat ≤ 60)
    (fits : pos + 1 + (memoryByte m pos).toNat ≤ trailer) :
    walkRecords m trailer (left + 1) pos done =
      walkRecords m trailer left (pos + 1 + (memoryByte m pos).toNat) (done + 1) := by
  have most : (memoryByte m pos).toNat ≤ Config.maxPayload := most
  unfold walkRecords
  dsimp only
  rw [if_neg (by omega), if_neg (by omega)]
  cases left <;> rfl

theorem walkRecords_breaks (broken : trailer ≤ pos ∨ (memoryByte m pos).toNat = 0 ∨ 60 < (memoryByte m pos).toNat ∨
    trailer < pos + 1 + (memoryByte m pos).toNat) : (walkRecords m trailer (left + 1) pos done).good = false := by
  unfold walkRecords
  dsimp only
  by_cases end_ : trailer ≤ pos
  · rw [if_pos end_]
  · rw [if_neg end_, if_pos (broken.resolve_left end_)]

/-- A walk past `k` records stands at the next one. -/
theorem walkRecords_past (count : Nat) (walks : WalksPast m trailer k) (some : k ≤ count) :
    walkRecords m trailer count 6 0 = walkRecords m trailer (count - k) (recordOffset m k) k := by
  induction k with
  | zero => rfl
  | succ k ih =>
    obtain ⟨least, most, fits⟩ := walks k (Nat.lt_succ_self k)
    rw [ih (fun j lt => walks j (Nat.lt_succ_of_lt lt)) (by omega), show count - k = count - (k + 1) + 1 by omega]
    exact walkRecords_step least most fits

/-! ## What pass 1 refuses (R168) -/

theorem numberOf_eq_iff (x y : Byte) (c : Word) : numberOf x y = c.toNat ↔ x = highByte c ∧ y = lowByte c := by
  have split : numberOf (highByte c) (lowByte c) = c.toNat := by
    have whole := congrArg BitVec.toNat (highByte_append_lowByte c)
    rw [BitVec.toNat_append, Nat.shiftLeft_eq, ← Nat.shiftLeft_eq, ← Nat.shiftLeft_add_eq_or_of_lt (lowByte c).isLt,
      Nat.shiftLeft_eq] at whole
    exact whole
  constructor
  · intro same
    rw [← split] at same
    unfold numberOf at same
    exact ⟨BitVec.eq_of_toNat_eq (by omega), BitVec.eq_of_toNat_eq (by omega)⟩
  · rintro ⟨rfl, rfl⟩
    exact split

/-- Pass 1 behind its identifier, version and length. -/
theorem judgePass1_of_header (id0 : memoryByte m 0 = 0xC7) (id1 : memoryByte m 1 = 0x1A) (version : memoryByte m 2 = 1)
    (least : 8 ≤ imageLength m) (most : imageLength m ≤ 4096) :
    let w := walkRecords m (imageLength m - 2) (memoryByte m 3).toNat 6 0
    let c := checkOf (memoryBytes m 0 (imageLength m - 2))
    (w.good = false → judgePass1 m = some (.rejectedFormat, w.position, w.recordsRead)) ∧
    (w.good = true → memoryBytes m (imageLength m - 2) 2 ≠ [highByte c, lowByte c] →
      judgePass1 m = some (.rejectedCheck, imageLength m, w.recordsRead)) ∧
    (w.good = true → memoryBytes m (imageLength m - 2) 2 = [highByte c, lowByte c] → judgePass1 m = none) := by
  dsimp only
  have tail : judgePass1 m =
      if !(walkRecords m (imageLength m - 2) (memoryByte m 3).toNat 6 0).good then
        some (.rejectedFormat, (walkRecords m (imageLength m - 2) (memoryByte m 3).toNat 6 0).position,
          (walkRecords m (imageLength m - 2) (memoryByte m 3).toNat 6 0).recordsRead)
      else if memoryBytes m (imageLength m - 2) 2 ≠
          [highByte (checkOf (memoryBytes m 0 (imageLength m - 2))), lowByte (checkOf (memoryBytes m 0 (imageLength m - 2)))] then
        some (.rejectedCheck, imageLength m, (walkRecords m (imageLength m - 2) (memoryByte m 3).toNat 6 0).recordsRead)
      else none := by
    have id : memoryBytes m 0 2 = [0xC7, 0x1A] := by rw [memoryBytes_two, id0, id1]
    unfold judgePass1
    dsimp only
    rw [id, if_neg (by decide), if_neg (by decide), if_neg (by rw [version]; decide), if_neg]
    exact not_or.mpr ⟨Nat.not_lt.mpr least, Nat.not_lt.mpr most⟩
  rw [tail]
  refine ⟨fun bad => ?_, fun good differs => ?_, fun good same => ?_⟩
  · rw [if_pos (by rw [bad]; rfl)]
  · rw [if_neg (by rw [good]; decide), if_pos differs]
  · rw [if_neg (by rw [good]; decide), if_neg (not_not.mpr same)]

theorem brokenImagesRefused : BrokenImagesRefused := by
  intro m s loading pass1
  dsimp only
  have ends : ∀ {status : ImageStatus} {code : Byte} {n records : Nat}, judgePass1 m = some (status, n, records) →
      status ≠ .notRun → status.code = code → ∃ t, exec (.pass1End m) s = .next t ∧ LoadEnded s t status code :=
    fun judged ran is => pass1_fails loading pass1 judged ran is
  have two : memoryBytes m 0 2 = [memoryByte m 0, memoryByte m 1] := rfl
  refine ⟨fun b0 b1 => ends (n := 2) (records := 0) ?_ (by decide) rfl,
    fun some other => ends (n := 2) (records := 0) ?_ (by decide) rfl, fun id0 id1 =>
    ⟨fun version => ends (n := 3) (records := 0) ?_ (by decide) rfl,
      fun version length => ends (n := 6) (records := 0) ?_ (by decide) rfl, fun version least most => ?_⟩⟩
  · unfold judgePass1
    rw [two, b0, b1]
    rfl
  · unfold judgePass1
    rw [two, if_neg (by simpa using some), if_pos (by simpa using other)]
  · unfold judgePass1
    rw [two, id0, id1, if_neg (by decide), if_neg (by decide), if_pos version]
  · unfold judgePass1
    rw [two, id0, id1, if_neg (by decide), if_neg (by decide), if_neg (not_not.mpr version)]
    exact if_pos length
  · obtain ⟨format, check, -⟩ := judgePass1_of_header id0 id1 version least most
    refine ⟨fun k below walks broken => ends (format ?_) (by decide) rfl, fun walks =>
      ⟨fun elsewhere => ends (format ?_) (by decide) rfl, fun here differs => ends (check ?_ ?_) (by decide) rfl⟩⟩
    · rw [walkRecords_past (trailer := imageLength m - 2) _ walks (Nat.le_of_lt below),
        show (memoryByte m 3).toNat - k = (memoryByte m 3).toNat - k - 1 + 1 by omega]
      refine walkRecords_breaks ?_
      rcases broken with here | zero | long | past
      · exact .inl (Nat.le_of_eq here.symm)
      · exact .inr (.inl (by rw [zero]; rfl))
      · exact .inr (.inr (.inl long))
      · exact .inr (.inr (.inr past))
    · rw [walkRecords_past (trailer := imageLength m - 2) _ walks le_rfl, Nat.sub_self]
      exact beq_eq_false_iff_ne.mpr elsewhere
    · rw [walkRecords_past (trailer := imageLength m - 2) _ walks le_rfl, Nat.sub_self]
      exact beq_iff_eq.mpr here
    · rw [memoryBytes_two]
      intro same
      have least : 8 ≤ imageLength m := least
      rw [show imageLength m - 2 + 1 = imageLength m - 1 by omega] at same
      obtain ⟨high, low⟩ := List.cons_eq_cons.mp same
      exact differs ((numberOf_eq_iff _ _ _).mpr ⟨high, (List.cons_eq_cons.mp low).1⟩)

/-- Settles O40: the bits read, and each refusal of pass 1 with the walk that comes to it. -/
theorem pass1RefusesWhatIsNoImage : Obligations.Pass1RefusesWhatIsNoImage :=
  ⟨memoryReadsMostSignificantFirst, brokenImagesRefused⟩

end Sys2Proof.Statements
end

section
/-! PROOFS. A well-formed image passes pass 1 (R19, R168). -/

namespace Sys2Proof.Statements

open Sys2Proof.Machine Sys2Proof.Safety

variable {s : State} {m : SerialMemory} {trailer pos done n : Nat} {records : List (List Byte)} {bytes a b rest : List Byte}
  {up : Bool}

/-- The records as they stand in an image: each behind its length. -/
def recordBytes (records : List (List Byte)) : List Byte := records.flatMap fun r => byteOf r.length :: r

theorem length_imageBody (records : List (List Byte)) : (imageBody records).length = (recordBytes records).length + 6 := by
  simp [imageBody, recordBytes]

/-- The memory reads as `a ++ b` where it reads as `a` and behind it as `b`. -/
theorem memoryBytes_eq_append : memoryBytes m pos (a ++ b).length = a ++ b ↔
    memoryBytes m pos a.length = a ∧ memoryBytes m (pos + a.length) b.length = b := by
  rw [List.length_append, memoryBytes_append]
  exact ⟨fun same => List.append_inj same (by simp), fun ⟨one, two⟩ => by rw [one, two]⟩

/-- The walk passes over records that stand in the memory one behind the other up to the trailer. -/
theorem walkRecords_records (pos done : Nat) (stand : memoryBytes m pos (recordBytes records).length = recordBytes records)
    (lengths : ∀ r ∈ records, 1 ≤ r.length ∧ r.length ≤ 60) (ends : trailer = pos + (recordBytes records).length) :
    walkRecords m trailer records.length pos done = ⟨true, trailer, done + records.length⟩ := by
  induction records generalizing pos done with
  | nil =>
    subst ends
    show Walk.mk _ _ _ = _
    simp
  | cons r records ih =>
    have split : recordBytes (r :: records) = (byteOf r.length :: r) ++ recordBytes records := by simp [recordBytes]
    obtain ⟨least, most⟩ := lengths r List.mem_cons_self
    rw [split] at stand ends
    obtain ⟨here, behind⟩ := memoryBytes_eq_append.mp stand
    rw [List.length_cons, memoryBytes_succ] at here
    have length : (memoryByte m pos).toNat = r.length := by
      rw [(List.cons_eq_cons.mp here).1, toNat_byteOf (by omega)]
    rw [List.length_append, List.length_cons] at ends
    rw [List.length_cons, walkRecords_step (by omega) (by omega) (by omega), length]
    rw [ih (pos + 1 + r.length) (done + 1) (by simpa [Nat.add_assoc, Nat.add_comm 1] using behind)
      (fun x mem => lengths x (List.mem_cons_of_mem _ mem)) (by omega)]
    simp [Nat.add_assoc, Nat.add_comm 1]

theorem numberOf_byteOf (small : n < 65536) : numberOf (byteOf (n / 256)) (byteOf (n % 256)) = n := by
  unfold numberOf
  rw [toNat_byteOf (by omega), toNat_byteOf (by omega)]
  omega

/-- What pass 1 reads of a memory with the body of a well-formed image at its start. -/
theorem header_of_image (body : memoryBytes m 0 (imageBody records).length = imageBody records) (few : records.length ≤ 255)
    (short : (imageBody records).length + 2 ≤ 4096) :
    memoryByte m 0 = 0xC7 ∧ memoryByte m 1 = 0x1A ∧ memoryByte m 2 = 1 ∧ (memoryByte m 3).toNat = records.length ∧
      imageLength m = (imageBody records).length + 2 ∧
      memoryBytes m 6 (recordBytes records).length = recordBytes records := by
  have length := length_imageBody records
  obtain ⟨header, stand⟩ := memoryBytes_eq_append (b := recordBytes records).mp body
  obtain ⟨b0, header⟩ := List.cons_eq_cons.mp header
  obtain ⟨b1, header⟩ := List.cons_eq_cons.mp header
  obtain ⟨b2, header⟩ := List.cons_eq_cons.mp header
  obtain ⟨b3, header⟩ := List.cons_eq_cons.mp header
  obtain ⟨b4, header⟩ := List.cons_eq_cons.mp header
  obtain ⟨b5, -⟩ := List.cons_eq_cons.mp header
  refine ⟨b0, b1, b2, ?_, ?_, stand⟩
  · exact (congrArg BitVec.toNat b3).trans (toNat_byteOf (by omega))
  · unfold imageLength
    rw [show memoryByte m 4 = _ from b4, show memoryByte m 5 = _ from b5]
    exact (numberOf_byteOf (by show (recordBytes records).length + 8 < _; omega)).trans (by
      show (recordBytes records).length + 8 = _; omega)

/-- Settles O41: the walk over the records comes to the trailer, which alone decides. -/
theorem wellFormedImagePassesPass1 : Obligations.WellFormedImagePassesPass1 := by
  intro records rest up s loading pass1 few lengths short
  dsimp only
  have judge : ∀ x y : Byte, let m := memoryOf (imageBody records ++ x :: y :: rest) up
      let c := checkOf (imageBody records)
      imageLength m = (imageBody records).length + 2 ∧ (memoryByte m 3).toNat = records.length ∧
      memoryBytes m 0 (imageLength m - 2) = imageBody records ∧
      ((x ≠ highByte c ∨ y ≠ lowByte c) → judgePass1 m = some (.rejectedCheck, imageLength m, records.length)) ∧
      (x = highByte c → y = lowByte c → judgePass1 m = none) := by
    intro x y
    dsimp only
    generalize is : memoryOf (imageBody records ++ x :: y :: rest) up = m
    have body : memoryBytes m 0 (imageBody records).length = imageBody records := by
      rw [← is, memoryBytes_memoryOf _ _ _ _ (by simp)]
      simp
    have trailer : memoryBytes m (imageBody records).length 2 = [x, y] := by
      rw [← is, memoryBytes_memoryOf _ _ _ _ (by simp)]
      simp
    obtain ⟨id0, id1, version, count, total, stand⟩ := header_of_image body few short
    have length := length_imageBody records
    obtain ⟨-, check, good⟩ := judgePass1_of_header id0 id1 version (by omega) (by omega)
    have behind : imageLength m - 2 = (imageBody records).length := by omega
    rw [behind, body, trailer, count, walkRecords_records 6 0 stand lengths (by omega)] at check good
    refine ⟨total, count, by rw [behind, body], fun differs => ?_, fun high low => good rfl (by rw [high, low])⟩
    rw [check rfl fun same => ?_, Nat.zero_add]
    obtain ⟨high, low⟩ := List.cons_eq_cons.mp same
    exact differs.elim (· high) (· (List.cons_eq_cons.mp low).1)
  refine ⟨?_, fun x y differs => ?_⟩
  · obtain ⟨total, count, body, -, good⟩ := judge (highByte (checkOf (imageBody records))) (lowByte (checkOf (imageBody records)))
    rw [pass1_passes loading pass1 (good rfl rfl), body]
    simp only [ImageLoader.withHeader, State.modifyLoader, State.endPass, State.beginPass, total, count, List.append_assoc]
    rfl
  · obtain ⟨-, -, -, bad, -⟩ := judge x y
    exact pass1_fails loading pass1 (bad differs) (by decide) rfl

end Sys2Proof.Statements
end

section
/-! PROOFS. What all management requests have in common (R149 to R151): the rows, their argument counts, and the course of a
request whatever its port does with the reply. -/

namespace Sys2Proof.Statements

open Sys2Proof.Machine Sys2Proof.Safety

variable {s b t : State} {h : HeldFrame} {rest : List HeldFrame} {i j : SlotId} {p q : Port} {c : Instr} {code : Byte}
  {args payload data : List Byte} {command : Command} {result : Result} {w : Waiting} {selects : List Byte → Bool}
  {x : Executed} {n : Nat} {ingress : Port}

/-! ## The rows of Table 10-1 -/

/-- The command of a row. -/
def commandOf : Instr → Command
  | .readStatus => readStatus
  | .readCounters => readCounters
  | .readStation => readStation
  | .writeStation => writeStation
  | .removeStation => removeStation
  | .listStations => listStations
  | .flushLearned => flushLearned
  | .readRule => readRule
  | .insertRule => insertRule
  | .deleteRule => deleteRule
  | .replaceRule => replaceRule
  | .setRuleDefaults => setRuleDefaults
  | .readPort => readPort
  | .setPortState => setPortState
  | .setRate => setRate
  | .confirmRate => confirmRate
  | .setPortOptions => setPortOptions
  | .readExchanges => readExchanges
  | .setTimeouts => setTimeouts
  | .setAging => setAging
  | .setManagers => setManagers
  | .setAddress => setAddress
  | .setNoticeTarget => setNoticeTarget
  | .ackNotice => ackNotice
  | .restart => restart
  | _ => unlistedCommand

theorem exec_request (is : requestCode c = some code) (s : State) :
    exec c s = s.whenInService (runRequest (namesCode code) (commandOf c)) := by
  unfold requestCode at is
  split at is <;> cases is <;> rfl

/-! ## Too few arguments (R150) -/

theorem short_of_one (none : command ingress [] s = x) (short : args.length < 1) : command ingress args s = x := by
  match args, short with
  | [], _ => exact none

theorem short_of_two (none : command ingress [] s = x) (one : ∀ a, command ingress [a] s = x) (short : args.length < 2) :
    command ingress args s = x := by
  match args, short with
  | [], _ => exact none
  | [a], _ => exact one a

theorem short_of_three (none : command ingress [] s = x) (one : ∀ a, command ingress [a] s = x)
    (two : ∀ a b, command ingress [a, b] s = x) (short : args.length < 3) : command ingress args s = x := by
  match args, short with
  | [], _ => exact none
  | [a], _ => exact one a
  | [a, b], _ => exact two a b

theorem short_of_four (none : command ingress [] s = x) (one : ∀ a, command ingress [a] s = x)
    (two : ∀ a b, command ingress [a, b] s = x) (three : ∀ a b c, command ingress [a, b, c] s = x)
    (short : args.length < 4) : command ingress args s = x := by
  match args, short with
  | [], _ => exact none
  | [a], _ => exact one a
  | [a, b], _ => exact two a b
  | [a, b, c], _ => exact three a b c

theorem insertRule_short (short : args.length < 9) : insertRule ingress args s = s.fails .badLength := by
  unfold insertRule
  split
  · simp only [List.length_cons] at short
    omega
  · rfl

theorem replaceRule_short (short : args.length < 9) : replaceRule ingress args s = s.fails .badLength := by
  unfold replaceRule
  split
  · simp only [List.length_cons] at short
    omega
  · rfl

/-- SET_MANAGERS names its own argument count in its first argument, a count above 4 aside (R158). -/
theorem setManagers_short (short : args.length < argumentCount .setManagers args) :
    setManagers ingress args s = s.fails .badLength := by
  match args with
  | [] => rfl
  | n :: l =>
    have short : l.length + 1 < if 4 < n.toNat then 1 else n.toNat + 1 := short
    by_cases many : 4 < n.toNat
    · rw [if_pos many] at short
      omega
    · rw [if_neg many] at short
      unfold setManagers
      dsimp only
      rw [if_neg many, if_pos (by omega)]

theorem commandOf_short (is : requestCode c = some code) (short : args.length < argumentCount c args) :
    commandOf c ingress args s = s.fails .badLength := by
  cases c with
  | readCounters => exact short_of_three rfl (fun _ => rfl) (fun _ _ => rfl) short
  | writeStation => exact short_of_four rfl (fun _ => rfl) (fun _ _ => rfl) (fun _ _ _ => rfl) short
  | insertRule => exact insertRule_short (ingress := ingress) short
  | replaceRule => exact replaceRule_short (ingress := ingress) short
  | setRuleDefaults => exact short_of_two rfl (fun _ => rfl) short
  | setPortState => exact short_of_two rfl (fun _ => rfl) short
  | setPortOptions => exact short_of_two rfl (fun _ => rfl) short
  | setAging => exact short_of_two rfl (fun _ => rfl) short
  | setNoticeTarget => exact short_of_two rfl (fun _ => rfl) short
  | setRate => exact short_of_three rfl (fun _ => rfl) (fun _ _ => rfl) short
  | setTimeouts => exact short_of_four rfl (fun _ => rfl) (fun _ _ => rfl) (fun _ _ _ => rfl) short
  | setManagers => exact setManagers_short (ingress := ingress) short
  | readStatus => exact short_of_one rfl short
  | readStation => exact short_of_one rfl short
  | removeStation => exact short_of_one rfl short
  | listStations => exact short_of_one rfl short
  | flushLearned => exact short_of_one rfl short
  | readRule => exact short_of_one rfl short
  | deleteRule => exact short_of_one rfl short
  | readPort => exact short_of_one rfl short
  | confirmRate => exact short_of_one rfl short
  | readExchanges => exact short_of_one rfl short
  | setAddress => exact short_of_one rfl short
  | ackNotice => exact short_of_one rfl short
  | restart => exact short_of_one rfl short
  | _ => cases is

/-! ## The course of a request (R149) -/

/-- The characters of the reply to a request (R16, R151). -/
def replyFrame (request : Slot) (own : Byte) (payload : List Byte) : List Character :=
  frameCharacters request.source own (controlOf .reply 0 request.tag) payload

/-- The head request whose command has come to `b`: its reply is sent, the request finished, and what
waits on the reply recorded or taken. -/
theorem runRequest_performs (r : AtHead s h rest i) (names : selects (s.slot h.slot).payload = true)
    (performs : (claimed s i).perform h (s.slot h.slot) command = ⟨b, result, data, w⟩) :
    runRequest selects command s =
      let sent := b.sendReply i (s.slot h.slot) h.ingress (replyPayload (s.slot h.slot).code result data)
      (sent.1.finishRequest h).settle w i sent.2 := by
  rw [runRequest_claimed s selects command r.queue names r.free]
  have request : (s.modifySlot i fun _ => ⟨[], 0, .inUse⟩).slot h.slot = s.slot h.slot :=
    State.slot_modifySlot_other _ _ r.slot_ne
  unfold State.executeRequest
  dsimp only
  rw [request, show (s.modifySlot i fun _ => ⟨[], 0, .inUse⟩) = claimed s i from rfl, performs]

theorem perform_accepted (accepts : s.accepts (s.slot h.slot).source = true) (asks : (s.slot h.slot).payload = code :: args) :
    (claimed s i).perform h (s.slot h.slot) command = command h.ingress args (claimed s i) := by
  unfold State.perform
  rw [if_pos (show (claimed s i).accepts (s.slot h.slot).source = true from accepts), asks]
  rfl

theorem accepts_of_accepted
    (accepted : s.management.managers = [] ∨ (s.slot h.slot).source ∈ s.management.managers) :
    s.accepts (s.slot h.slot).source = true := by
  rcases accepted with none | mem
  · simp [State.accepts, none]
  · simp [State.accepts, mem]

theorem perform_denied (managed : s.management.managers ≠ []) (stranger : (s.slot h.slot).source ∉ s.management.managers) :
    (claimed s i).perform h (s.slot h.slot) command = (claimed s i).fails .denied := by
  have rejects : s.accepts (s.slot h.slot).source = false := by simp [State.accepts, managed, stranger]
  exact if_neg (ne_true_of_eq_false rejects)

/-- What a command that comes to `b` leaves as its request found it in `s`. -/
structure KeepsRequest (s b : State) (h : HeldFrame) : Prop where
  queue : b.management.queue = s.management.queue
  own : b.management.ownAddress = s.management.ownAddress
  input : b.relay.input = s.relay.input
  current : ∀ p j, (b.port p).receiver.currentSlot = some j → (s.port p).receiver.currentSlot = some j
  refs : (b.slot h.slot).refs = (s.slot h.slot).refs

theorem KeepsRequest.refl (s : State) (h : HeldFrame) : KeepsRequest s s h := ⟨rfl, rfl, rfl, fun _ _ => id, rfl⟩

theorem KeepsRequest.heldOutside (k : KeepsRequest s b h) (free : s.heldOutside j = false) : b.heldOutside j = false :=
  heldOutside_of_given_up free (fun q => k.current q j) k.input k.queue

/-- A request finished: the input queue moves on and the slot of its head is let go. -/
theorem finishRequest_only (t : State) (h : HeldFrame) : t.finishRequest h =
    { t with slots := (t.finishRequest h).slots, management := { t.management with queue := t.management.queue.drop 1 } } := by
  unfold State.finishRequest
  rw [State.letGo_only]
  rfl

/-- The request's slot is FREE once it is finished, where no entry and no other place holds it. -/
theorem AtHead.slot_finished (r : AtHead s h rest i) (queue : t.management.queue = h :: rest)
    (input : t.relay.input = s.relay.input)
    (current : ∀ q j, (t.port q).receiver.currentSlot = some j → (s.port q).receiver.currentSlot = some j)
    (slot : (t.slot h.slot).refs = (s.slot h.slot).refs) : (t.finishRequest h).slot h.slot = Slot.empty := by
  have left : (s.modifyManagement fun m => { m with queue := m.queue.drop 1 }).heldOutside h.slot = false :=
    r.released (congrArg (List.drop 1) r.queue) rfl fun _ => rfl
  have alone : (t.modifyManagement fun m => { m with queue := m.queue.drop 1 }).heldOutside h.slot = false :=
    heldOutside_of_given_up left (fun q => current q h.slot) input (congrArg (List.drop 1) (queue.trans r.queue.symm))
  unfold State.finishRequest
  rw [State.slot_letGo_same]
  exact if_pos ⟨slot.trans r.refs, by rw [alone]; exact Bool.false_ne_true⟩

/-- A reply is a generated frame for its request's port. -/
theorem sendReply_judged (judged : Judges b p (generatedEntry i)) (request : Slot) (payload : List Byte) :
    ∃ t n, (claimed b i).sendReply i request p payload = (t, n != 0) ∧
      GeneratedSent b t i (replyFrame request b.management.ownAddress payload) [p] n :=
  ⟨_, _, rfl, sendGenerated_judged (List.nodup_singleton _) fun q mem => by rw [List.mem_singleton.mp mem]; exact judged⟩

theorem GeneratedSent.one {frame : List Character} (sent : GeneratedSent s t i frame [p] n) (room : HasRoom s p) : n = 1 := by
  rw [sent.count, List.filter_cons, if_pos (takes_iff.mpr room)]
  rfl

theorem GeneratedSent.none {frame : List Character} (sent : GeneratedSent s t i frame [p] n) (refuses : RefusesReply s p) :
    n = 0 := by
  rw [sent.count, List.filter_cons, if_neg (by rw [takes_of_refuses refuses]; exact Bool.false_ne_true)]
  rfl

/-- A reply sent and its request finished, whatever the port does. -/
structure RequestFinished (b t u : State) (h : HeldFrame) (rest : List HeldFrame) (i : SlotId) : Prop where
  only : u = { b with slots := u.slots, ports := u.ports, management := { b.management with queue := rest } }
  reply : u.slot i = t.slot i
  request : u.slot h.slot = Slot.empty
  others : ∀ j, j ≠ i → j ≠ h.slot → u.slot j = b.slot j
  here : u.port h.ingress = offeredAt b h.ingress (generatedEntry i)
  elsewhere : ∀ q, q ≠ h.ingress → u.port q = b.port q

theorem AtHead.finished {frame : List Character} (r : AtHead s h rest i) (k : KeepsRequest s b h)
    (sent : GeneratedSent b t i frame [h.ingress] n) : RequestFinished b t (t.finishRequest h) h rest i := by
  have management : t.management = b.management := by rw [sent.only]
  have current : ∀ q, (t.port q).receiver = (b.port q).receiver := fun q => by
    rw [sent.ports q]
    split
    · exact offeredAt_receiver ..
    · rfl
  have ports : (t.finishRequest h).ports = t.ports := by rw [finishRequest_only]
  have slot : ∀ j, j ≠ h.slot → (t.finishRequest h).slot j = t.slot j := fun j ne => State.slot_letGo_other _ ne
  refine ⟨?_, slot i r.slot_ne.symm, ?_, fun j ni nh => by rw [slot j nh, sent.others j ni], ?_, fun q ne => ?_⟩
  · have finished := finishRequest_only t h
    rw [management, k.queue, r.queue] at finished
    rw [ports]
    refine finished.trans ?_
    generalize (t.finishRequest h).slots = slots
    conv_lhs => rw [sent.only]
    rfl
  · refine r.slot_finished (by rw [management, k.queue, r.queue]) ?_ (fun q j is => k.current q j ?_) ?_
    · rw [show t.relay = b.relay by rw [sent.only], k.input]
    · rwa [current q] at is
    · rw [sent.others h.slot r.slot_ne, k.refs]
  · rw [State.port_congr ports, sent.ports, if_pos (List.mem_singleton.mpr rfl)]
  · rw [State.port_congr ports, sent.ports, if_neg (mt List.mem_singleton.mp ne)]

/-- A reply that its port admits with no displacement. -/
theorem AtHead.answered (r : AtHead s h rest i) (k : KeepsRequest s b h) (room : HasRoom b h.ingress) :
    Replied s b (((claimed b i).sendReply i (s.slot h.slot) h.ingress payload).1.finishRequest h) h rest i payload ∧
      ((claimed b i).sendReply i (s.slot h.slot) h.ingress payload).2 = true := by
  obtain ⟨t, n, sends, sent⟩ := sendReply_judged (i := i) (judges_of_room room) (s.slot h.slot) payload
  have one := sent.one room
  rw [sends]
  subst one
  obtain ⟨only, reply, request, others, here, elsewhere⟩ := r.finished k sent
  refine ⟨⟨only, ?_, request, others, here.trans (if_pos (takes_iff.mpr room)), elsewhere⟩, rfl⟩
  rw [reply, sent.stands Nat.one_ne_zero, k.own]
  rfl

/-- A reply that its port refuses joins no queue. -/
theorem sendReply_refused (refuses : RefusesReply b p) (request : Slot) (payload : List Byte) :
    ∃ t, (claimed b i).sendReply i request p payload = (t, false) ∧
      GeneratedSent b t i (replyFrame request b.management.ownAddress payload) [p] 0 := by
  obtain ⟨t, n, sends, sent⟩ := sendReply_judged (i := i) (judges_of_refuses refuses) request payload
  have none := sent.none refuses
  subst none
  exact ⟨t, sends, sent⟩

/-- A reply that its port refuses. -/
theorem AtHead.unanswered (r : AtHead s h rest i) (k : KeepsRequest s b h) (admin : b.admin h.ingress = s.admin h.ingress)
    (refuses : RefusesReply b h.ingress) (free : s.heldOutside i = false) :
    Unanswered s b (((claimed b i).sendReply i (s.slot h.slot) h.ingress payload).1.finishRequest h) h rest i ∧
      ((claimed b i).sendReply i (s.slot h.slot) h.ingress payload).2 = false := by
  obtain ⟨t, sends, sent⟩ := sendReply_refused (i := i) refuses (s.slot h.slot) payload
  rw [sends]
  obtain ⟨only, reply, request, others, here, elsewhere⟩ := r.finished k sent
  refine ⟨⟨only, reply.trans (sent.gone rfl (k.heldOutside free)), request, others, ?_, elsewhere⟩, rfl⟩
  have refused : offeredAt b h.ingress (generatedEntry i) = refusedAt b h.ingress :=
    if_neg (by rw [takes_of_refuses refuses]; exact Bool.false_ne_true)
  rw [here, refused, ← admin]
  rfl

/-! ## Rows run (R149, R150) -/

/-- A row executes the head request that carries its code. -/
theorem exec_performs (r : AtHead s h rest i) (is : requestCode c = some code) (asks : (s.slot h.slot).payload = code :: args)
    (performs : (claimed s i).perform h (s.slot h.slot) (commandOf c) = ⟨b, result, data, w⟩) :
    exec c s = .next (
      let sent := b.sendReply i (s.slot h.slot) h.ingress (replyPayload code result data)
      (sent.1.finishRequest h).settle w i sent.2) := by
  rw [exec_request is, State.whenInService_inService _ r.inService,
    runRequest_performs r (by rw [asks]; simp [namesCode]) performs,
    show (s.slot h.slot).code = code by unfold Slot.code; rw [asks]; rfl]

/-- A row executes a request that passes the manager check. -/
theorem exec_accepted (r : AtHead s h rest i) (is : requestCode c = some code)
    (accepted : s.management.managers = [] ∨ (s.slot h.slot).source ∈ s.management.managers)
    (asks : (s.slot h.slot).payload = code :: args)
    (performs : commandOf c h.ingress args (claimed s i) = ⟨b, result, data, w⟩) :
    exec c s = .next (
      let sent := b.sendReply i (s.slot h.slot) h.ingress (replyPayload code result data)
      (sent.1.finishRequest h).settle w i sent.2) :=
  exec_performs r is asks ((perform_accepted (accepts_of_accepted accepted) asks).trans performs)

/-- The row answers a request whose command comes to `b` with nothing waiting on the reply. -/
theorem AtHead.answers (r : AtHead s h rest i) (is : requestCode c = some code)
    (asks : (s.slot h.slot).payload = code :: args)
    (performs : (claimed s i).perform h (s.slot h.slot) (commandOf c) = ⟨claimed b i, result, data, .nothing⟩)
    (k : KeepsRequest s b h) (room : HasRoom b h.ingress) : Answers c s b h rest i (replyPayload code result data) :=
  ⟨_, exec_performs r is asks performs, (r.answered k room).1⟩

theorem checksComeFirst : ChecksComeFirst := by
  intro c code args h rest i s is r room asks
  refine ⟨fun managed stranger => ?_, fun ready short => ?_⟩
  · exact r.answers is asks (perform_denied managed stranger) (.refl s h) room
  · refine r.answers (result := .badLength) (data := []) is asks ?_ (.refl s h) room
    rw [perform_accepted ready.accepts asks]
    exact commandOf_short is short

/-! ## Requests that name no command (R150) -/

theorem unlisted_of_no_request (none : ∀ c : Instr, requestCode c ≠ some code) : commandCodes.contains code = false := by
  rw [← Bool.not_eq_true, List.contains_iff_mem]
  intro mem
  have named : ∃ c : Instr, requestCode c = some code := by
    simp only [commandCodes, List.mem_cons, List.not_mem_nil, or_false] at mem
    rcases mem with rfl | rfl | rfl | rfl | rfl | rfl | rfl | rfl | rfl | rfl | rfl | rfl | rfl | rfl | rfl | rfl | rfl | rfl | rfl |
      rfl | rfl | rfl | rfl | rfl | rfl
    exacts [⟨.readStatus, rfl⟩, ⟨.readCounters, rfl⟩, ⟨.readStation, rfl⟩, ⟨.writeStation, rfl⟩, ⟨.removeStation, rfl⟩,
      ⟨.listStations, rfl⟩, ⟨.flushLearned, rfl⟩, ⟨.readRule, rfl⟩, ⟨.insertRule, rfl⟩, ⟨.deleteRule, rfl⟩,
      ⟨.replaceRule, rfl⟩, ⟨.setRuleDefaults, rfl⟩, ⟨.readPort, rfl⟩, ⟨.setPortState, rfl⟩, ⟨.setRate, rfl⟩,
      ⟨.confirmRate, rfl⟩, ⟨.setPortOptions, rfl⟩, ⟨.readExchanges, rfl⟩, ⟨.setTimeouts, rfl⟩, ⟨.setAging, rfl⟩,
      ⟨.setManagers, rfl⟩, ⟨.setAddress, rfl⟩, ⟨.setNoticeTarget, rfl⟩, ⟨.ackNotice, rfl⟩, ⟨.restart, rfl⟩]
  obtain ⟨c, is⟩ := named
  exact none c is

/-- A request that names no command is answered with a failure under its own code. -/
theorem unknown_answers (r : AtHead s h rest i) (room : HasRoom s h.ingress)
    (none : namesNoCommand (s.slot h.slot).payload = true)
    (performs : (claimed s i).perform h (s.slot h.slot)
      (if (s.slot h.slot).payload = [] then emptyPayload else unlistedCommand) = (claimed s i).fails result) :
    Answers .unknownCommand s s h rest i (replyPayload (s.slot h.slot).code result []) := by
  refine ⟨_, ?_, (r.answered (.refl s h) room).1⟩
  rw [show exec .unknownCommand s = s.whenInService runUnknown from rfl, State.whenInService_inService _ r.inService]
  unfold runUnknown
  simp only [r.queue]
  rw [runRequest_performs r none performs]
  rfl

theorem unknownCommandsAnswered : UnknownCommandsAnswered := by
  intro h rest i s r room
  dsimp only
  have accepts : ¬ (s.management.managers ≠ [] ∧ (s.slot h.slot).source ∉ s.management.managers) →
      (claimed s i).accepts (s.slot h.slot).source = true := fun known => by
    rw [not_and_or, not_not, not_not] at known
    exact accepts_of_accepted known
  refine ⟨fun empty => ⟨fun ⟨managed, stranger⟩ => ?_, fun known => ?_⟩, fun code args asks unnamed => ?_⟩
  · have answers := unknown_answers r room (by rw [empty]; rfl) (perform_denied managed stranger)
    rwa [show (s.slot h.slot).code = 0 by unfold Slot.code; rw [empty]; rfl] at answers
  · have answers := unknown_answers (result := .badLength) r room (by rw [empty]; rfl) (by
      rw [if_pos empty]
      exact if_pos (accepts known))
    rwa [show (s.slot h.slot).code = 0 by unfold Slot.code; rw [empty]; rfl] at answers
  · have none : namesNoCommand (s.slot h.slot).payload = true := by
      rw [asks]
      show (!commandCodes.contains code) = true
      rw [unlisted_of_no_request unnamed]
      rfl
    have is : (s.slot h.slot).code = code := by unfold Slot.code; rw [asks]; rfl
    refine ⟨fun ⟨managed, stranger⟩ => ?_, fun known => ?_⟩
    · have answers := unknown_answers r room none (perform_denied managed stranger)
      rwa [is] at answers
    · have answers := unknown_answers (result := .unknownCommand) r room none (by
        rw [if_neg (by rw [asks]; exact List.cons_ne_nil _ _)]
        exact if_pos (accepts known))
      rwa [is] at answers

theorem requestsWait : RequestsWait := by
  intro c code s is service
  rw [exec_request is, State.whenInService_inService _ service]
  refine ⟨fun none => by rw [runRequest_waits _ _ _ none], fun h rest queue other => ?_⟩
  rw [runRequest_unselected _ _ _ queue (by simpa [namesCode] using other)]

/-! ## Replies refused, and replies that displace (R33, R151) -/

/-- The reply has displaced the entry `d` of its port's full queue and the request is finished: its slot FREE, the reply in slot
`i`. -/
structure DisplacedByReply (s t : State) (h : HeldFrame) (rest : List HeldFrame) (i : SlotId) (payload : List Byte)
    (d : QueueEntry) (kept : List QueueEntry) : Prop where
  only : t = { s with
    slots := t.slots, ports := t.ports, words := announcedWords s h.ingress .displaced d
    management := { s.management with queue := rest } }
  reply : t.slot i = replySlot (s.slot h.slot) s.management.ownAddress payload
  request : t.slot h.slot = Slot.empty
  shared : 1 < (s.slot d.slot).refs → t.slot d.slot = { s.slot d.slot with refs := (s.slot d.slot).refs - 1 }
  last : (s.slot d.slot).refs = 1 → s.heldOutside d.slot = false → t.slot d.slot = Slot.empty
  others : ∀ j : SlotId, j ≠ i → j ≠ h.slot → j ≠ d.slot → t.slot j = s.slot j
  port : DisplacedFor (s.port h.ingress) (t.port h.ingress) (generatedEntry i) kept
  ports : ∀ q : Port, q ≠ h.ingress → t.port q = s.port q

variable {before behind : List QueueEntry} {d : QueueEntry}

/-- `s` with the reply to `h` standing in slot `i`, not yet admitted. -/
def replyBuilt (s : State) (h : HeldFrame) (i : SlotId) (payload : List Byte) : State :=
  s.modifySlot i fun _ => ⟨replyFrame (s.slot h.slot) s.management.ownAddress payload, 0, .inUse⟩

theorem AtHead.displaces (r : AtHead s h rest i) (up : (s.admin h.ingress).isDown = false)
    (full : (s.port h.ingress).transmitter.queue.length = 16)
    (waits : (s.port h.ingress).transmitter.waiting = before ++ d :: behind) (ordinary : d.band = .ordinary)
    (last : ∀ y ∈ behind, y.band = .priority) (ni : d.slot ≠ i) (nh : d.slot ≠ h.slot) :
    DisplacedByReply s (((claimed s i).sendReply i (s.slot h.slot) h.ingress payload).1.finishRequest h) h rest i payload d
      (before ++ behind) := by
  obtain ⟨-, -, displaced⟩ := admissionToFullQueue h.ingress (generatedEntry i) (replyBuilt s h i payload) up full
  obtain ⟨t, offers, only, ports, port, others, slot, words, shared, one⟩ :=
    displaced before behind d rfl waits ordinary last ni
  have only : t = { s with slots := t.slots, ports := t.ports, words := t.words } := only
  have base : (replyBuilt s h i payload).slot i = ⟨replyFrame (s.slot h.slot) s.management.ownAddress payload, 0, .inUse⟩ :=
    State.slot_modifySlot_same ..
  have unbuilt : ∀ j, j ≠ i → (replyBuilt s h i payload).slot j = s.slot j := fun j ne => State.slot_modifySlot_other _ _ ne
  rw [show (generatedEntry i).slot = i from rfl, base] at slot
  have sends : ((claimed s i).sendReply i (s.slot h.slot) h.ingress payload).1 = t := by
    have offers : ((claimed s i).modifySlot i fun f => { f with
        chars := frameCharacters (s.slot h.slot).source (claimed s i).management.ownAddress
          (controlOf .reply 0 (s.slot h.slot).tag) payload }).offer h.ingress (generatedEntry i) = (t, true) := by
      unfold claimed
      rw [State.modifySlot_modifySlot]
      exact offers
    unfold State.sendReply State.sendGenerated State.offerAll
    rw [show (⟨.priority, 0, .generated, i⟩ : QueueEntry) = generatedEntry i from rfl]
    dsimp only
    rw [offers]
    exact State.letGo_of_refs t (by rw [slot]; exact Nat.one_ne_zero)
  rw [sends]
  have management : t.management = s.management := by rw [only]
  have finishedPorts : (t.finishRequest h).ports = t.ports := by rw [finishRequest_only]
  have current : ∀ q, (t.port q).receiver.currentSlot = (s.port q).receiver.currentSlot := fun q => by
    by_cases ne : q = h.ingress
    · rw [ne]
      exact congrArg (·.receiver.currentSlot) port.1
    · rw [ports q ne]
      rfl
  have finished : ∀ j, j ≠ h.slot → (t.finishRequest h).slot j = t.slot j := fun j ne => State.slot_letGo_other _ ne
  refine ⟨?_, ?_, ?_, fun refs => ?_, fun refs held => ?_, fun j ni nh nd => ?_, ?_, fun q ne => ?_⟩
  · have finish := finishRequest_only t h
    rw [management, r.queue] at finish
    rw [finishedPorts]
    refine finish.trans ?_
    generalize (t.finishRequest h).slots = slots
    conv_lhs => rw [only, words]
    rfl
  · rw [finished i r.slot_ne.symm, slot]
    rfl
  · refine r.slot_finished (by rw [management, r.queue]) (by rw [only]) (fun q j is => by rwa [current q] at is) ?_
    rw [others h.slot r.slot_ne nh.symm, unbuilt h.slot r.slot_ne]
  · rw [finished _ nh, shared (by rw [unbuilt _ ni]; exact refs), unbuilt _ ni]
  · rw [finished _ nh, one (by rw [unbuilt _ ni]; exact refs) ((State.heldOutside_modifySlot ..).trans held)]
  · rw [finished j nh, others j ni nd, unbuilt j ni]
  · rw [State.port_congr finishedPorts]
    exact port
  · rw [State.port_congr finishedPorts, ports q ne]
    rfl

theorem repliesRefusedOrDisplacing : RepliesRefusedOrDisplacing := by
  intro c code args h rest i s is r asks managed stranger
  dsimp only
  have run := exec_performs r is asks (perform_denied managed stranger)
  refine ⟨fun refuses free => ⟨_, run, (r.unanswered (.refl s h) rfl refuses free).1⟩,
    fun before behind d up full waits ordinary last ni nh => ?_⟩
  obtain ⟨only, reply, request, shared, one, others, port, ports⟩ :=
    r.displaces (payload := replyPayload code .denied []) up full waits ordinary last ni nh
  exact ⟨_, run, only, reply, request, shared, one, others, port, ports⟩

/-- Settles O43: the checks before a command, the requests that name none, those that wait, and the fates of a reply. -/
theorem requestsAreCheckedAndAnswered : Obligations.RequestsAreCheckedAndAnswered :=
  ⟨checksComeFirst, unknownCommandsAnswered, requestsWait, repliesRefusedOrDisplacing⟩

end Sys2Proof.Statements
end

section
/-! PROOFS. The arguments of the commands (R150), and READ_COUNTERS (R153). -/

namespace Sys2Proof.Statements

open Sys2Proof.Machine Sys2Proof.Safety

variable {s b t : State} {h : HeldFrame} {rest : List HeldFrame} {i : SlotId} {p q : Port} {x : Byte} {more : List Byte}
  {ingress : Port}

/-! ## Arguments (R150) -/

theorem eq_byteOf_of_lt (small : x.toNat < n) (le : n ≤ 256) : ∃ k : Fin n, x = byteOf k.val :=
  ⟨⟨x.toNat, small⟩, BitVec.eq_of_toNat_eq (toNat_byteOf (Nat.lt_of_lt_of_le small le)).symm⟩

@[simp] theorem classArgument_byteOf (c : TimeoutClass) : classArgument (byteOf c.val) = some c := by
  match c with
  | 0 | 1 | 2 | 3 => rfl

theorem classArgument_of_gt (outside : 3 < x.toNat) : classArgument x = none := dif_neg (Nat.not_lt.mpr outside)

@[simp] theorem rateArgument_byteOf (c : RateCode) : rateArgument (byteOf c.val) = some c := by
  match c with
  | 0 | 1 | 2 | 3 | 4 | 5 | 6 | 7 => rfl

theorem rateArgument_of_gt (outside : 7 < x.toNat) : rateArgument x = none := dif_neg (Nat.not_lt.mpr outside)

@[simp] theorem flagArgument_flag (flag : Bool) : flagArgument (if flag = true then 1 else 0) = some flag := by
  cases flag <;> rfl

@[simp] theorem setArgument_byteOf (v : BitVec 4) : setArgument (byteOf v.toNat) = some v := by
  revert v; decide

theorem setArgument_of_gt (outside : 15 < x.toNat) : setArgument x = none := if_neg (Nat.not_lt.mpr outside)

theorem eq_zero_or_one_of_le (small : x.toNat ≤ 1) : x = 0 ∨ x = 1 := by
  rcases Nat.le_one_iff_eq_zero_or_eq_one.mp small with zero | one
  · exact .inl (BitVec.eq_of_toNat_eq zero)
  · exact .inr (BitVec.eq_of_toNat_eq one)

theorem passDropArgument_of_le (small : x.toNat ≤ 1) : passDropArgument x = some (if x = 0 then .pass else .drop) := by
  rcases eq_zero_or_one_of_le small with rfl | rfl <;> rfl

theorem passDropArgument_of_gt (outside : 1 < x.toNat) : passDropArgument x = none := by
  have zero : x ≠ 0 := by rintro rfl; simp at outside
  have one : x ≠ 1 := by rintro rfl; simp at outside
  exact (if_neg zero).trans (if_neg one)

theorem ne_of_two_lt (outside : 2 < x.toNat) : x ≠ 0 ∧ x ≠ 1 ∧ x ≠ 2 :=
  ⟨by rintro rfl; simp at outside, by rintro rfl; simp at outside, by rintro rfl; simp at outside⟩

theorem actionArgument_of_gt (outside : 2 < x.toNat) : actionArgument x = none := by
  obtain ⟨zero, one, two⟩ := ne_of_two_lt outside
  exact (if_neg zero).trans ((if_neg one).trans (if_neg two))

theorem stateArgument_of_gt (outside : 2 < x.toNat) : stateArgument x = none := by
  obtain ⟨zero, one, two⟩ := ne_of_two_lt outside
  exact (if_neg zero).trans ((if_neg one).trans (if_neg two))

theorem windowArgument_of_range (least : 1 ≤ x.toNat) (most : x.toNat ≤ 30) : windowArgument x = some x.toNat :=
  if_pos ⟨least, most⟩

theorem windowArgument_outside (outside : x = 0 ∨ 30 < x.toNat) : windowArgument x = none := by
  refine if_neg fun ⟨least, most⟩ => ?_
  rcases outside with rfl | long
  · exact absurd least (by decide)
  · omega

@[simp] theorem selectionArgument_port (p : Port) : selectionArgument (byteOf p.val) = some (.port p) := by
  match p with
  | 0 | 1 | 2 | 3 => rfl

theorem selectionArgument_outside (outside : 3 < x.toNat) (part : x ≠ 0x0F) : selectionArgument x = none := by
  unfold selectionArgument
  rw [if_neg part, portArgument_of_gt outside]
  rfl

/-! ## A command that changes one port -/

theorem port_setPort (s : State) (p q : Port) (y : LinePort) :
    ({ s with ports := s.ports.set p y } : State).port q = if q = p then y else s.port q := by
  by_cases eq : q = p
  · rw [if_pos eq, eq]
    exact Four.get_set_same ..
  · rw [if_neg eq]
    exact Four.get_set_other _ _ eq

theorem answers_of_port {c : Instr} {code : Byte} {args data : List Byte} {result : Result} {y : LinePort}
    (hr : Requested s h rest i (code :: args)) (is : requestCode c = some code)
    (performs : commandOf c h.ingress args (claimed s i) =
      ⟨claimed { s with ports := s.ports.set p y } i, result, data, .nothing⟩)
    (current : ∀ j, y.receiver.currentSlot = some j → (s.port p).receiver.currentSlot = some j)
    (up : (s.admin p).isDown = false → y.record.admin.isDown = false)
    (queue : y.transmitter.queue = (s.port p).transmitter.queue) :
    Answers c s { s with ports := s.ports.set p y } h rest i (replyPayload code result data) := by
  obtain ⟨ready, asks⟩ := hr
  obtain ⟨open_, room⟩ := ready.room
  refine ready.toAtHead.answers is asks ((perform_accepted ready.accepts asks).trans performs)
    ⟨rfl, rfl, rfl, fun q j has => ?_, rfl⟩ ⟨?_, ?_⟩
  · rw [port_setPort] at has
    by_cases eq : q = p
    · rw [if_pos eq] at has
      rw [eq]
      exact current j has
    · rwa [if_neg eq] at has
  · unfold State.admin
    rw [port_setPort]
    by_cases eq : h.ingress = p
    · rw [if_pos eq]
      exact up (eq ▸ open_)
    · rw [if_neg eq]
      exact open_
  · rw [port_setPort]
    by_cases eq : h.ingress = p
    · rw [if_pos eq, queue, ← eq]
      exact room
    · rw [if_neg eq]
      exact room

/-! ## READ_COUNTERS (R153) -/

theorem countBytes_eq (c : Count) : countBytes c =
    [byteOf (c.toNat / 16777216), byteOf (c.toNat / 65536), byteOf (c.toNat / 256), byteOf c.toNat] := by
  have part : ∀ k, c.extractLsb' k 8 = byteOf (c.toNat / 2 ^ k) := fun k => by
    refine BitVec.eq_of_toNat_eq ?_
    rw [BitVec.extractLsb'_toNat, Nat.shiftRight_eq_div_pow]
    exact (BitVec.toNat_ofNat ..).symm
  have whole : c.extractLsb' 0 8 = byteOf c.toNat := by rw [part 0, Nat.pow_zero, Nat.div_one]
  unfold countBytes
  rw [part 24, part 16, part 8, whole]
  rfl

theorem toList_cleared_port (start n : Nat) (k : PortCounters) :
    (k.cleared start n).toList = k.toList.mapIdx (clearedIn start n) := by
  simp [PortCounters.toList, PortCounters.cleared, List.mapIdx_cons]

theorem toList_cleared_whole (start n : Nat) (k : RelayCounters) :
    (k.cleared start n).toList = k.toList.mapIdx (clearedIn start n) := by
  simp [RelayCounters.toList, RelayCounters.cleared, List.mapIdx_cons]

/-- The counters one reply reports are those that lie within 14 of its start. -/
theorem mapIdx_clearedIn_reported (l : List Count) (start : Nat) :
    l.mapIdx (clearedIn start ((l.drop start).take 14).length) =
      l.mapIdx fun k c => if start ≤ k ∧ k < start + 14 then 0 else c := by
  refine List.ext_getElem (by simp) fun k lt _ => ?_
  simp only [List.length_mapIdx] at lt
  simp only [List.getElem_mapIdx, clearedIn, List.length_take, List.length_drop]
  have same : (start ≤ k ∧ k < start + min 14 (l.length - start)) ↔ (start ≤ k ∧ k < start + 14) := by omega
  simp only [same]

/-- The result data of READ_COUNTERS. -/
def countersData (start : Byte) (l : List Count) : List Byte :=
  start :: byteOf ((l.drop start.toNat).take 14).length ::
    ((l.drop start.toNat).take 14).flatMap fun c =>
      [byteOf (c.toNat / 16777216), byteOf (c.toNat / 65536), byteOf (c.toNat / 256), byteOf c.toNat]

variable {sel : Selection} {start flag : Byte}

theorem readCounters_keeping (is : selectionArgument x = some sel) (inside : start.toNat < (s.countersOf sel).length) :
    readCounters ingress (x :: 0 :: start :: more) s = s.answers (countersData start (s.countersOf sel)) := by
  unfold readCounters countersData
  simp only [is, show flagArgument 0 = some false from rfl, State.countersFrom, if_pos inside, ← countBytes_eq,
    Bool.false_eq_true, if_false]

theorem readCounters_clearing (is : selectionArgument x = some sel) (inside : start.toNat < (s.countersOf sel).length) :
    readCounters ingress (x :: 1 :: start :: more) s =
      ⟨s.clearCounters sel start.toNat (((s.countersOf sel).drop start.toNat).take 14).length, .ok,
        countersData start (s.countersOf sel), .nothing⟩ := by
  unfold readCounters countersData
  simp only [is, show flagArgument 1 = some true from rfl, State.countersFrom, if_pos inside, ← countBytes_eq, if_true]

theorem readCounters_of_no_selection (is : selectionArgument x = none) :
    readCounters ingress (x :: flag :: start :: more) s = s.fails .badArgument := by
  unfold readCounters
  simp only [is]

theorem readCounters_of_no_flag (is : flagArgument flag = none) :
    readCounters ingress (x :: flag :: start :: more) s = s.fails .badArgument := by
  unfold readCounters
  simp only [is]
  cases selectionArgument x <;> rfl

theorem readCounters_of_end (is : selectionArgument x = some sel) (beyond : (s.countersOf sel).length ≤ start.toNat) :
    readCounters ingress (x :: flag :: start :: more) s = s.fails .badArgument := by
  unfold readCounters
  simp only [is]
  cases flagArgument flag with
  | none => rfl
  | some clear => exact if_neg (Nat.not_lt.mpr beyond)

/-- Settles O45: the reply for a port and for the relay, with and without the clearing, and the argument checks. -/
theorem readCountersReportsAndClears : Obligations.ReadCountersReportsAndClears := by
  intro h rest i x flag start more s hr
  dsimp only
  refine ⟨fun p is inside => ⟨?_, ?_⟩, fun is inside => ⟨?_, ?_⟩, fun bad => ?_⟩
  · rintro rfl
    exact answers_of_report readCounters hr rfl (readCounters_keeping (sel := .port p) (by rw [is]; simp) inside)
  · rintro rfl
    refine ⟨(s.port p).counters.cleared start.toNat (((s.port p).counters.toList.drop start.toNat).take 14).length, ?_, ?_⟩
    · rw [toList_cleared_port, mapIdx_clearedIn_reported]
    · have clears := readCounters_clearing (s := claimed s i) (x := x) (start := start) (ingress := h.ingress) (more := more) (sel := .port p)
        (by rw [is]; simp) inside
      exact answers_of_port (c := .readCounters) hr rfl clears (fun _ => id) id rfl
  · rintro rfl
    exact answers_of_report readCounters hr rfl (readCounters_keeping (sel := .whole) (by rw [is]; rfl) inside)
  · rintro rfl
    refine ⟨s.counters.cleared start.toNat ((s.counters.toList.drop start.toNat).take 14).length, ?_, ?_⟩
    · rw [toList_cleared_whole, mapIdx_clearedIn_reported]
    · have clears := readCounters_clearing (s := claimed s i) (x := x) (start := start) (ingress := h.ingress) (more := more) (sel := .whole)
        (by rw [is]; rfl) inside
      exact answers_of_command (b := { s with
        counters := s.counters.cleared start.toNat ((s.counters.toList.drop start.toNat).take 14).length }) readCounters hr rfl
        clears rfl rfl rfl rfl rfl (fun _ => rfl) hr.1.room
  · refine answers_of_fails (result := .badArgument) readCounters hr rfl ?_
    rcases bad with ⟨outside, part⟩ | noFlag | ⟨port, beyond⟩ | ⟨whole, beyond⟩
    · exact readCounters_of_no_selection (selectionArgument_outside outside part)
    · exact readCounters_of_no_flag (flagArgument_of_gt noFlag)
    · obtain ⟨p, rfl⟩ := eq_byteOf_of_lt (n := 4) (Nat.lt_succ_of_le port) (by decide)
      exact readCounters_of_end (sel := .port p) (selectionArgument_port p) beyond
    · rw [whole]
      exact readCounters_of_end (sel := .whole) rfl beyond

end Sys2Proof.Statements
end

section
/-! PROOFS. The station commands and the rule commands (R154, R155). -/

namespace Sys2Proof.Statements

open Sys2Proof.Machine Sys2Proof.Safety

variable {s b t : State} {h : HeldFrame} {rest : List HeldFrame} {i : SlotId} {p : Port} {a x y z w k : Byte} {more : List Byte}
  {ingress : Port} {e : StationEntry} {c : TimeoutClass} {retry : Bool} {r : RuleFields}

/-- A command that leaves slots, ports, the request queue, the own address and the input list alone is answered OK. -/
theorem answers_of_effect {c : Instr} {code : Byte} {args : List Byte} (command : Command)
    (hr : Requested s h rest i (code :: args)) (hx : exec c s = s.whenInService (runRequest (namesCode code) command))
    (performs : command h.ingress args (claimed s i) = (claimed b i).done) (queue : b.management.queue = s.management.queue)
    (own : b.management.ownAddress = s.management.ownAddress) (input : b.relay.input = s.relay.input)
    (slots : b.slots = s.slots) (ports : b.ports = s.ports) : Answers c s b h rest i [code, 0] := by
  obtain ⟨up, room⟩ := hr.1.room
  have port := State.port_congr ports
  refine answers_of_command command hr hx performs rfl queue own input slots (fun q => by rw [port q]) ⟨?_, ?_⟩
  · unfold State.admin
    rw [port]
    exact up
  · rw [port]
    exact room

/-! ## STATIC writes (R88, R89) -/

theorem writeStatic_known (known : ∃ x ∈ s.map.entries, x.address = e.address) :
    s.writeStatic e = some (s.modifyStation e.address fun _ => e) := by
  obtain ⟨x, mem, same⟩ := known
  unfold State.writeStatic
  cases found : s.lookup e.address with
  | none => exact absurd same (lookup_eq_none.mp found x mem)
  | some _ => rfl

theorem writeStatic_room (unknown : ∀ x ∈ s.map.entries, x.address ≠ e.address) (room : s.map.entries.length < 96) :
    s.writeStatic e = some (s.addStation e) := by
  unfold State.writeStatic
  rw [lookup_eq_none.mpr unknown]
  exact if_pos (mapHasRoom_iff.mpr room)

theorem writeStatic_evicts (unknown : ∀ x ∈ s.map.entries, x.address ≠ e.address) {v : StationEntry}
    (evicted : Evicted s.map.entries v) :
    s.writeStatic e = some ((s.removeStations (·.address == v.address)).addStation e) := by
  rw [writeStatic_full (lookup_eq_none.mpr unknown) evicted.full, evictionChoice_of_evicted evicted]
  rfl

theorem writeStatic_refused (static : ∀ x ∈ s.map.entries, x.address ≠ e.address ∧ x.origin = .static)
    (full : 96 ≤ s.map.entries.length) : s.writeStatic e = none := by
  unfold State.writeStatic
  rw [lookup_eq_none.mpr fun x mem => (static x mem).1]
  have noRoom : ¬ s.mapHasRoom = true := fun room => Nat.not_lt.mpr full (mapHasRoom_iff.mp room)
  dsimp only
  rw [if_neg noRoom, evictionChoice_none fun x mem => (static x mem).2]
  rfl

/-! ## WRITE_STATION (R154) -/

/-- The entry that WRITE_STATION writes. -/
def staticEntry (a : Byte) (p : Port) (c : TimeoutClass) (retry : Bool) : StationEntry := ⟨a, .static, p, retry, 0, c⟩

theorem writeStation_of_written (station : isStationAddress a = true) (other : a ≠ s.management.ownAddress)
    (written : s.writeStatic (staticEntry a p c retry) = some t) :
    writeStation ingress (a :: byteOf p.val :: byteOf c.val :: (if retry = true then 1 else 0) :: more) s = t.done := by
  unfold writeStation
  dsimp only
  rw [if_pos ⟨station, other⟩, portArgument_byteOf, classArgument_byteOf, flagArgument_flag]
  dsimp only
  rw [show (⟨a, .static, p, retry, 0, c⟩ : StationEntry) = staticEntry a p c retry from rfl, written]

theorem writeStation_of_refused (station : isStationAddress a = true) (other : a ≠ s.management.ownAddress)
    (refused : s.writeStatic (staticEntry a p c retry) = none) :
    writeStation ingress (a :: byteOf p.val :: byteOf c.val :: (if retry = true then 1 else 0) :: more) s = s.fails .full := by
  unfold writeStation
  dsimp only
  rw [if_pos ⟨station, other⟩, portArgument_byteOf, classArgument_byteOf, flagArgument_flag]
  dsimp only
  rw [show (⟨a, .static, p, retry, 0, c⟩ : StationEntry) = staticEntry a p c retry from rfl, refused]

theorem writeStation_of_bad (bad : a = 0x00 ∨ a = 0xFF ∨ a = s.management.ownAddress ∨ 3 < x.toNat ∨ 3 < y.toNat ∨ 1 < z.toNat) :
    writeStation ingress (a :: x :: y :: z :: more) s = s.fails .badArgument := by
  unfold writeStation
  dsimp only
  by_cases good : isStationAddress a = true ∧ a ≠ s.management.ownAddress
  · rw [if_pos good]
    obtain ⟨station, other⟩ := good
    rcases bad with zero | ones | own | port | class_ | flag
    · rw [zero] at station
      exact absurd station (by decide)
    · rw [ones] at station
      exact absurd station (by decide)
    · exact absurd own other
    · rw [portArgument_of_gt port]
    · rw [classArgument_of_gt class_]
      cases portArgument x <;> rfl
    · rw [flagArgument_of_gt flag]
      cases portArgument x <;> cases classArgument y <;> rfl
  · rw [if_neg good]

/-! ## The readings and the removals (R154) -/

theorem readStation_of_known (known : s.lookup a = some e) : readStation ingress (a :: more) s = s.answers
    [e.address, portCharacter e.port, e.originCharacter, byteOf e.age, byteOf e.timeoutClass.val,
      flagCharacter e.retry, byteOf e.silence.val] := by
  unfold readStation
  simp only [known]

theorem readStation_of_unknown (unknown : s.lookup a = none) : readStation ingress (a :: more) s = s.fails .notFound := by
  unfold readStation
  simp only [unknown]

theorem removeStation_of_known (known : ∃ x ∈ s.map.entries, x.address = a) :
    removeStation ingress (a :: more) s = (s.removeStations fun e => e.address == a).done := by
  obtain ⟨x, mem, same⟩ := known
  refine if_pos ?_
  cases found : s.lookup a with
  | none => exact absurd same (lookup_eq_none.mp found x mem)
  | some _ => rfl

theorem removeStation_of_unknown (unknown : ∀ x ∈ s.map.entries, x.address ≠ a) :
    removeStation ingress (a :: more) s = s.fails .notFound := by
  refine if_neg ?_
  rw [lookup_eq_none.mpr unknown]
  exact Bool.false_ne_true

theorem flushLearned_of_selection {sel : Selection} (is : selectionArgument a = some sel) :
    flushLearned ingress (a :: more) s = ⟨s.removeStations fun e => e.learnedIn sel, .ok,
      [byteOf (s.map.entries.countP fun e => e.learnedIn sel)], .nothing⟩ := by
  unfold flushLearned
  simp only [is]

theorem flushLearned_of_none (is : selectionArgument a = none) :
    flushLearned ingress (a :: more) s = s.fails .badArgument := by
  unfold flushLearned
  simp only [is]

theorem originCharacter_eq (e : StationEntry) : e.originCharacter = if e.origin = .static then 0 else 1 := by
  unfold StationEntry.originCharacter StationEntry.isLearned
  cases origin : e.origin <;> rfl

theorem isLearned_eq (e : StationEntry) : e.isLearned = decide (e.origin ≠ .static) := by
  unfold StationEntry.isLearned
  cases origin : e.origin <;> rfl

theorem byteOf_port_injective (p q : Port) : byteOf p.val = byteOf q.val ↔ p = q := by
  revert p q; decide

theorem byteOf_port_ne_whole (p : Port) : (byteOf p.val == 0x0F) = false := by
  revert p; decide

theorem stationReadings : StationReadings := by
  intro h rest i a more s ascending origin age
  have ages : ∀ e : StationEntry, byteOf e.age = age e := fun e => by
    obtain ⟨_, o, _, _, _, _⟩ := e
    cases o <;> rfl
  refine ⟨fun hr => ⟨fun e mem same => ?_, fun unknown => ?_⟩, fun hr => ?_⟩
  · subst same
    have distinct : s.map.entries.Pairwise fun x y => x.address ≠ y.address := ascending.imp fun lt eq => by
      rw [eq] at lt
      exact Nat.lt_irrefl _ lt
    have reads := readStation_of_known (s := claimed s i) (ingress := h.ingress) (more := more)
      (State.lookup_of_mem (s := s) mem distinct)
    rw [originCharacter_eq, ages] at reads
    exact answers_of_report readStation hr rfl reads
  · exact answers_of_fails readStation hr rfl (readStation_of_unknown (s := claimed s i) (lookup_eq_none.mpr unknown))
  · have lists : listStations h.ingress (a :: more) (claimed s i) = (claimed s i).answers
        (byteOf (s.stationsFrom a).length :: (s.stationsFrom a).flatMap fun e =>
          [e.address, byteOf e.port.val, origin e, age e]) := by
      have each : (fun e : StationEntry => [e.address, portCharacter e.port, e.originCharacter, byteOf e.age]) =
          fun e => [e.address, byteOf e.port.val, origin e, age e] := funext fun e => by
        rw [originCharacter_eq, ages]
        rfl
      rw [← each]
      rfl
    exact answers_of_report listStations hr rfl lists

theorem stationWritings : StationWritings := by
  intro h rest i s
  refine ⟨fun a p c retry more hr station other => ⟨fun known => ?_, fun unknown room => ?_, fun unknown v evicted => ?_,
    fun static full => ?_⟩, fun a p c r more hr bad => ?_, fun a more hr => ⟨fun known => ?_, fun unknown => ?_⟩,
    fun sel more hr => ?_⟩
  · exact answers_of_effect writeStation hr rfl (writeStation_of_written (s := claimed s i) station other
      (writeStatic_known (s := claimed s i) known)) rfl rfl rfl rfl rfl
  · exact answers_of_effect writeStation hr rfl (writeStation_of_written (s := claimed s i) station other
      (writeStatic_room (s := claimed s i) unknown room)) rfl rfl rfl rfl rfl
  · exact answers_of_effect writeStation hr rfl (writeStation_of_written (s := claimed s i) station other
      (writeStatic_evicts (s := claimed s i) (e := staticEntry a p c retry) unknown evicted)) rfl rfl rfl rfl rfl
  · exact answers_of_fails writeStation hr rfl (writeStation_of_refused (s := claimed s i) station other
      (writeStatic_refused (s := claimed s i) static full))
  · exact answers_of_fails writeStation hr rfl (writeStation_of_bad (s := claimed s i) bad)
  · exact answers_of_effect removeStation hr rfl (removeStation_of_known (s := claimed s i) known) rfl rfl rfl rfl rfl
  · exact answers_of_fails removeStation hr rfl (removeStation_of_unknown (s := claimed s i) unknown)
  · intro gone
    refine ⟨fun selects => ?_, fun outside part => ?_⟩
    · obtain ⟨part, is, same⟩ : ∃ part : Selection, selectionArgument sel = some part ∧ (·.learnedIn part) = gone := by
        rcases selects with port | whole
        · obtain ⟨p, rfl⟩ := eq_byteOf_of_lt (n := 4) (Nat.lt_succ_of_le port) (by decide)
          refine ⟨.port p, selectionArgument_port p, funext fun e => ?_⟩
          show (e.isLearned && e.port == p) =
            (decide (e.origin ≠ .static) && (byteOf p.val == 0x0F || byteOf e.port.val == byteOf p.val))
          rw [byteOf_port_ne_whole, Bool.false_or, isLearned_eq]
          congr 1
          rw [Bool.eq_iff_iff, beq_iff_eq, beq_iff_eq, byteOf_port_injective]
        · refine ⟨.whole, by rw [whole]; rfl, funext fun e => ?_⟩
          show e.isLearned = (decide (e.origin ≠ .static) && (sel == 0x0F || byteOf e.port.val == sel))
          rw [whole, isLearned_eq]
          simp
      have flushes := flushLearned_of_selection (s := claimed s i) (ingress := h.ingress) (more := more) is
      rw [same] at flushes
      exact answers_of_command (b := { s with map := { s.map with entries := s.map.entries.filter fun e => !gone e } })
        flushLearned hr rfl flushes rfl rfl rfl rfl rfl (fun _ => rfl) hr.1.room
    · exact answers_of_fails flushLearned hr rfl
        (flushLearned_of_none (s := claimed s i) (selectionArgument_outside outside part))

/-- Settles O47: the readings, the writings, and the list they keep. -/
theorem stationCommands : Obligations.StationCommands := ⟨stationReadings, stationWritings, insertionKeepsEntries⟩

end Sys2Proof.Statements
end

section
/-! PROOFS. The rule commands (R155). -/

namespace Sys2Proof.Statements

open Sys2Proof.Machine Sys2Proof.Safety

variable {s : State} {h : HeldFrame} {rest : List HeldFrame} {i : SlotId} {k d o kinds ports action port sl sh dl dh : Byte}
  {more : List Byte} {ingress : Port} {r : RuleFields} {l : List Rule} {rule : Rule} {n : Nat}

/-! ## Rules as arguments and as data (R155) -/

theorem characters_eq (r : RuleFields) : r.characters = ruleCharacters r := by
  have set : ∀ v : BitVec 4, setByte v = byteOf v.toNat := by decide
  obtain ⟨_, _, _, _, _, _, action, _⟩ := r
  unfold RuleFields.characters
  rw [set, set]
  cases action <;> rfl

/-- The rule that its eight characters name. -/
theorem ruleArgument_characters (r : RuleFields) :
    ruleArgument r.sourceLow r.sourceHigh r.destinationLow r.destinationHigh (byteOf r.kinds.toNat)
      (byteOf r.ingressPorts.toNat) r.action.code (byteOf r.redirectPort.val) = some r := by
  have action : actionArgument r.action.code = some r.action := by cases r.action <;> rfl
  unfold ruleArgument
  rw [setArgument_byteOf, setArgument_byteOf, action, portArgument_byteOf]

theorem ruleArgument_outside (bad : 15 < kinds.toNat ∨ 15 < ports.toNat ∨ 2 < action.toNat ∨ 3 < port.toNat) :
    ruleArgument sl sh dl dh kinds ports action port = none := by
  unfold ruleArgument
  rcases bad with kinds' | ports' | action' | port'
  · rw [setArgument_of_gt kinds']
  · rw [setArgument_of_gt ports']
    cases setArgument kinds <;> rfl
  · rw [actionArgument_of_gt action']
    cases setArgument kinds <;> cases setArgument ports <;> rfl
  · rw [portArgument_of_gt port']
    cases setArgument kinds <;> cases setArgument ports <;> cases actionArgument action <;> rfl

/-- The arguments of a command that takes a rule, written out. -/
theorem ruleCharacters_append (r : RuleFields) (more : List Byte) : ruleCharacters r ++ more =
    r.sourceLow :: r.sourceHigh :: r.destinationLow :: r.destinationHigh :: byteOf r.kinds.toNat ::
      byteOf r.ingressPorts.toNat :: r.action.code :: byteOf r.redirectPort.val :: more := by
  obtain ⟨_, _, _, _, _, _, action, _⟩ := r
  cases action <;> rfl

/-! ## The commands (R155) -/

theorem readRule_of_some (is : s.relay.rules[k.toNat]? = some rule) : readRule ingress (k :: more) s =
    s.answers (rule.fields.characters ++ countBytes rule.hits) := by
  unfold readRule
  simp only [is]

theorem readRule_of_end (beyond : s.relay.rules.length ≤ k.toNat) : readRule ingress (k :: more) s = s.fails .notFound := by
  unfold readRule
  simp only [List.getElem?_eq_none beyond]

theorem insertRule_of_room (inside : k.toNat ≤ s.relay.rules.length) (room : s.relay.rules.length < 32) :
    insertRule ingress (k :: (ruleCharacters r ++ more)) s = (s.modifyRules fun l => l.insertIdx k.toNat ⟨r, 0⟩).done := by
  rw [ruleCharacters_append]
  unfold insertRule
  dsimp only
  rw [if_pos inside, ruleArgument_characters]
  exact if_pos room

theorem insertRule_of_full (inside : k.toNat ≤ s.relay.rules.length) (full : 32 ≤ s.relay.rules.length) :
    insertRule ingress (k :: (ruleCharacters r ++ more)) s = s.fails .full := by
  rw [ruleCharacters_append]
  unfold insertRule
  dsimp only
  rw [if_pos inside, ruleArgument_characters]
  exact if_neg (Nat.not_lt.mpr full)

theorem insertRule_of_end (beyond : s.relay.rules.length < k.toNat) :
    insertRule ingress (k :: (ruleCharacters r ++ more)) s = s.fails .badArgument := by
  rw [ruleCharacters_append]
  exact if_neg (Nat.not_le.mpr beyond)

theorem insertRule_of_bad (bad : 15 < kinds.toNat ∨ 15 < ports.toNat ∨ 2 < action.toNat ∨ 3 < port.toNat) :
    insertRule ingress (k :: sl :: sh :: dl :: dh :: kinds :: ports :: action :: port :: more) s = s.fails .badArgument := by
  unfold insertRule
  dsimp only
  rw [ruleArgument_outside bad]
  exact ite_self _

theorem deleteRule_of_inside (inside : k.toNat < s.relay.rules.length) :
    deleteRule ingress (k :: more) s = (s.modifyRules fun l => l.eraseIdx k.toNat).done := if_pos inside

theorem deleteRule_of_end (beyond : s.relay.rules.length ≤ k.toNat) :
    deleteRule ingress (k :: more) s = s.fails .notFound := if_neg (Nat.not_lt.mpr beyond)

theorem replaceRule_of_inside (inside : k.toNat < s.relay.rules.length) :
    replaceRule ingress (k :: (ruleCharacters r ++ more)) s = (s.modifyRules fun l => l.set k.toNat ⟨r, 0⟩).done := by
  rw [ruleCharacters_append]
  unfold replaceRule
  dsimp only
  rw [ruleArgument_characters]
  exact if_pos inside

theorem replaceRule_of_end (beyond : s.relay.rules.length ≤ k.toNat) :
    replaceRule ingress (k :: (ruleCharacters r ++ more)) s = s.fails .notFound := by
  rw [ruleCharacters_append]
  unfold replaceRule
  dsimp only
  rw [ruleArgument_characters]
  exact if_neg (Nat.not_lt.mpr beyond)

theorem replaceRule_of_bad (bad : 15 < kinds.toNat ∨ 15 < ports.toNat ∨ 2 < action.toNat ∨ 3 < port.toNat) :
    replaceRule ingress (k :: sl :: sh :: dl :: dh :: kinds :: ports :: action :: port :: more) s = s.fails .badArgument := by
  unfold replaceRule
  dsimp only
  rw [ruleArgument_outside bad]

theorem setRuleDefaults_of_flags (small : d.toNat ≤ 1) (small' : o.toNat ≤ 1) : setRuleDefaults ingress (d :: o :: more) s =
    ({ s with relay := { s.relay with
      defaultAction := if d = 0 then .pass else .drop, orphanPolicy := if o = 0 then .pass else .drop } } : State).done := by
  unfold setRuleDefaults
  dsimp only
  rw [passDropArgument_of_le small, passDropArgument_of_le small']

theorem setRuleDefaults_of_bad (bad : 1 < d.toNat ∨ 1 < o.toNat) :
    setRuleDefaults ingress (d :: o :: more) s = s.fails .badArgument := by
  unfold setRuleDefaults
  dsimp only
  rcases bad with first | second
  · rw [passDropArgument_of_gt first]
  · rw [passDropArgument_of_gt second]
    cases passDropArgument d <;> rfl

theorem insertIdx_eq (inside : n ≤ l.length) : l.insertIdx n rule = l.take n ++ rule :: l.drop n := by
  induction n generalizing l with
  | zero => simp
  | succ n ih =>
    match l, inside with
    | x :: l, inside => simp [ih (Nat.le_of_succ_le_succ inside)]

theorem ruleEffects : RuleEffects := by
  intro h rest i s
  dsimp only
  refine ⟨fun k more hr => ⟨fun r is => ?_, fun beyond => ?_⟩, fun k r more hr => ⟨fun inside room => ?_, fun inside full => ?_,
    fun beyond => ?_⟩, fun k more hr => ⟨fun inside => ?_, fun beyond => ?_⟩, fun k r more hr =>
    ⟨fun inside => ?_, fun beyond => ?_⟩, fun d o more hr => ⟨fun small small' => ?_, fun bad => ?_⟩⟩
  · have reads := readRule_of_some (s := claimed s i) (ingress := h.ingress) (more := more) is
    rw [characters_eq, countBytes_eq] at reads
    exact answers_of_report readRule hr rfl reads
  · exact answers_of_fails readRule hr rfl (readRule_of_end (s := claimed s i) beyond)
  · rw [← insertIdx_eq inside]
    exact answers_of_effect insertRule hr rfl (insertRule_of_room (s := claimed s i) inside room) rfl rfl rfl rfl rfl
  · exact answers_of_fails insertRule hr rfl (insertRule_of_full (s := claimed s i) inside full)
  · exact answers_of_fails insertRule hr rfl (insertRule_of_end (s := claimed s i) beyond)
  · rw [← List.eraseIdx_eq_take_drop_succ]
    exact answers_of_effect deleteRule hr rfl (deleteRule_of_inside (s := claimed s i) inside) rfl rfl rfl rfl rfl
  · exact answers_of_fails deleteRule hr rfl (deleteRule_of_end (s := claimed s i) beyond)
  · rw [← List.set_eq_take_cons_drop _ inside]
    exact answers_of_effect replaceRule hr rfl (replaceRule_of_inside (s := claimed s i) inside) rfl rfl rfl rfl rfl
  · exact answers_of_fails replaceRule hr rfl (replaceRule_of_end (s := claimed s i) beyond)
  · exact answers_of_effect setRuleDefaults hr rfl (setRuleDefaults_of_flags (s := claimed s i) small small') rfl rfl rfl rfl rfl
  · exact answers_of_fails setRuleDefaults hr rfl (setRuleDefaults_of_bad (s := claimed s i) bad)

theorem ruleFieldsChecked : RuleFieldsChecked := fun _ _ i _ _ _ _ _ _ _ _ _ _ s bad =>
  ⟨fun hr => answers_of_fails insertRule hr rfl (insertRule_of_bad (s := claimed s i) bad),
    fun hr => answers_of_fails replaceRule hr rfl (replaceRule_of_bad (s := claimed s i) bad)⟩

/-- Settles O48: the five commands, and the fields of a rule checked. -/
theorem ruleCommands : Obligations.RuleCommands := ⟨ruleEffects, ruleFieldsChecked⟩

end Sys2Proof.Statements
end

section
/-! PROOFS. The commands that set managers, own address and notice target, ACK_NOTICE and RESTART (R158 to R161). -/

namespace Sys2Proof.Statements

open Sys2Proof.Machine Sys2Proof.Safety

variable {s b t : State} {h : HeldFrame} {rest : List HeldFrame} {i : SlotId} {a k n : Byte} {l more held payload : List Byte}
  {ingress : Port}

/-! ## SET_MANAGERS (R158) -/

theorem mem_eachOnce_from (l held : List Byte) :
    a ∈ l.foldl (fun held a => if held.contains a then held else held ++ [a]) held ↔ a ∈ held ∨ a ∈ l := by
  induction l generalizing held with
  | nil => simp
  | cons b l ih =>
    rw [List.foldl_cons, ih, List.mem_cons]
    by_cases mem : b ∈ held
    · rw [if_pos (List.contains_iff_mem.mpr mem)]
      constructor
      · rintro (old | new)
        exacts [.inl old, .inr (.inr new)]
      · rintro (old | rfl | new)
        exacts [.inl old, .inl mem, .inr new]
    · rw [if_neg fun has => mem (List.contains_iff_mem.mp has), List.mem_append, List.mem_singleton, or_assoc]

theorem eachOnce_nodup (l : List Byte) : (eachOnce l).Nodup := (eachOnce_spec l [] .nil).1

theorem mem_eachOnce : a ∈ eachOnce l ↔ a ∈ l := (mem_eachOnce_from l []).trans (by simp)

theorem isStationAddress_iff : isStationAddress a = true ↔ a ≠ 0x00 ∧ a ≠ 0xFF := by
  simp [isStationAddress]

theorem setManagers_of_stations (few : n.toNat ≤ 4) (some : n.toNat ≤ l.length)
    (stations : ∀ a ∈ l.take n.toNat, a ≠ 0x00 ∧ a ≠ 0xFF) : setManagers ingress (n :: l) s =
      (s.modifyManagement fun m => { m with managers := eachOnce (l.take n.toNat) }).done := by
  unfold setManagers
  dsimp only
  rw [if_neg (Nat.not_lt.mpr few), if_neg (Nat.not_lt.mpr some), if_pos]
  exact List.all_eq_true.mpr fun a mem => isStationAddress_iff.mpr (stations a mem)

theorem setManagers_of_bad
    (bad : 4 < n.toNat ∨ (n.toNat ≤ l.length ∧ ∃ a ∈ l.take n.toNat, a = 0x00 ∨ a = 0xFF)) :
    setManagers ingress (n :: l) s = s.fails .badArgument := by
  unfold setManagers
  dsimp only
  by_cases many : 4 < n.toNat
  · rw [if_pos many]
  · obtain ⟨some, a, mem, none⟩ := bad.resolve_left many
    rw [if_neg many, if_neg (Nat.not_lt.mpr some), if_neg]
    intro all
    obtain ⟨zero, ones⟩ := isStationAddress_iff.mp (List.all_eq_true.mp all a mem)
    exact none.elim zero ones

theorem managersReplaced : ManagersReplaced := by
  intro h rest i n l s hr
  refine ⟨fun few some stations => ⟨eachOnce (l.take n.toNat), eachOnce_nodup _, fun a => mem_eachOnce, ?_⟩, fun bad => ?_⟩
  · exact answers_of_effect setManagers hr rfl (setManagers_of_stations (s := claimed s i) few some stations)
      rfl rfl rfl rfl rfl
  · exact answers_of_fails setManagers hr rfl (setManagers_of_bad (s := claimed s i) bad)

/-! ## Slot wait (R142) -/

/-- Slot wait after the Notice Unit has tested its conditions. -/
theorem retestSlotWait_eq (s : State) : s.retestSlotWait =
    { s with notices := { s.notices with slotWait := slotWaitAfter s.notices s.management.ownAddress } } := by
  have due : s.noticeDue = none ↔
      s.notices.list = [] ∨ s.notices.target = none ∨ s.notices.target = some s.management.ownAddress := by
    unfold State.noticeDue
    cases s.notices.list <;> cases s.notices.target <;> simp
  unfold State.retestSlotWait
  split
  · next none =>
    have ends : slotWaitAfter s.notices s.management.ownAddress = false := by
      rcases due.mp none with empty | noTarget | own
      · simp [slotWaitAfter, empty]
      · simp [slotWaitAfter, noTarget]
      · simp [slotWaitAfter, own]
    rw [ends]
    rfl
  · next some =>
    rw [due] at some
    have stays : slotWaitAfter s.notices s.management.ownAddress = s.notices.slotWait := by
      obtain ⟨list, target, other⟩ := not_or.mp some |>.imp_right not_or.mp
      simp [slotWaitAfter, list, target, other]
    rw [stays]

/-! ## SET_ADDRESS (R159) -/

/-- `s` with the own address changed. -/
def addressChanged (s : State) (a : Byte) : State :=
  { s with
    management := { s.management with ownAddress := a }
    map := { s.map with entries := s.map.entries.filter (·.address != a) }
    notices := { s.notices with slotWait := slotWaitAfter s.notices a } }

theorem changeOwnAddress_eq (s : State) (a : Byte) : s.changeOwnAddress a = addressChanged s a := retestSlotWait_eq _

theorem Replied.changeOwnAddress (replied : Replied s s t h rest i payload) :
    Replied s (addressChanged s a) (addressChanged t a) h rest i payload := by
  obtain ⟨only, reply, request, others, port, ports⟩ := replied
  refine ⟨?_, reply, request, others, port, ports⟩
  unfold addressChanged
  conv_lhs => rw [only]

theorem Unanswered.changeOwnAddress (unanswered : Unanswered s s t h rest i) :
    Unanswered s (addressChanged s a) (addressChanged t a) h rest i := by
  obtain ⟨only, reply, request, others, port, ports⟩ := unanswered
  refine ⟨?_, reply, request, others, port, ports⟩
  unfold addressChanged
  conv_lhs => rw [only]

theorem setAddress_of_other (station : isStationAddress a = true) (other : a ≠ s.management.ownAddress) :
    setAddress ingress (a :: more) s = ⟨s, .ok, [], .address a⟩ := by
  unfold setAddress
  dsimp only
  rw [if_pos station, if_neg other]

theorem setAddress_of_own (station : isStationAddress a = true) (own : a = s.management.ownAddress) :
    setAddress ingress (a :: more) s = s.done := by
  unfold setAddress
  dsimp only
  rw [if_pos station, if_pos own]

theorem setAddress_of_none (none : a = 0x00 ∨ a = 0xFF) : setAddress ingress (a :: more) s = s.fails .badArgument := by
  refine if_neg fun station => ?_
  obtain ⟨zero, ones⟩ := isStationAddress_iff.mp station
  exact none.elim zero ones

theorem ownAddressChanges : OwnAddressChanges := by
  intro h rest i a more s
  dsimp only
  refine ⟨fun hr => ⟨fun station other => ?_, fun station own => ?_, fun none => ?_⟩, fun unheard station other => ?_⟩
  · obtain ⟨ready, asks⟩ := hr
    have run := exec_accepted (c := .setAddress) (b := claimed s i) ready.toAtHead rfl ready.accepted asks
      (setAddress_of_other (s := claimed s i) (ingress := h.ingress) (more := more) station other)
    obtain ⟨replied, -⟩ := ready.toAtHead.answered (payload := [0x51, 0]) (.refl s h) ready.room
    exact ⟨_, run.trans (congrArg Host.Outcome.next (changeOwnAddress_eq _ a)), replied.changeOwnAddress⟩
  · exact answers_of_effect setAddress hr rfl (setAddress_of_own (s := claimed s i) station own) rfl rfl rfl rfl rfl
  · exact answers_of_fails setAddress hr rfl (setAddress_of_none (s := claimed s i) none)
  · have run := exec_accepted (c := .setAddress) (b := claimed s i) unheard.toAtHead rfl unheard.accepted unheard.asks
      (setAddress_of_other (s := claimed s i) (ingress := h.ingress) (more := more) station other)
    obtain ⟨unanswered, -⟩ := unheard.toAtHead.unanswered (payload := [0x51, 0]) (.refl s h) rfl unheard.refuses
      unheard.notHeld
    exact ⟨_, run.trans (congrArg Host.Outcome.next (changeOwnAddress_eq _ a)), unanswered.changeOwnAddress⟩

/-- Settles O52: the manager set, and the own address with its reply admitted or refused. -/
theorem managerAndAddressCommands : Obligations.ManagerAndAddressCommands := ⟨managersReplaced, ownAddressChanges⟩

/-! ## SET_NOTICE_TARGET and ACK_NOTICE (R160) -/

theorem setNoticeTarget_of_range (station : a ≠ 0xFF) (least : 1 ≤ n.toNat) (most : n.toNat ≤ 60) :
    setNoticeTarget ingress (a :: n :: more) s =
      ((s.modifyNotices fun u => { u with
        interval := n.toNat, target := if a = 0 then none else some a, timer := none }).retestSlotWait).done := by
  refine if_neg ?_
  rintro (ones | zero | long)
  · exact station ones
  · omega
  · omega

theorem setNoticeTarget_of_bad (bad : a = 0xFF ∨ n = 0 ∨ 60 < n.toNat) :
    setNoticeTarget ingress (a :: n :: more) s = s.fails .badArgument :=
  if_pos (bad.imp_right (Or.imp_left fun zero => by rw [zero]; rfl))

theorem ackNotice_of_head {x : Notice} {behind : List Notice} (list : s.notices.list = x :: behind) (is : x.sequence = k) :
    ackNotice ingress (k :: more) s =
      ((s.modifyNotices fun u => { u with
        inFlight := u.inFlight.map (·.afterAck k), list := behind, lost := 0, timer := none }).retestSlotWait).done := by
  have acknowledged : s.acknowledge k = some (s.modifyNotices fun u => { u with
      inFlight := u.inFlight.map (·.afterAck k), list := behind, lost := 0, timer := none }).retestSlotWait := by
    unfold State.acknowledge
    simp only [list, is, if_true]
  unfold ackNotice
  simp only [acknowledged]

theorem ackNotice_of_stale (stale : ∀ (x : Notice) (behind : List Notice), s.notices.list = x :: behind → x.sequence ≠ k) :
    ackNotice ingress (k :: more) s = s.fails .stale := by
  have none : s.acknowledge k = none := by
    unfold State.acknowledge
    split
    · next x behind list => exact if_neg (stale x behind list)
    · rfl
  unfold ackNotice
  simp only [none]

theorem afterAck_eq (f : InFlight) (k : Byte) :
    f.afterAck k = { f with acknowledged := f.acknowledged || decide (f.sequence = k) } := rfl

theorem noticeCommands : NoticeCommands := by
  intro h rest i s
  refine ⟨fun a n more hr => ⟨fun station least most => ?_, fun bad => ?_⟩, fun k more hr =>
    ⟨fun x behind list is => ?_, fun stale => ?_⟩⟩
  · dsimp only
    refine answers_of_effect setNoticeTarget hr rfl ((setNoticeTarget_of_range (s := claimed s i) station least most).trans ?_)
      rfl rfl rfl rfl rfl
    rw [retestSlotWait_eq]
    rfl
  · exact answers_of_fails setNoticeTarget hr rfl (setNoticeTarget_of_bad (s := claimed s i) bad)
  · dsimp only
    refine answers_of_effect ackNotice hr rfl ((ackNotice_of_head (s := claimed s i) list is).trans ?_) rfl rfl rfl rfl rfl
    rw [retestSlotWait_eq]
    rfl
  · exact answers_of_fails ackNotice hr rfl (ackNotice_of_stale (s := claimed s i) stale)

/-! ## RESTART (R161) -/

/-- `s` with a restart pending. -/
def restartPending (s : State) (kind : RestartKind) : State :=
  { s with management := { s.management with pendingRestart := some ⟨kind, 7372800⟩ } }

theorem restart_of_kind {kind : RestartKind} (is : restartArgument k = some kind)
    (none : s.management.pendingRestart = none) :
    restart ingress (k :: more) s = ⟨restartPending s kind, .ok, [], .restart⟩ := by
  unfold restart
  simp only [is, none]
  rfl

theorem restart_of_pending {kind : RestartKind} (is : restartArgument k = some kind)
    (pending : s.management.pendingRestart ≠ none) : restart ingress (k :: more) s = s.fails .pending := by
  unfold restart
  simp only [is]
  exact if_pos (Option.isSome_iff_ne_none.mpr pending)

theorem restart_of_no_kind (one : k ≠ 1) (two : k ≠ 2) : restart ingress (k :: more) s = s.fails .badArgument := by
  have none : restartArgument k = none := (if_neg one).trans (if_neg two)
  unfold restart
  simp only [none]

theorem four_ext {α : Type} {v w : Four α} (same : ∀ p, v.get p = w.get p) : v = w := by
  obtain ⟨a, b, c, d⟩ := v
  obtain ⟨a', b', c', d'⟩ := w
  have h0 : a = a' := same 0
  have h1 : b = b' := same 1
  have h2 : c = c' := same 2
  have h3 : d = d' := same 3
  rw [h0, h1, h2, h3]

/-- The port a refused reply was offered to has counted the refusal or is down, and no other port changes. -/
theorem GeneratedSent.ports_refused {frame : List Character} {p : Port} (sent : GeneratedSent s t i frame [p] 0)
    (refuses : RefusesReply s p) : t.ports = s.ports.set p (refusedAt s p) := by
  refine four_ext fun q => ?_
  have at_q := sent.ports q
  rw [show t.ports.get q = t.port q from rfl]
  by_cases eq : q = p
  · rw [eq, Four.get_set_same]
    exact sent.port_refuses (List.mem_singleton.mpr rfl) (takes_of_refuses refuses)
  · rw [Four.get_set_other _ _ eq, at_q, if_neg (mt List.mem_singleton.mp eq)]
    rfl

/-- A refused RESTART takes effect at once, the refusal counted. -/
theorem restart_refused {kind : RestartKind} (r : AtHead s h rest i)
    (accepted : s.management.managers = [] ∨ (s.slot h.slot).source ∈ s.management.managers)
    (asks : (s.slot h.slot).payload = 0x60 :: k :: more) (is : restartArgument k = some kind)
    (none : s.management.pendingRestart = none) (refuses : RefusesReply s h.ingress) :
    ∃ u : State, exec .restart s = .next u.takeRestart ∧
      u = { s with
        slots := u.slots, ports := s.ports.set h.ingress (refusedAt s h.ingress)
        management := { s.management with queue := rest, pendingRestart := some ⟨kind, 7372800⟩ } } := by
  have run := exec_accepted (c := .restart) (b := claimed (restartPending s kind) i) r rfl accepted asks
    (restart_of_kind (s := claimed s i) (ingress := h.ingress) (more := more) is none)
  obtain ⟨t, sends, sent⟩ := sendReply_refused (b := restartPending s kind) (i := i) (p := h.ingress) refuses (s.slot h.slot)
    (replyPayload 0x60 .ok [])
  rw [sends] at run
  refine ⟨t.finishRequest h, run, ?_⟩
  have ports : t.ports = s.ports.set h.ingress (refusedAt s h.ingress) := sent.ports_refused refuses
  have management : t.management = (restartPending s kind).management := by rw [sent.only]
  have finished := finishRequest_only t h
  rw [management, show (restartPending s kind).management.queue = h :: rest from r.queue] at finished
  refine finished.trans ?_
  generalize (t.finishRequest h).slots = slots
  rw [← ports]
  conv_lhs => rw [sent.only]
  rfl

/-- `s` with a reply put into the departure watch. -/
def watching (s : State) (w : WatchedReply) : State :=
  { s with management := { s.management with watch := s.management.watch ++ [w] } }

theorem Replied.watching {w : WatchedReply} (replied : Replied s b t h rest i payload) :
    Replied s (watching b w) (watching t w) h rest i payload := by
  obtain ⟨only, reply, request, others, port, ports⟩ := replied
  refine ⟨?_, reply, request, others, port, ports⟩
  unfold Statements.watching
  conv_lhs => rw [only]

theorem restartBecomesPending : RestartBecomesPending := by
  intro h rest i k more s
  refine ⟨fun hr => ⟨fun kind is => ⟨fun none => ?_, fun pending => ?_⟩, fun one two => ?_⟩,
    fun r accepted asks none refuses => ⟨fun flush => ?_, fun cold => ?_⟩⟩
  · obtain ⟨ready, asks⟩ := hr
    have is : restartArgument k = some kind := by cases kind <;> (rw [is]; rfl)
    have run := exec_accepted (c := .restart) (b := claimed (restartPending s kind) i) ready.toAtHead rfl ready.accepted asks
      (restart_of_kind (s := claimed s i) (ingress := h.ingress) (more := more) is none)
    obtain ⟨replied, admitted⟩ := ready.toAtHead.answered (b := restartPending s kind) (payload := replyPayload 0x60 .ok [])
      ⟨rfl, rfl, rfl, fun _ _ => id, rfl⟩ ready.room
    dsimp only at run
    rw [admitted] at run
    exact ⟨_, run, replied.watching (w := ⟨i, .restart⟩)⟩
  · have is : restartArgument k = some kind := by cases kind <;> (rw [is]; rfl)
    exact answers_of_fails restart hr rfl (restart_of_pending (s := claimed s i) is pending)
  · exact answers_of_fails restart hr rfl (restart_of_no_kind (s := claimed s i) one two)
  · obtain ⟨u, run, only⟩ := restart_refused (kind := .flush) r accepted asks (by rw [flush]; rfl) none refuses
    refine ⟨_, run, ?_⟩
    obtain ⟨flushes, -⟩ := takeRestart_some (s := u) (r := ⟨.flush, 7372800⟩) (by rw [only])
    have begun := flushes rfl
    rw [only] at begun ⊢
    exact begun
  · obtain ⟨u, run, only⟩ := restart_refused (kind := .cold) r accepted asks (by rw [cold]; rfl) none refuses
    refine ⟨_, run, ?_⟩
    obtain ⟨-, colds⟩ := takeRestart_some (s := u) (r := ⟨.cold, 7372800⟩) (by rw [only])
    refine (colds rfl).trans ?_
    rw [only]

/-- Settles O53: the notice commands, and a restart pending or taken at once. -/
theorem noticeAndRestartCommands : Obligations.NoticeAndRestartCommands := ⟨noticeCommands, restartBecomesPending⟩

end Sys2Proof.Statements
end

section
/-! PROOFS. READ_PORT, SET_PORT_OPTIONS and SET_PORT_STATE (R127, R133, R156). -/

namespace Sys2Proof.Statements

open Sys2Proof.Machine Sys2Proof.Safety

variable {s b t u : State} {h : HeldFrame} {rest : List HeldFrame} {i : SlotId} {p q : Port} {a : AdminState} {k o : Byte}
  {more : List Byte} {ingress : Port} {y : LinePort}

/-! ## READ_PORT and SET_PORT_OPTIONS (R133, R156) -/

theorem readPort_of_port : readPort ingress (byteOf p.val :: more) s = s.answers (s.portData p) := by
  simp [readPort]

theorem readPort_of_gt (outside : 3 < k.toNat) : readPort ingress (k :: more) s = s.fails .badArgument := by
  simp [readPort, portArgument_of_gt outside]

theorem optionsCharacter_eq (r : PortRecord) : r.optionsCharacter =
    byteOf (r.learn.toNat + 2 * r.floodUnknown.toNat + 4 * r.autoRecover.toNat) := by
  have each : ∀ b c d : Bool, setCharacter b c d false = byteOf (b.toNat + 2 * c.toNat + 4 * d.toNat) := by decide
  exact each ..

theorem modifyRecord_eq (s : State) (p : Port) (f : PortRecord → PortRecord) : s.modifyRecord p f =
    { s with ports := s.ports.set p { s.port p with record := f (s.port p).record } } := rfl

/-- The record of a port whose options have been set. -/
def optionsSet (r : PortRecord) (o : Byte) : PortRecord :=
  { r with
    learn := o.getLsbD 0, floodUnknown := o.getLsbD 1, autoRecover := o.getLsbD 2
    recovery := if r.admin = .isolated then (if o.getLsbD 2 then some (r.recovery.getD 0) else none) else r.recovery }

theorem setPortOptions_of_port (small : o.toNat < 8) : setPortOptions ingress (byteOf p.val :: o :: more) s =
    (s.modifyRecord p (optionsSet · o)).done := by
  simp only [setPortOptions, portArgument_byteOf, if_pos small]
  rfl

theorem setPortOptions_of_bad (bad : 3 < k.toNat ∨ 8 ≤ o.toNat) :
    setPortOptions ingress (k :: o :: more) s = s.fails .badArgument := by
  unfold setPortOptions
  dsimp only
  rcases bad with port | option
  · rw [portArgument_of_gt port]
  · cases portArgument k with
    | none => rfl
    | some p => exact if_neg (Nat.not_lt.mpr option)

theorem portReadingAndOptions : PortReadingAndOptions := by
  intro h rest i s
  refine ⟨fun p more hr => ?_, fun k more outside hr => ?_, fun p o more small hr => ?_, fun k o more bad hr => ?_⟩
  · refine answers_of_report readPort hr rfl ((readPort_of_port (s := claimed s i)).trans (congrArg _ ?_))
    unfold State.portData
    rw [show (claimed s i).port p = s.port p from rfl]
    dsimp only
    refine List.cons_eq_cons.mpr ⟨?_, List.cons_eq_cons.mpr ⟨rfl, List.cons_eq_cons.mpr ⟨rfl, List.cons_eq_cons.mpr ⟨?_,
      List.cons_eq_cons.mpr ⟨optionsCharacter_eq _, List.cons_eq_cons.mpr ⟨rfl, List.cons_eq_cons.mpr ⟨?_,
      List.cons_eq_cons.mpr ⟨?_, rfl⟩⟩⟩⟩⟩⟩⟩⟩
    · cases (s.port p).record.admin <;> rfl
    · unfold PortRecord.windowRemaining
      cases (s.port p).record.ratePhase <;> rfl
    · cases (s.port p).receiver.state <;> rfl
    · cases (s.port p).transmitter.state <;> rfl
  · exact answers_of_fails readPort hr rfl (readPort_of_gt (s := claimed s i) outside)
  · exact answers_of_port (c := .setPortOptions) (data := []) (result := .ok) hr rfl (setPortOptions_of_port (s := claimed s i) (ingress := h.ingress) (more := more) small)
      (fun _ => id) id rfl
  · exact answers_of_fails setPortOptions hr rfl (setPortOptions_of_bad (s := claimed s i) bad)

/-! ## The transitions that are no going-down (Table 8-3) -/

theorem stateArgument_code (named : a ≠ .isolated) : stateArgument a.code = some a := by
  cases a with
  | isolated => exact absurd rfl named
  | _ => rfl

theorem setPortState_of_port (named : a ≠ .isolated) :
    setPortState ingress (byteOf p.val :: a.code :: more) s = (s.setPortState p a).done := by
  simp only [setPortState, portArgument_byteOf, stateArgument_code named]

theorem setPortState_of_bad (bad : 3 < k.toNat ∨ 2 < o.toNat) :
    setPortState ingress (k :: o :: more) s = s.fails .badArgument := by
  unfold setPortState
  dsimp only
  rcases bad with port | state
  · rw [portArgument_of_gt port]
  · rw [stateArgument_of_gt state]
    cases portArgument k <;> rfl

/-- A transition that changes port `p` alone, its queue and what its receiver holds aside. -/
structure Transition (s : State) (p : Port) (a : AdminState) (y : LinePort) : Prop where
  takes : ∀ slots, ({ s with slots := slots } : State).setPortState p a =
    { s with slots := slots, ports := s.ports.set p y }
  table : PortTransitions s p a y
  current : ∀ j, y.receiver.currentSlot = some j → (s.port p).receiver.currentSlot = some j
  up : (s.admin p).isDown = false → y.record.admin.isDown = false
  queue : y.transmitter.queue = (s.port p).transmitter.queue

theorem transition_of_same (is : s.admin p = a) (named : a ≠ .isolated) : Transition s p a (s.port p) := by
  refine ⟨fun slots => ?_, ⟨fun _ => rfl, fun was next => ?_, fun was next => ?_, fun down next => ?_, fun was next => ?_⟩,
    fun _ => id, id, rfl⟩
  · have keeps : ({ s with slots := slots } : State).setPortState p a = { s with slots := slots } := by
      unfold State.setPortState
      rw [show ({ s with slots := slots } : State).admin p = a from is]
      cases a with
      | isolated => exact absurd rfl named
      | _ => rfl
    rw [keeps, show s.ports.set p (s.port p) = s.ports from four_set_get ..]
  · exact absurd (was.symm.trans (is.trans next)) nofun
  · exact absurd (was.symm.trans (is.trans next)) nofun
  · rw [is] at down
    rcases next with rfl | rfl <;> exact absurd down nofun
  · exact absurd (was.symm.trans (is.trans next)) nofun

/-- A transmitter that is held (R71). -/
theorem held_eq (x : Transmitter) : x.held =
    if x.state = .waitGap then { x with state := .idle }
    else if x.state = .backoff then { x with backoff := none, quietInterval := 0, state := .idle } else x := by
  unfold Transmitter.held
  cases state : x.state <;> rfl

theorem transition_to_held (is : s.admin p = .enabled) : Transition s p .held { s.port p with
    record := { (s.port p).record with admin := .held }, transmitter := (s.port p).transmitter.held } := by
  refine ⟨fun slots => ?_, ⟨fun same => ?_, fun _ _ => ?_, nofun, fun down _ => ?_, nofun⟩, fun _ => id, fun _ => rfl, ?_⟩
  · unfold State.setPortState
    rw [show ({ s with slots := slots } : State).admin p = .enabled from is]
    rfl
  · exact absurd (is.symm.trans same) nofun
  · rw [held_eq]
  · rw [is] at down
    exact absurd down nofun
  · rw [held_eq]
    dsimp only
    split
    · rfl
    · split <;> rfl

theorem transition_to_enabled (is : s.admin p = .held) : Transition s p .enabled { s.port p with
    record := { (s.port p).record with admin := .enabled }
    transmitter := wakeTransmitter .enabled (s.port p).transmitter } := by
  refine ⟨fun slots => ?_, ⟨fun same => ?_, nofun, fun _ _ => ?_, fun down _ => ?_, nofun⟩, fun _ => id, fun _ => rfl, ?_⟩
  · unfold State.setPortState
    rw [show ({ s with slots := slots } : State).admin p = .held from is]
    rfl
  · exact absurd (is.symm.trans same) nofun
  · unfold wakeTransmitter
    simp only [true_and]
  · rw [is] at down
    exact absurd down nofun
  · unfold wakeTransmitter
    dsimp only
    split <;> rfl

theorem transition_up (down : (s.admin p).isDown = true) (up : a = .enabled ∨ a = .held) : Transition s p a
    { (s.port p).started with record := { (s.port p).record with admin := a, recovery := none } } := by
  refine ⟨fun slots => ?_, ⟨fun same => ?_, fun was _ => ?_, fun was _ => ?_, fun _ _ => ?_, fun _ next => ?_⟩, nofun,
    fun open_ => ?_, rfl⟩
  · have comes : ({ s with slots := slots } : State).setPortState p a = ({ s with slots := slots } : State).comeUp p a := by
      unfold State.setPortState
      rw [show ({ s with slots := slots } : State).admin p = s.admin p from rfl]
      cases was : s.admin p with
      | enabled => rw [was] at down; exact absurd down nofun
      | held => rw [was] at down; exact absurd down nofun
      | disabled => rcases up with rfl | rfl <;> rfl
      | isolated => rcases up with rfl | rfl <;> rfl
    rw [comes]
    rfl
  · rw [same] at down
    rcases up with rfl | rfl <;> exact absurd down nofun
  · rw [was] at down
    exact absurd down nofun
  · rw [was] at down
    exact absurd down nofun
  · exact ⟨rfl, rfl, rfl, rfl, rfl, rfl, rfl⟩
  · rw [next] at up
    rcases up with up | up <;> exact absurd up nofun
  · rw [open_] at down
    exact absurd down nofun

theorem transition_to_disabled (is : s.admin p = .isolated) : Transition s p .disabled { s.port p with
    record := { (s.port p).record with admin := .disabled, recovery := none } } := by
  refine ⟨fun slots => ?_, ⟨fun same => ?_, nofun, nofun, fun _ next => ?_, fun _ _ => rfl⟩, fun _ => id, fun up => ?_, rfl⟩
  · unfold State.setPortState
    rw [show ({ s with slots := slots } : State).admin p = .isolated from is]
    rfl
  · exact absurd (is.symm.trans same) nofun
  · rcases next with next | next <;> exact absurd next nofun
  · rw [is] at up
    exact absurd up nofun

/-- Every transition by command but the going-down of a port in service. -/
theorem exists_transition (named : a ≠ .isolated) (stays : ¬ (a = .disabled ∧ (s.admin p).isDown = false)) :
    ∃ y, Transition s p a y := by
  by_cases same : s.admin p = a
  · exact ⟨_, transition_of_same same named⟩
  · cases was : s.admin p with
    | enabled =>
      cases a with
      | held => exact ⟨_, transition_to_held was⟩
      | enabled => exact absurd was same
      | disabled => exact absurd ⟨rfl, by rw [was]; rfl⟩ stays
      | isolated => exact absurd rfl named
    | held =>
      cases a with
      | enabled => exact ⟨_, transition_to_enabled was⟩
      | held => exact absurd was same
      | disabled => exact absurd ⟨rfl, by rw [was]; rfl⟩ stays
      | isolated => exact absurd rfl named
    | disabled =>
      cases a with
      | enabled => exact ⟨_, transition_up (by rw [was]; rfl) (.inl rfl)⟩
      | held => exact ⟨_, transition_up (by rw [was]; rfl) (.inr rfl)⟩
      | disabled => exact absurd was same
      | isolated => exact absurd rfl named
    | isolated =>
      cases a with
      | enabled => exact ⟨_, transition_up (by rw [was]; rfl) (.inl rfl)⟩
      | held => exact ⟨_, transition_up (by rw [was]; rfl) (.inr rfl)⟩
      | disabled => exact ⟨_, transition_to_disabled was⟩
      | isolated => exact absurd rfl named

/-! ## The going-down (R128) -/

/-- A slot that no reference names stands in no queue, and a FREE one is held nowhere else either (R20, R21). -/
theorem not_queued_of_consistent (pool : PoolConsistent s) (refs : (s.slot i).refs = 0) :
    ∀ q, ∀ e ∈ (s.port q).transmitter.queue, e.slot ≠ i := by
  intro q e mem same
  have none : entriesNaming s i = 0 := by
    have counts := pool.1 i
    omega
  have at_q : s.entriesAt i q = 0 := by
    have le : s.entriesAt i q ≤ entriesNaming s i :=
      List.single_le_sum (fun _ _ => Nat.zero_le _) _ (List.mem_map.mpr ⟨q, mem_allPorts q, rfl⟩)
    omega
  exact absurd (beq_iff_eq.mpr same) (List.countP_eq_zero.mp at_q e mem)

theorem mem_holders_iff (s : State) (i : SlotId) : i ∈ holders s ↔ s.heldOutside i = true := by
  rw [State.heldOutside_iff]
  simp [holders]

theorem free_of_consistent (pool : PoolConsistent s) (free : (s.slot i).state = .free) :
    (s.slot i).refs = 0 ∧ s.heldOutside i = false := by
  obtain ⟨-, ⟨frees, -⟩, -⟩ := pool
  obtain ⟨refs, notHeld⟩ := (frees i).mp free
  rw [mem_holders_iff, Bool.not_eq_true] at notHeld
  exact ⟨refs, notHeld⟩

/-- A slot that already stands as claimed. -/
theorem claimed_of_slot (is : u.slot i = ⟨[], 0, .inUse⟩) : claimed u i = u := by
  have same : u.slots.set i ⟨[], 0, .inUse⟩ = u.slots := by
    rw [← is]
    exact Vector.set_getElem_self ..
  unfold claimed State.modifySlot
  rw [same]

theorem takes_of_down (down : (s.admin q).isDown = true) : takes s q = false := takes_of_refuses (.inl down)

/-- A port that is down is left as it is by whatever is offered to it. -/
theorem offeredAt_of_down {e : QueueEntry} (down : (s.admin q).isDown = true) : offeredAt s q e = s.port q := by
  unfold offeredAt refusedAt
  rw [if_neg (by rw [takes_of_down down]; exact Bool.false_ne_true), if_pos down]

theorem setPortState_disabled (up : (s.admin p).isDown = false) : s.setPortState p .disabled = s.goDown p .disabled := by
  unfold State.setPortState
  cases was : s.admin p with
  | enabled => rfl
  | held => rfl
  | disabled => rw [was] at up; exact absurd up nofun
  | isolated => rw [was] at up; exact absurd up nofun

/-- SET_PORT_STATE has taken port `p` down: what the relay has come to in `u`, the reply's slot claimed, nothing sent. -/
structure TakenDown (s u : State) (p : Port) (i : SlotId) (h : HeldFrame) : Prop where
  keeps : KeepsRequest s u h
  claim : claimed u i = u
  ports : ∀ q ≠ p, u.port q = s.port q
  port : u.port p = { s.port p with
    record := { (s.port p).record with admin := .disabled }
    receiver := (s.port p).receiver.stopped
    transmitter := { (s.port p).transmitter.stopped with queue := [] } }
  only : u = { s with
    ports := u.ports, slots := u.slots, words := u.words
    map := { s.map with entries := s.map.entries.filter fun e => !(e.isLearned && e.port == p) } }
  words : u.words = { flushedWords s p with portDown := s.words.portDown ++ [p] }
  slots : SlotsGivenUp s u p [i]

theorem takenDown_goDown (r : AtHead s h rest i) (pool : PoolConsistent s) :
    TakenDown s ((claimed s i).goDown p .disabled) p i h := by
  obtain ⟨others, port, only, words, given, rests⟩ := goDown_spec (claimed s i) p .disabled
  obtain ⟨zero, notHeld⟩ := free_of_consistent pool (s.lowestFree_free r.free)
  have unheld : ∀ q j, s.heldOutside j = false → (s.port q).receiver.currentSlot ≠ some j := fun q j free current => by
    rw [← Bool.not_eq_true, State.heldOutside_iff] at free
    exact free (.inl ⟨q, current⟩)
  have current : ∀ q j, (((claimed s i).goDown p .disabled).port q).receiver.currentSlot = some j →
      (s.port q).receiver.currentSlot = some j := fun q j is => by
    by_cases eq : q = p
    · rw [eq, port] at is
      exact absurd is nofun
    · rwa [others q eq] at is
  have slot : ((claimed s i).goDown p .disabled).slot i = ⟨[], 0, .inUse⟩ := by
    obtain ⟨-, stays⟩ := rests i List.not_mem_nil (not_queued_of_consistent pool zero p)
    rw [stays (unheld p i notHeld)]
    exact State.slot_modifySlot_same ..
  have unclaimed : ∀ j, j ≠ i → (claimed s i).slot j = s.slot j := fun j ne => State.slot_modifySlot_other _ _ ne
  refine ⟨⟨?_, ?_, ?_, current, ?_⟩, claimed_of_slot slot, others, port, only, words, fun e mem distinct outside held => ?_,
    fun j outside absent => ⟨fun is alone => ?_, fun isNot => ?_⟩⟩
  · rw [only]
    rfl
  · rw [only]
    rfl
  · rw [only]
    rfl
  · obtain ⟨-, stays⟩ := rests h.slot List.not_mem_nil (not_queued_of_consistent pool r.refs p)
    have noReceiver : (s.port p).receiver.currentSlot ≠ some h.slot := fun is => by
      obtain ⟨receivers, -⟩ := r.alone
      have holds : s.receiverHolds h.slot = true := List.any_eq_true.mpr ⟨p, mem_allPorts p, beq_iff_eq.mpr is⟩
      rw [receivers] at holds
      exact Bool.false_ne_true holds
    rw [stays noReceiver, unclaimed _ r.slot_ne]
  · have ne : e.slot ≠ i := mt List.mem_singleton.mpr outside
    have given := given e mem distinct List.not_mem_nil ((State.heldOutside_modifySlot ..).trans held)
    rwa [unclaimed _ ne] at given
  · have ne : j ≠ i := mt List.mem_singleton.mpr outside
    refine (rests j List.not_mem_nil absent).1 is ?_
    obtain ⟨refs, others⟩ := alone
    exact ⟨by rw [unclaimed _ ne]; exact refs, others⟩
  · have ne : j ≠ i := mt List.mem_singleton.mpr outside
    rw [(rests j List.not_mem_nil absent).2 isNot, unclaimed _ ne]

/-- What is given up stands so with one more slot left out. -/
theorem SlotsGivenUp.except {j : SlotId} (given : SlotsGivenUp s u p [i]) (same : ∀ k, k ≠ i → k ≠ j → t.slot k = u.slot k) :
    SlotsGivenUp s t p [i, j] := by
  obtain ⟨queued, rests⟩ := given
  refine ⟨fun e mem distinct outside held => ?_, fun k outside absent => ?_⟩
  · rw [List.mem_cons, List.mem_singleton, not_or] at outside
    rw [same e.slot outside.1 outside.2]
    exact queued e mem distinct (mt List.mem_singleton.mp outside.1) held
  · rw [List.mem_cons, List.mem_singleton, not_or] at outside
    rw [same k outside.1 outside.2]
    exact rests k (mt List.mem_singleton.mp outside.1) absent

theorem portStateCommand : PortStateCommand := by
  intro h rest i s pool
  refine ⟨fun k o more hr bad => answers_of_fails setPortState hr rfl (setPortState_of_bad (s := claimed s i) bad),
    fun p a more named hr => ⟨fun disabled up => ?_, fun stays => ?_⟩⟩
  · subst disabled
    obtain ⟨ready, asks⟩ := hr
    have r := ready.toAtHead
    obtain ⟨keeps, claim, ports, port, only, words, slots⟩ := takenDown_goDown (p := p) r pool
    have performs : commandOf .setPortState h.ingress (byteOf p.val :: AdminState.code .disabled :: more) (claimed s i) =
        ⟨claimed ((claimed s i).goDown p .disabled) i, .ok, [], .nothing⟩ := by
      rw [claim]
      refine (setPortState_of_port (s := claimed s i) (ingress := h.ingress) (more := more) named).trans ?_
      rw [setPortState_disabled (s := claimed s i) up]
      rfl
    have run := exec_accepted (c := .setPortState) r rfl ready.accepted asks performs
    generalize (claimed s i).goDown p .disabled = u at keeps claim ports port only words slots run
    have down : (u.admin p).isDown = true := by
      unfold State.admin
      rw [port]
      rfl
    have room : p ≠ h.ingress → HasRoom u h.ingress := fun ne => by
      unfold HasRoom State.admin
      rw [ports h.ingress ne.symm]
      exact ready.room
    have judged : Judges u h.ingress (generatedEntry i) := by
      by_cases eq : p = h.ingress
      · exact judges_of_refuses (.inl (eq ▸ down))
      · exact judges_of_room (room eq)
    obtain ⟨t, n, sends, sent⟩ := sendReply_judged (i := i) judged (s.slot h.slot) (replyPayload 0x31 .ok [])
    dsimp only at run
    rw [sends] at run
    obtain ⟨whole, reply, request, others, here, elsewhere⟩ := r.finished keeps sent
    have at_p : (t.finishRequest h).port p = u.port p := by
      by_cases eq : p = h.ingress
      · rw [eq, here, offeredAt_of_down (eq ▸ down)]
      · exact elsewhere p eq
    have management : u.management = s.management := by rw [only]
    have learned : (fun e : StationEntry => !(e.isLearned && e.port == p)) =
        fun e => !(decide (e.origin ≠ .static) && e.port == p) := funext fun e => by rw [isLearned_eq]
    have at_p := at_p.trans port
    refine ⟨t.finishRequest h, run, by rw [whole, management], by rw [at_p], by rw [at_p]; rfl, by rw [at_p]; rfl,
      by rw [at_p]; rfl, by rw [at_p]; rfl, by rw [at_p], by rw [at_p], by rw [whole, words],
      slots.except others, ?_, ?_, ?_, ?_, request, fun eq => ⟨?_, fun q ne => ?_⟩, fun ne => ⟨?_, ?_⟩⟩
    · rw [← learned, whole, only]
    · rw [whole, only]
    · rw [whole, only]
    · rw [whole, only]
    · have none := sent.none (.inl (eq ▸ down))
      rw [reply, sent.gone none (keeps.heldOutside (free_of_consistent pool (s.lowestFree_free r.free)).2)]
    · rw [elsewhere q (eq ▸ ne), ports q ne]
    · have one := sent.one (room ne)
      rw [reply, sent.stands (by rw [one]; exact Nat.one_ne_zero), one, management]
      rfl
    · rw [here, ← ports h.ingress ne.symm]
      exact if_pos (takes_iff.mpr (room ne))
  · obtain ⟨y, takes, table, current, up, queue⟩ := exists_transition named stays
    refine ⟨y, table, answers_of_port (c := .setPortState) (data := []) (result := .ok) hr rfl ?_ current up queue⟩
    refine (setPortState_of_port (s := claimed s i) (ingress := h.ingress) (more := more) named).trans ?_
    rw [show (claimed s i).setPortState p a = claimed { s with ports := s.ports.set p y } i from takes _]
    rfl

/-- Settles O49: the port read, its options set, and its administrative state. -/
theorem portCommands : Obligations.PortCommands := ⟨portReadingAndOptions, portStateCommand⟩

end Sys2Proof.Statements
end

section
/-! PROOFS. SET_RATE (R135, R136). -/

namespace Sys2Proof.Statements

open Sys2Proof.Machine Sys2Proof.Safety

variable {s t u : State} {h : HeldFrame} {rest : List HeldFrame} {i j : SlotId} {p q : Port} {c : RateCode} {k x w : Byte}
  {more : List Byte} {ingress : Port} {seconds : Nat}

/-! ## The command (R135) -/

theorem rateArguments_of_range (least : 1 ≤ w.toNat) (most : w.toNat ≤ 30) :
    rateArguments (byteOf p.val) (byteOf c.val) w = some (p, c, w.toNat) := by
  unfold rateArguments
  rw [portArgument_byteOf, rateArgument_byteOf, windowArgument_of_range least most]

theorem rateArguments_of_bad (bad : 3 < k.toNat ∨ 7 < x.toNat ∨ w = 0 ∨ 30 < w.toNat) : rateArguments k x w = none := by
  unfold rateArguments
  rcases bad with port | rate | window
  · rw [portArgument_of_gt port]
  · rw [rateArgument_of_gt rate]
    cases portArgument k <;> rfl
  · rw [windowArgument_outside window]
    cases portArgument k <;> cases rateArgument x <;> rfl

/-- Port `p` of `s` waits for the departure of its SET_RATE reply. -/
def rateAwaited (s : State) (p : Port) (c : RateCode) (seconds : Nat) : State :=
  { s with ports := s.ports.set p { s.port p with
      record := { (s.port p).record with ratePhase := .awaitingReply c seconds } } }

theorem setRate_of_other (least : 1 ≤ w.toNat) (most : w.toNat ≤ 30) (steady : (s.port p).record.ratePhase = .steady)
    (other : ingress ≠ p) : setRate ingress (byteOf p.val :: byteOf c.val :: w :: more) s =
      (s.openWindow p c w.toNat).done := by
  simp only [setRate, rateArguments_of_range least most, if_pos steady, if_neg other]

theorem setRate_of_own (least : 1 ≤ w.toNat) (most : w.toNat ≤ 30) (steady : (s.port p).record.ratePhase = .steady) :
    setRate p (byteOf p.val :: byteOf c.val :: w :: more) s = ⟨rateAwaited s p c w.toNat, .ok, [], .rate p⟩ := by
  simp only [setRate, rateArguments_of_range least most, if_pos steady, if_true]
  rfl

theorem setRate_of_pending (least : 1 ≤ w.toNat) (most : w.toNat ≤ 30) (runs : (s.port p).record.ratePhase ≠ .steady) :
    setRate ingress (byteOf p.val :: byteOf c.val :: w :: more) s = s.fails .pending := by
  simp only [setRate, rateArguments_of_range least most, if_neg runs]

theorem setRate_of_bad (bad : 3 < k.toNat ∨ 7 < x.toNat ∨ w = 0 ∨ 30 < w.toNat) :
    setRate ingress (k :: x :: w :: more) s = s.fails .badArgument := by
  simp only [setRate, rateArguments_of_bad bad]

/-! ## The window opened at once (R136) -/

/-- A receiver at rest takes up no slot at a rate application. -/
theorem current_applyRate_atRest (atRest : AtRest (s.port p))
    (current : ((s.applyRate p c).port q).receiver.currentSlot = some j) : (s.port q).receiver.currentSlot = some j := by
  by_cases eq : q = p
  · have clock := port_clocked_same s p c
    have receiver : ((s.applyRate p c).port p).receiver = (((clocked s p c).rateAtReceiver p).port p).receiver := by
      rw [applyRate_eq, rateAtTransmitter_port, if_pos rfl]
    obtain ⟨off, -, waits⟩ := rateAtReceiver_idle (clocked s p c) p
    rw [clock] at off waits
    rw [eq, receiver] at current
    rw [eq]
    rcases atRest.1 with isOff | isWaiting
    · rwa [off isOff, clock] at current
    · rw [waits isWaiting, State.port_modifyReceiver_same] at current
      exact absurd current nofun
  · rwa [port_applyRate_other s c eq] at current

/-- The window of port `p` opened with the reply's slot claimed. -/
theorem setRate_opensWindow (s : State) (p : Port) (c : RateCode) (seconds : Nat) :
    let t := s.openWindow p c seconds
    (∀ q ≠ p, t.port q = s.port q) ∧ t = { s with ports := t.ports, slots := t.slots, timeBase := t.timeBase } ∧
    (AtRest (s.port p) → RateApplied (s.port p) (t.port p) c ∧ t.slots = s.slots) ∧
    t.rate p = c ∧ (t.port p).framer = framerAtRate (s.port p).framer ∧
    (t.port p).record = { (s.port p).record with
      currentRate := c, ratePhase := .window seconds (14745600 * seconds) } := by
  dsimp only
  obtain ⟨others, only, atRest, -, rate, framer, -⟩ := applyRate_modifyRecord s p c (.window seconds (secondCycles seconds))
  exact ⟨others, only, atRest, rate, framer, State.openWindow_record s p c seconds⟩

theorem port_finishRequest (t : State) (h : HeldFrame) (q : Port) : (t.finishRequest h).port q = t.port q := by
  rw [finishRequest_only]
  rfl

theorem queue_finishRequest (t : State) (h : HeldFrame) :
    (t.finishRequest h).management.queue = t.management.queue.drop 1 := by
  rw [finishRequest_only]

/-- What waits on the reply to a SET_RATE that its own port carries leaves the queue and what the request holds alone. -/
theorem keepsRequest_rateAwaited (s : State) (h : HeldFrame) (p : Port) (c : RateCode) (seconds : Nat) :
    KeepsRequest s (rateAwaited s p c seconds) h := by
  refine ⟨rfl, rfl, rfl, fun q j is => ?_, rfl⟩
  unfold rateAwaited at is
  rw [port_setPort] at is
  by_cases eq : q = p
  · rw [if_pos eq] at is
    rw [eq]
    exact is
  · rwa [if_neg eq] at is

theorem port_rateAwaited_same (s : State) (p : Port) (c : RateCode) (seconds : Nat) : (rateAwaited s p c seconds).port p =
    { s.port p with record := { (s.port p).record with ratePhase := .awaitingReply c seconds } } := by
  unfold rateAwaited
  rw [port_setPort, if_pos rfl]

/-- `s` with the word that a SET_RATE reply of port `p` is gone. -/
def rateReplyGone (s : State) (p : Port) : State :=
  { s with words := { s.words with rateReplies := s.words.rateReplies ++ [p] } }

theorem Unanswered.rateReplyGone {b : State} (unanswered : Unanswered s b t h rest i) :
    Unanswered s (rateReplyGone b p) (rateReplyGone t p) h rest i := by
  obtain ⟨only, reply, request, others, port, ports⟩ := unanswered
  refine ⟨?_, reply, request, others, port, ports⟩
  unfold Statements.rateReplyGone
  conv_lhs => rw [only]

/-- Settles O50: SET_RATE on another port, on its own port with the reply admitted or refused, and its checks. -/
theorem setRateAppliesOrWaits : Obligations.SetRateAppliesOrWaits := by
  intro h rest i s
  refine ⟨fun p c w more least most hr => ⟨fun steady other => ?_, fun steady other atRest => ?_, fun steady own => ?_,
    fun runs => ?_⟩, fun p c w more least most unheard own steady => ?_, fun k x w more bad hr => ?_⟩
  · obtain ⟨ready, asks⟩ := hr
    have run := exec_accepted (c := .setRate) ready.toAtHead rfl ready.accepted asks
      (setRate_of_other (s := claimed s i) (ingress := h.ingress) (more := more) least most steady other)
    obtain ⟨others, only, -, rate, framer, record⟩ := setRate_opensWindow (claimed s i) p c w.toNat
    generalize (claimed s i).openWindow p c w.toNat = u at others only rate framer record run
    have room : HasRoom u h.ingress := by
      unfold HasRoom State.admin
      rw [others h.ingress other]
      exact ready.room
    rw [State.sendReply_room u _ _ room.1 room.2] at run
    have queue : u.management.queue = h :: rest := by
      rw [only]
      exact ready.queue
    refine ⟨_, run, ?_⟩
    have port : ∀ v : State, (((v.joinQueue h.ingress ⟨.priority, 0, .generated, i⟩).finishRequest h).settle .nothing i true).port p =
        v.port p := fun v => (port_finishRequest _ h p).trans (State.port_joinQueue_other _ _ other.symm)
    unfold State.rate
    rw [port]
    refine ⟨rate, ?_, ?_, ?_, framer⟩
    · refine (queue_finishRequest ..).trans ?_
      show List.drop 1 u.management.queue = rest
      rw [queue]
      rfl
    · show (u.port p).record.ratePhase = _
      rw [record]
    · show (u.port p).record.confirmedRate = _
      rw [record]
      rfl
  · have opens := setRate_of_other (s := claimed s i) (c := c) (ingress := h.ingress) (more := more) least most steady other
    obtain ⟨others, only, rests, -, -, record⟩ := setRate_opensWindow (claimed s i) p c w.toNat
    obtain ⟨applied, slots⟩ := rests atRest
    have current : ∀ q j, (((claimed s i).openWindow p c w.toNat).port q).receiver.currentSlot = some j →
        (s.port q).receiver.currentSlot = some j := fun q j is => by
      unfold State.openWindow at is
      rw [(State.halves_modifyRecord ..).1] at is
      exact current_applyRate_atRest (s := claimed s i) atRest is
    rw [slots] at only
    generalize (claimed s i).openWindow p c w.toNat = u at opens others only applied record current
    obtain ⟨ready, asks⟩ := hr
    have room : HasRoom { s with ports := u.ports, timeBase := u.timeBase } h.ingress := by
      have same : ({ s with ports := u.ports, timeBase := u.timeBase } : State).port h.ingress = s.port h.ingress :=
        others h.ingress other
      unfold HasRoom State.admin
      rw [same]
      exact ready.room
    refine ⟨{ s with ports := u.ports, timeBase := u.timeBase }, ?_, rfl, others, applied, congrArg PortRecord.ratePhase record⟩
    refine ready.toAtHead.answers (c := .setRate) (data := []) (result := .ok) rfl asks
      ((perform_accepted ready.accepts asks).trans (opens.trans ?_)) ⟨rfl, rfl, rfl, current, rfl⟩ room
    conv_lhs => rw [only]
    rfl
  · subst own
    obtain ⟨ready, asks⟩ := hr
    have run := exec_accepted (c := .setRate) (b := claimed (rateAwaited s h.ingress c w.toNat) i) ready.toAtHead rfl
      ready.accepted asks (setRate_of_own (s := claimed s i) (more := more) least most steady)
    have room : HasRoom (rateAwaited s h.ingress c w.toNat) h.ingress := by
      unfold HasRoom State.admin
      rw [port_rateAwaited_same]
      exact ready.room
    obtain ⟨replied, admitted⟩ := ready.toAtHead.answered (payload := replyPayload 0x32 .ok [])
      (keepsRequest_rateAwaited s h h.ingress c w.toNat) room
    dsimp only at run
    rw [admitted] at run
    exact ⟨_, run, replied.watching (w := ⟨i, .setRate h.ingress⟩)⟩
  · exact answers_of_fails setRate hr rfl (setRate_of_pending (s := claimed s i) least most runs)
  · subst own
    have run := exec_accepted (c := .setRate) (b := claimed (rateAwaited s h.ingress c w.toNat) i) unheard.toAtHead rfl
      unheard.accepted unheard.asks (setRate_of_own (s := claimed s i) (more := more) least most steady)
    have admin : (rateAwaited s h.ingress c w.toNat).admin h.ingress = s.admin h.ingress := by
      unfold State.admin
      rw [port_rateAwaited_same]
    have refuses : RefusesReply (rateAwaited s h.ingress c w.toNat) h.ingress := by
      unfold RefusesReply
      rw [admin, port_rateAwaited_same]
      exact unheard.refuses
    obtain ⟨unanswered, refused⟩ := unheard.toAtHead.unanswered (payload := replyPayload 0x32 .ok [])
      (keepsRequest_rateAwaited s h h.ingress c w.toNat) admin refuses unheard.notHeld
    dsimp only at run
    rw [refused] at run
    exact ⟨_, run, unanswered.rateReplyGone (p := h.ingress)⟩
  · exact answers_of_fails setRate hr rfl (setRate_of_bad (s := claimed s i) bad)

end Sys2Proof.Statements
end

section
/-! PROOFS. Pass 2 of a load: the records applied, and its end (R169). -/

namespace Sys2Proof.Statements

open Sys2Proof.Machine Sys2Proof.Safety

variable {s t : State} {m : SerialMemory} {pos n : Nat} {code : Byte} {args more : List Byte} {command : Command} {c : Instr}
  {result : Result} {ingress : Port} {status : ImageStatus}

/-! ## The walk of pass 2 -/

/-- The running check up to the next record. -/
def runningBefore (m : SerialMemory) (l : ImageLoader) : Word :=
  if l.position = 0 then checkOf (memoryBytes m 0 6) else l.runningCheck

theorem recordStart_changed (l : ImageLoader) (first : l.position = 0) (differs : memoryBytes m 0 6 ≠ l.header) :
    l.recordStart m = none := (if_pos first).trans (if_neg differs)

/-- Behind an equal header the walk stands at offset 6, else where the last record ended. -/
theorem recordStart_same (l : ImageLoader) (same : l.position = 0 → memoryBytes m 0 6 = l.header) :
    l.recordStart m = some (if l.position = 0 then 6 else l.position, runningBefore m l) := by
  unfold ImageLoader.recordStart runningBefore
  by_cases first : l.position = 0
  · rw [if_pos first, if_pos first, if_pos first, if_pos (same first)]
  · rw [if_neg first, if_neg first, if_neg first]

theorem RecordAt.start (r : RecordAt m s pos n) : s.loader.recordStart m = some (pos, runningBefore m s.loader) := by
  rcases r.place with ⟨is, later⟩ | ⟨first, is, same⟩
  · have behind : s.loader.position ≠ 0 := is ▸ later
    rw [recordStart_same _ fun first => absurd first behind, if_neg behind, is]
  · rw [recordStart_same _ fun _ => same, if_pos first, is]

theorem RecordAt.nextRecord (r : RecordAt m s pos n) : s.loader.nextRecord m =
    some (memoryBytes m (pos + 1) n, pos + 1 + n, checkRun (runningBefore m s.loader) (memoryBytes m pos (n + 1))) := by
  obtain ⟨least, most⟩ := r.range
  unfold ImageLoader.nextRecord
  rw [r.start]
  dsimp only
  rw [r.length, if_pos ⟨r.left, least, most, r.fits⟩]

theorem RecordAt.read (r : RecordAt m s pos n) :
    exec (.imageRecord m) s = .next ((recordRead m pos n s).applyRecord (memoryBytes m (pos + 1) n)) := by
  show Host.Outcome.next (readRecord m s) = _
  unfold readRecord
  rw [if_pos ⟨r.loading, r.pass2⟩]
  simp only [r.nextRecord]
  rfl

/-- The payload of a record: its code and what stands behind it. -/
theorem RecordAt.payload (r : RecordAt m s pos n) :
    memoryBytes m (pos + 1) n = memoryByte m (pos + 1) :: memoryBytes m (pos + 2) (n - 1) := by
  obtain ⟨least, -⟩ := r.range
  have split : n = n - 1 + 1 := by omega
  conv_lhs => rw [split]
  exact memoryBytes_succ ..

/-! ## Records applied (R169) -/

theorem RecordAt.skipped_of_unlisted (r : RecordAt m s pos n) (unlisted : recordCommand (memoryByte m (pos + 1)) = none) :
    RecordSkipped m pos n s := by
  unfold RecordSkipped
  rw [r.read, r.payload]
  unfold State.applyRecord
  simp only [unlisted]
  rfl

theorem RecordAt.skipped_of_fails (r : RecordAt m s pos n) (listed : recordCommand (memoryByte m (pos + 1)) = some command)
    (fails : command 0 (memoryBytes m (pos + 2) (n - 1)) (recordRead m pos n s) = (recordRead m pos n s).fails result)
    (bad : result ≠ .ok) : RecordSkipped m pos n s := by
  unfold RecordSkipped
  rw [r.read, r.payload]
  unfold State.applyRecord
  simp only [listed, fails]
  exact congrArg _ (if_neg bad)

theorem RecordAt.applies (r : RecordAt m s pos n) (listed : recordCommand (memoryByte m (pos + 1)) = some command)
    (does : command 0 (memoryBytes m (pos + 2) (n - 1)) (recordRead m pos n s) = t.done) :
    exec (.imageRecord m) s = .next t := by
  rw [r.read, r.payload]
  unfold State.applyRecord
  simp only [listed, does]
  rfl

theorem RecordOf.arguments (r : RecordOf m pos n s code args) :
    memoryBytes m (pos + 2) (n - 1) = args ++ (memoryBytes m (pos + 2) (n - 1)).drop args.length := by
  conv_lhs => rw [← List.take_append_drop args.length (memoryBytes m (pos + 2) (n - 1)), r.hasArguments]

/-- A record that its command carries out. -/
theorem RecordOf.gives (r : RecordOf m pos n s code args) (listed : recordCommand code = some command)
    (does : ∀ more, command 0 (args ++ more) (recordRead m pos n s) = t.done) : exec (.imageRecord m) s = .next t := by
  refine r.toRecordAt.applies (by rw [r.hasCode]; exact listed) ?_
  rw [r.arguments]
  exact does _

/-- A record that its command refuses. -/
theorem RecordOf.skips (r : RecordOf m pos n s code args) (listed : recordCommand code = some command) (bad : result ≠ .ok)
    (fails : ∀ more, command 0 (args ++ more) (recordRead m pos n s) = (recordRead m pos n s).fails result) :
    RecordSkipped m pos n s := by
  refine r.toRecordAt.skipped_of_fails (by rw [r.hasCode]; exact listed) ?_ bad
  rw [r.arguments]
  exact fails _

/-! ## Faulty records -/

theorem recordCommand_unlisted (unlisted :
    code ∉ ([0x11, 0x21, 0x24, 0x31, 0x32, 0x34, 0x41, 0x42, 0x50, 0x51, 0x52] : List Byte)) : recordCommand code = none := by
  simp only [List.mem_cons, List.not_mem_nil, or_false, not_or] at unlisted
  obtain ⟨h1, h2, h3, h4, h5, h6, h7, h8, h9, h10, h11⟩ := unlisted
  unfold recordCommand
  rw [if_neg h1, if_neg h2, if_neg h3, if_neg h4, if_neg h5, if_neg h6, if_neg h7, if_neg h8, if_neg h9, if_neg h10,
    if_neg h11]

/-- With too few arguments a record's command fails as the request's does. -/
theorem recordCommand_short (is : requestCode c = some code) (listed : recordCommand code = some command)
    (short : args.length < argumentCount c args) : command ingress args s = s.fails .badLength := by
  by_cases own : c = .setPortState ∨ c = .setRate ∨ c = .setAging ∨ c = .setAddress
  · rcases own with rfl | rfl | rfl | rfl <;> cases is <;> cases listed
    · exact short_of_two rfl (fun _ => rfl) short
    · exact short_of_three rfl (fun _ => rfl) (fun _ _ => rfl) short
    · exact short_of_two rfl (fun _ => rfl) short
    · exact short_of_one rfl short
  · have same : command = commandOf c := by
      simp only [not_or] at own
      unfold requestCode at is
      split at is <;> cases is <;> cases listed <;> simp_all [commandOf]
    rw [same]
    exact commandOf_short is short

theorem faultyRecordsAreSkipped : FaultyRecordsAreSkipped := by
  intro m pos n s r
  refine ⟨fun unlisted => r.skipped_of_unlisted (recordCommand_unlisted unlisted), fun c is short => ?_⟩
  cases listed : recordCommand (memoryByte m (pos + 1)) with
  | none => exact r.skipped_of_unlisted listed
  | some command =>
    exact r.skipped_of_fails listed (recordCommand_short is listed (by rw [length_memoryBytes]; exact short)) nofun

end Sys2Proof.Statements
end

section
/-! PROOFS. The records of an image one by one (R169). -/

namespace Sys2Proof.Statements

open Sys2Proof.Machine Sys2Proof.Safety

variable {s t : State} {m : SerialMemory} {pos n : Nat} {a k high low x y : Byte} {more : List Byte} {ingress : Port}
  {p : Port} {c : RateCode} {admin : AdminState} {period : Nat}

/-! ## The commands that a load gives another effect (R169) -/

theorem loadAging_of_period (is : periodArgument high low = some period) :
    loadAging ingress (high :: low :: more) s = (s.setPeriod period).done := by
  simp only [loadAging, is]

theorem loadAging_of_none (is : periodArgument high low = none) :
    loadAging ingress (high :: low :: more) s = s.fails .badArgument := by
  simp only [loadAging, is]

theorem loadAddress_of_other (station : isStationAddress a = true) (other : a ≠ s.management.ownAddress) :
    loadAddress ingress (a :: more) s = (addressChanged s a).done := by
  unfold loadAddress
  dsimp only
  rw [if_pos station, if_neg other, changeOwnAddress_eq]

theorem loadAddress_of_own (station : isStationAddress a = true) (own : a = s.management.ownAddress) :
    loadAddress ingress (a :: more) s = s.done := by
  unfold loadAddress
  dsimp only
  rw [if_pos station, if_pos own]

theorem loadAddress_of_none (none : a = 0x00 ∨ a = 0xFF) : loadAddress ingress (a :: more) s = s.fails .badArgument := by
  refine if_neg fun station => ?_
  obtain ⟨zero, ones⟩ := isStationAddress_iff.mp station
  exact none.elim zero ones

theorem loadPortState_of_port (named : admin ≠ .isolated) : loadPortState ingress (byteOf p.val :: admin.code :: more) s =
    (s.modifyRecord p fun r => { r with admin := admin }).done := by
  simp only [loadPortState, portArgument_byteOf, stateArgument_code named]

theorem loadPortState_of_bad (bad : 3 < k.toNat ∨ 2 < x.toNat) :
    loadPortState ingress (k :: x :: more) s = s.fails .badArgument := by
  unfold loadPortState
  dsimp only
  rcases bad with port | state
  · rw [portArgument_of_gt port]
  · rw [stateArgument_of_gt state]
    cases portArgument k <;> rfl

theorem loadRate_of_range {w : Byte} (least : 1 ≤ w.toNat) (most : w.toNat ≤ 30) :
    loadRate ingress (byteOf p.val :: byteOf c.val :: w :: more) s =
      ((s.applyRate p c).modifyRecord p fun r => { r with confirmedRate := c, ratePhase := .steady }).done := by
  simp only [loadRate, rateArguments_of_range least most]

theorem loadRate_of_bad {w : Byte} (bad : 3 < k.toNat ∨ 7 < x.toNat ∨ w = 0 ∨ 30 < w.toNat) :
    loadRate ingress (k :: x :: w :: more) s = s.fails .badArgument := by
  simp only [loadRate, rateArguments_of_bad bad]

/-! ## Stations, rules, settings (R169) -/

theorem configurationRecords : ConfigurationRecords := by
  intro m pos n s
  dsimp only
  refine ⟨fun a p c retry r station other => ⟨fun known => ?_, fun unknown room => ?_, fun unknown v evicted => ?_,
    fun static full => ?_⟩, fun a p c f r bad => ?_, fun k f r => ⟨fun inside room => ?_, fun bad => ?_⟩,
    fun k sl sh dl dh kinds ports action port r bad => ?_, fun d o r => ⟨fun small small' => ?_, fun bad => ?_⟩,
    fun a b c d r => ⟨fun na nb nc nd => ?_, fun zero => ?_⟩, fun high low r => ⟨fun least most => ?_, fun outside => ?_⟩,
    fun k l r => ⟨fun few is stations => ?_, fun bad => ?_⟩, fun a r => ⟨fun station other => ?_, fun own station => ?_,
    fun none => ?_⟩, fun a k r => ⟨fun station least most => ?_, fun bad => ?_⟩⟩
  · exact r.gives rfl fun more => writeStation_of_written (s := recordRead m pos n s) station other
      (writeStatic_known (s := recordRead m pos n s) known)
  · exact r.gives rfl fun more => writeStation_of_written (s := recordRead m pos n s) station other
      (writeStatic_room (s := recordRead m pos n s) unknown room)
  · exact r.gives rfl fun more => writeStation_of_written (s := recordRead m pos n s) station other
      (writeStatic_evicts (s := recordRead m pos n s) (e := staticEntry a p c retry) unknown evicted)
  · exact r.skips (result := .full) rfl nofun fun more => writeStation_of_refused (s := recordRead m pos n s) station other
      (writeStatic_refused (s := recordRead m pos n s) static full)
  · exact r.skips (result := .badArgument) rfl nofun fun more => writeStation_of_bad (s := recordRead m pos n s) bad
  · rw [← insertIdx_eq inside]
    exact r.gives rfl fun more => insertRule_of_room (s := recordRead m pos n s) inside room
  · by_cases beyond : s.relay.rules.length < k.toNat
    · exact r.skips (result := .badArgument) rfl nofun fun more => insertRule_of_end (s := recordRead m pos n s) beyond
    · exact r.skips (result := .full) rfl nofun fun more =>
        insertRule_of_full (s := recordRead m pos n s) (Nat.not_lt.mp beyond) (bad.resolve_left beyond)
  · exact r.skips (result := .badArgument) rfl nofun fun more => insertRule_of_bad (s := recordRead m pos n s) bad
  · exact r.gives rfl fun more => setRuleDefaults_of_flags (s := recordRead m pos n s) small small'
  · exact r.skips (result := .badArgument) rfl nofun fun more => setRuleDefaults_of_bad (s := recordRead m pos n s) bad
  · exact r.gives rfl fun more => setTimeouts_of_nonzero (s := recordRead m pos n s) 0 more na nb nc nd
  · exact r.skips (result := .badArgument) rfl nofun fun more => setTimeouts_of_zero (s := recordRead m pos n s) 0 more zero
  · exact r.gives rfl fun more => loadAging_of_period (s := recordRead m pos n s) (periodArgument_of_range least most)
  · exact r.skips (result := .badArgument) rfl nofun fun more =>
      loadAging_of_none (s := recordRead m pos n s) (periodArgument_outside outside)
  · refine ⟨eachOnce l, eachOnce_nodup l, fun a => mem_eachOnce, r.gives rfl fun more => ?_⟩
    have named : (l ++ more).take k.toNat = l := by rw [is, List.take_left]
    have sets := setManagers_of_stations (s := recordRead m pos n s) (ingress := 0) (l := l ++ more) few (by simp [is])
      (by rw [named]; exact stations)
    rw [named] at sets
    exact sets
  · refine r.skips (result := .badArgument) rfl nofun fun more => setManagers_of_bad (s := recordRead m pos n s) (bad.imp_right ?_)
    rintro ⟨is, station⟩
    have named : (l ++ more).take k.toNat = l := by rw [is, List.take_left]
    refine ⟨by simp [is], ?_⟩
    rw [show List.take k.toNat (l.append more) = l from named]
    exact station
  · exact r.gives rfl fun more => loadAddress_of_other (s := recordRead m pos n s) station other
  · exact r.gives rfl fun more => loadAddress_of_own (s := recordRead m pos n s) station own
  · exact r.skips (result := .badArgument) rfl nofun fun more => loadAddress_of_none (s := recordRead m pos n s) none
  · refine r.gives rfl fun more => (setNoticeTarget_of_range (s := recordRead m pos n s) station least most).trans ?_
    rw [retestSlotWait_eq]
    rfl
  · exact r.skips (result := .badArgument) rfl nofun fun more => setNoticeTarget_of_bad (s := recordRead m pos n s) bad

/-! ## Ports (R169) -/

/-- A rate application outside service reaches framer, record and sample clock alone. -/
theorem applyRate_of_off (receiver : (s.port p).receiver.state = .off) (transmitter : (s.port p).transmitter.state = .off) :
    s.applyRate p c = clocked s p c := by
  have clock := port_clocked_same s p c
  have receives : (clocked s p c).rateAtReceiver p = clocked s p c :=
    (rateAtReceiver_idle (clocked s p c) p).1 (by rw [clock]; exact receiver)
  rw [applyRate_eq, receives]
  exact (rateAtTransmitter_cases (clocked s p c) p).1 (by rw [clock]; exact transmitter)

theorem portRecords : PortRecords := by
  intro m pos n s
  dsimp only
  refine ⟨fun p a named r => ?_, fun p a r bad => ?_, fun p c w r least most receiver transmitter => ?_,
    fun p c w r bad => ?_, fun p o r small up => ?_, fun p o r bad => ?_⟩
  · have r : RecordOf m pos n s 0x31 [byteOf p.val, a.code] := by cases a <;> exact r
    exact r.gives rfl fun more => loadPortState_of_port (s := recordRead m pos n s) named
  · exact r.skips (result := .badArgument) rfl nofun fun more => loadPortState_of_bad (s := recordRead m pos n s) bad
  · refine r.gives rfl fun more => (loadRate_of_range (s := recordRead m pos n s) least most).trans (congrArg State.done ?_)
    rw [applyRate_of_off (s := recordRead m pos n s) receiver transmitter, modifyRecord_eq, port_clocked_same]
    unfold clocked State.modifyPort
    dsimp only
    rw [four_set_set]
    rfl
  · exact r.skips (result := .badArgument) rfl nofun fun more => loadRate_of_bad (s := recordRead m pos n s) bad
  · refine r.gives rfl fun more => (setPortOptions_of_port (s := recordRead m pos n s) small).trans (congrArg State.done ?_)
    rw [modifyRecord_eq]
    unfold optionsSet
    rw [if_neg (show ¬ ((recordRead m pos n s).port p).record.admin = .isolated from up)]
    rfl
  · exact r.skips (result := .badArgument) rfl nofun fun more => setPortOptions_of_bad (s := recordRead m pos n s) bad

/-! ## The end of pass 2 (R169) -/

/-- Pass 2 that can read no further record ends the load with the status it is judged by. -/
theorem pass2_ends {status : ImageStatus} {code : Byte} {position : Nat} {running : Word} (loading : s.phase = .loading)
    (pass2 : s.loader.state = .pass2) (last : s.loader.nextRecord m = none)
    (judged : s.loader.judgePass2 m = (status, position, running)) (ran : status ≠ .notRun) (is : status.code = code) :
    ∃ t, exec (.pass2End m) s = .next t ∧ LoadEnded s t status code := by
  refine ⟨_, rfl, ?_⟩
  unfold finishPass2
  rw [if_pos ⟨loading, pass2, last⟩]
  simp only [judged]
  exact loadEnded_endLoad rfl ran is

/-- The walk over the records goes on. -/
def GoesOn (m : SerialMemory) (l : ImageLoader) (start : Nat) : Prop :=
  l.recordsRead < l.recordCount ∧ 1 ≤ (memoryByte m start).toNat ∧ (memoryByte m start).toNat ≤ 60 ∧
    start + 1 + (memoryByte m start).toNat ≤ l.totalLength - 2

variable {l : ImageLoader} {start : Nat} {running : Word}

theorem nextRecord_none (at_start : l.recordStart m = some (start, running)) (stops : ¬ GoesOn m l start) :
    l.nextRecord m = none := by
  unfold ImageLoader.nextRecord
  rw [at_start]
  exact if_neg stops

theorem nextRecord_some (at_start : l.recordStart m = some (start, running)) (goesOn : GoesOn m l start) :
    l.nextRecord m ≠ none := by
  unfold ImageLoader.nextRecord
  rw [at_start]
  dsimp only
  rw [if_pos (show l.recordsRead < l.recordCount ∧ _ from goesOn)]
  exact nofun

/-- What pass 2 comes to at a walk that stops at offset `start`. -/
theorem judgePass2_at (at_start : l.recordStart m = some (start, running)) :
    (l.recordsRead < l.recordCount → ∃ position r, l.judgePass2 m = (.changed, position, r)) ∧
    (l.recordCount ≤ l.recordsRead → start ≠ l.totalLength - 2 → l.judgePass2 m = (.changed, start, running)) ∧
    (l.recordCount ≤ l.recordsRead → start = l.totalLength - 2 → running ≠ l.pass1Check →
      l.judgePass2 m = (.changed, l.totalLength, running)) ∧
    (l.recordCount ≤ l.recordsRead → start = l.totalLength - 2 → running = l.pass1Check →
      l.judgePass2 m = (if l.errors = 0 then .applied else .appliedWithErrors, l.totalLength, running)) := by
  unfold ImageLoader.judgePass2
  rw [at_start]
  dsimp only
  refine ⟨fun more => ?_, fun all other => ?_, fun all trailer differs => ?_, fun all trailer same => ?_⟩
  · rw [if_pos more]
    split
    · exact ⟨_, _, rfl⟩
    · exact ⟨_, _, rfl⟩
  · rw [if_neg (Nat.not_lt.mpr all), if_pos other]
  · rw [if_neg (Nat.not_lt.mpr all), if_neg (not_not.mpr trailer), if_pos differs]
  · rw [if_neg (Nat.not_lt.mpr all), if_neg (not_not.mpr trailer), if_neg (not_not.mpr same)]

theorem pass2EndsTheLoad : Pass2EndsTheLoad := by
  intro m s loading pass2
  dsimp only
  refine ⟨fun first differs => ?_, fun same => ?_⟩
  · have none := recordStart_changed s.loader first differs
    refine pass2_ends (position := 6) (running := checkOf (memoryBytes m 0 6)) loading pass2 ?_ ?_ nofun rfl
    · unfold ImageLoader.nextRecord
      rw [none]
    · unfold ImageLoader.judgePass2
      rw [none]
  · have at_start := recordStart_same (m := m) s.loader same
    rw [show (if s.loader.position = 0 then checkOf (memoryBytes m 0 6) else s.loader.runningCheck) =
      runningBefore m s.loader from rfl]
    generalize (if s.loader.position = 0 then 6 else s.loader.position) = start at at_start ⊢
    obtain ⟨more, other, differs, equal⟩ := judgePass2_at at_start
    refine ⟨fun left broken => ?_, fun all => ?_, fun left least most fits => ?_⟩
    · obtain ⟨position, running, judged⟩ := more left
      refine pass2_ends loading pass2 (nextRecord_none at_start ?_) judged nofun rfl
      rintro ⟨-, least, most, fits⟩
      omega
    · have last := nextRecord_none at_start fun goesOn => Nat.not_lt.mpr all goesOn.1
      refine ⟨fun elsewhere => pass2_ends loading pass2 last (other all elsewhere) nofun rfl, fun trailer =>
        ⟨fun unequal => pass2_ends loading pass2 last (differs all trailer unequal) nofun rfl, fun same clean => ?_,
          fun same errors => ?_⟩⟩
      · have judged := equal all trailer same
        rw [if_pos clean] at judged
        exact pass2_ends loading pass2 last judged nofun rfl
      · have judged := equal all trailer same
        rw [if_neg errors] at judged
        exact pass2_ends loading pass2 last judged nofun rfl
    · have goesOn := nextRecord_some at_start ⟨left, least, most, fits⟩
      show Host.Outcome.next (finishPass2 m s) = _
      unfold finishPass2
      rw [if_neg fun ⟨_, _, last⟩ => goesOn last]

/-- Settles O42: faulty records, the records of the configuration and of the ports, and the end of the pass. -/
theorem pass2AppliesRecords : Obligations.Pass2AppliesRecords :=
  ⟨faultyRecordsAreSkipped, configurationRecords, portRecords, pass2EndsTheLoad, insertionKeepsEntries⟩

end Sys2Proof.Statements
end

section
/-! PROOFS. The books of the Frame Store (R20, R21): for each slot the tally of what names and holds it (`Tally`), and the
invariant within an event (`Pool`), where a decision or a generator may have slots in hand and references of entries and
records that have left may still be owed. -/

namespace Sys2Proof.Safety

open Sys2Proof.Machine

/-! ## The tally of a slot -/

/-- What names and holds one slot: transmit queue entries and exchange records, references that are owed, receivers, the input
list and the input queue, a decision or a generator that has it in hand, and announcements that wait for the tracker. -/
structure Tally where
  slot : Slot
  entries : Nat
  records : Nat
  owed : Nat
  receiving : Nat
  waiting : Nat
  hand : Nat
  announced : Nat

/-- The slot agrees with what names and holds it. -/
structure Tally.Sound (t : Tally) : Prop where
  refs : t.slot.refs = t.entries + t.records + t.owed
  free : t.slot.state = .free → t.slot = Slot.empty ∧ t.receiving = 0 ∧ t.waiting = 0
  filling : t.slot.state = .filling → t.slot.refs = 0 ∧ t.waiting = 0 ∧ t.receiving + t.hand ≠ 0
  inUse : t.slot.state = .inUse →
    t.receiving = 0 ∧ (t.waiting = 0 ∨ t.slot.refs = 0) ∧ t.slot.refs + t.waiting + t.hand ≠ 0
  alone : t.receiving + t.waiting + t.hand ≤ 1
  record : t.records ≤ 1
  announced : t.announced ≠ 0 → t.records ≠ 0

/-- The receivers, each counted when slot `i` is its current slot. -/
def receiversOf (s : State) (i : SlotId) : Nat :=
  (allPorts.map fun p => (s.port p).receiver.currentSlot.toList.count i).sum

/-- The frames of the input list and of the input queue in slot `i`. -/
def framesWaiting (s : State) (i : SlotId) : Nat :=
  (s.relay.input.map (·.slot)).count i + (s.management.queue.map (·.slot)).count i

/-- The tally of slot `i` in a state, with the slots in hand and the references owed. -/
def tallyOf (s : State) (hand owed : List SlotId) (i : SlotId) : Tally where
  slot := s.slot i
  entries := entriesNaming s i
  records := recordsNaming s i
  owed := owed.count i
  receiving := receiversOf s i
  waiting := framesWaiting s i
  hand := hand.count i
  announced := trackerWordsFor s i

/-! ## The invariant -/

/-- The copies of a request to one port that may be queued or announced in an exchange state (Table 7-1). -/
def copiesIn (_ : ExchangeKey) (st : ExchangeState) : Nat := if st = .awaitReply ∨ st = .retryAwait then 0 else 1

/-- The books agree, with the slots `hand` in hand and references `owed`; requests to one port have the copies `allowed`; and
where `once` is asked no queue holds two entries of one slot. -/
structure Pool (once : Prop) (allowed : ExchangeKey → ExchangeState → Nat) (hand owed : List SlotId) (s : State) : Prop where
  sound : ∀ i, (tallyOf s hand owed i).Sound
  keys : KeysDistinct s
  copies : ∀ x ∈ s.exchanges, x.responderPort ≠ .flooded →
    entriesNaming s x.slot + trackerWordsFor s x.slot + owed.count x.slot ≤ allowed x.key x.state
  apart : once → ∀ p, ((s.port p).transmitter.queue.map (·.slot)).Nodup

variable {once : Prop} {allowed : ExchangeKey → ExchangeState → Nat} {hand owed : List SlotId} {s t : State} {p q : Port}
  {i j : SlotId} {x y : Exchange}

theorem Tally.Sound.not_free {c : Tally} (h : c.Sound) (named : c.slot.refs ≠ 0) : c.slot.state = .inUse := by
  cases state : c.slot.state with
  | free => exact absurd (by rw [(h.free state).1]; rfl) named
  | filling => exact absurd (h.filling state).1 named
  | inUse => rfl

/-- Slots that wait or that a receiver has are named by nothing. -/
theorem Tally.Sound.unnamed_of_held {c : Tally} (h : c.Sound) (held : c.receiving + c.waiting ≠ 0) : c.slot.refs = 0 := by
  cases state : c.slot.state with
  | free =>
    obtain ⟨-, receiving, waiting⟩ := h.free state
    omega
  | filling => exact (h.filling state).1
  | inUse =>
    obtain ⟨receiving, waiting, -⟩ := h.inUse state
    omega

/-! ## What the books are read from -/

/-- What of a state the books are read from. -/
structure Books where
  slots : Vector Slot 48
  queues : Port → List SlotId
  currents : Port → Option SlotId
  input : List SlotId
  requests : List SlotId
  records : List (ExchangeKey × SlotId × ExchangeState × ResponderPort)
  announced : List SlotId

/-- What of an exchange record the books are read from. -/
def bookedRecord (x : Exchange) : ExchangeKey × SlotId × ExchangeState × ResponderPort :=
  (x.key, x.slot, x.state, x.responderPort)

def books (s : State) : Books where
  slots := s.slots
  queues p := (s.port p).transmitter.queue.map (·.slot)
  currents p := (s.port p).receiver.currentSlot
  input := s.relay.input.map (·.slot)
  requests := s.management.queue.map (·.slot)
  records := s.exchanges.map bookedRecord
  announced := s.words.tracker.map (·.slot)

theorem entriesAt_eq (s : State) (i : SlotId) (p : Port) :
    s.entriesAt i p = ((s.port p).transmitter.queue.map (·.slot)).count i := by
  rw [List.count, List.countP_map]; rfl

theorem recordsNaming_eq (s : State) (i : SlotId) : recordsNaming s i = (s.exchanges.map (·.slot)).count i := by
  rw [List.count, List.countP_map]; rfl

theorem trackerWordsFor_eq (s : State) (i : SlotId) : trackerWordsFor s i = (s.words.tracker.map (·.slot)).count i := by
  rw [List.count, List.countP_map]; rfl

theorem entriesNaming_congr (h : ∀ p, (t.port p).transmitter.queue.map (·.slot) = (s.port p).transmitter.queue.map (·.slot))
    (i : SlotId) : entriesNaming t i = entriesNaming s i := by
  unfold entriesNaming
  simp only [funext fun p => entriesAt_eq t i p, funext fun p => entriesAt_eq s i p, h]

theorem receiversOf_congr (h : ∀ p, (t.port p).receiver.currentSlot = (s.port p).receiver.currentSlot) (i : SlotId) :
    receiversOf t i = receiversOf s i := by
  unfold receiversOf
  simp only [h]

/-- What leaves the books as they were keeps the invariant. -/
theorem Pool.congr (h : Pool once allowed hand owed s) (same : books t = books s) : Pool once allowed hand owed t := by
  obtain ⟨sound, keys, copies, apart⟩ := h
  have slots : t.slots = s.slots := congrArg Books.slots same
  have queues : ∀ p, (t.port p).transmitter.queue.map (·.slot) = (s.port p).transmitter.queue.map (·.slot) :=
    fun p => congrFun (congrArg Books.queues same) p
  have currents : ∀ p, (t.port p).receiver.currentSlot = (s.port p).receiver.currentSlot :=
    fun p => congrFun (congrArg Books.currents same) p
  have input : t.relay.input.map (·.slot) = s.relay.input.map (·.slot) := congrArg Books.input same
  have requests : t.management.queue.map (·.slot) = s.management.queue.map (·.slot) := congrArg Books.requests same
  have records : t.exchanges.map bookedRecord = s.exchanges.map bookedRecord := congrArg Books.records same
  have announced : t.words.tracker.map (·.slot) = s.words.tracker.map (·.slot) := congrArg Books.announced same
  have entries := entriesNaming_congr queues
  have words : ∀ i, trackerWordsFor t i = trackerWordsFor s i := fun i => by
    rw [trackerWordsFor_eq, trackerWordsFor_eq, announced]
  have tallies : ∀ i, tallyOf t hand owed i = tallyOf s hand owed i := fun i => by
    unfold tallyOf framesWaiting
    have named := congrArg (fun l => (l.map fun r : ExchangeKey × SlotId × ExchangeState × ResponderPort => r.2.1).count i)
      records
    simp only [List.map_map] at named
    rw [State.slot_congr slots, entries, recordsNaming_eq, recordsNaming_eq, receiversOf_congr currents, input, requests,
      words]
    simp only [Tally.mk.injEq, true_and, and_true]
    exact named
  refine ⟨fun i => tallies i ▸ sound i, ?_, fun x mem => ?_, fun o p => queues p ▸ apart o p⟩
  · have pairs : ∀ l : List Exchange, l.Pairwise (fun x y => x.key ≠ y.key) ↔
        (l.map bookedRecord).Pairwise fun a b => a.1 ≠ b.1 := fun l => by
      rw [List.pairwise_map]; rfl
    rwa [KeysDistinct, pairs, records, ← pairs]
  · have at_s : bookedRecord x ∈ s.exchanges.map bookedRecord := records ▸ List.mem_map_of_mem mem
    obtain ⟨y, hy, eq⟩ := List.mem_map.mp at_s
    simp only [bookedRecord, Prod.mk.injEq] at eq
    obtain ⟨key, slot, state, responder⟩ := eq
    rw [← key, ← slot, ← state, ← responder, entries, words]
    exact copies y hy

/-! ## Books and invariant of a state between events -/

theorem receiversOf_eq (s : State) (i : SlotId) :
    receiversOf s i = (allPorts.filterMap fun p => (s.port p).receiver.currentSlot).count i := by
  unfold receiversOf
  induction allPorts with
  | nil => rfl
  | cons p l ih =>
    rw [List.map_cons, List.sum_cons, ih, List.filterMap_cons]
    cases (s.port p).receiver.currentSlot with
    | none => simp
    | some k => simp [List.count_cons, Nat.add_comm]

theorem holders_count (s : State) (i : SlotId) : (holders s).count i = receiversOf s i + framesWaiting s i := by
  unfold holders framesWaiting
  rw [receiversOf_eq, List.count_append, List.count_append]
  omega

theorem receiversOf_eq_zero : receiversOf s i = 0 ↔ ∀ p, (s.port p).receiver.currentSlot ≠ some i := by
  rw [receiversOf_eq, List.count_eq_zero]
  simp [List.mem_filterMap]

theorem notMem_holders : i ∉ holders s ↔ receiversOf s i + framesWaiting s i = 0 := by
  rw [← holders_count, List.count_eq_zero]

theorem heldOutside_eq_false : s.heldOutside i = false ↔ receiversOf s i + framesWaiting s i = 0 := by
  rw [← notMem_holders, ← Bool.not_eq_true, not_iff_not]
  exact (Statements.mem_holders_iff s i).symm

theorem trackerWordsFor_ne_zero : trackerWordsFor s i ≠ 0 ↔ ∃ d ∈ s.words.tracker, d.slot = i := by
  rw [trackerWordsFor_eq, ← Nat.pos_iff_ne_zero, List.count_pos_iff]
  simp

theorem recordsNaming_ne_zero : recordsNaming s i ≠ 0 ↔ ∃ x ∈ s.exchanges, x.slot = i := by
  rw [recordsNaming_eq, ← Nat.pos_iff_ne_zero, List.count_pos_iff]
  simp

/-- Between events nothing is in hand and nothing owed. -/
theorem pool_of_consistent (h : PoolConsistent s)
    (apart : once → ∀ p, ((s.port p).transmitter.queue.map (·.slot)).Nodup) : Pool once copiesIn [] [] s := by
  obtain ⟨counts, ⟨free, empty, distinct, unnamed, filling⟩, keys, ⟨records, words, copies⟩⟩ := h
  refine ⟨fun i => ?_, keys, fun x mem single => by simpa [copiesIn] using copies x mem single, apart⟩
  have outside : i ∈ holders s ↔ receiversOf s i + framesWaiting s i ≠ 0 := by
    rw [← not_iff_not, notMem_holders]; simp
  have alone : receiversOf s i + framesWaiting s i ≤ 1 := by
    rw [← holders_count]; exact List.nodup_iff_count_le_one.mp distinct i
  have receives : (∃ p, (s.port p).receiver.currentSlot = some i) ↔ receiversOf s i ≠ 0 := by
    rw [Ne, receiversOf_eq_zero]; simp
  refine ⟨by simpa [tallyOf] using counts i, fun st => ?_, fun st => ?_, fun st => ?_, by simpa [tallyOf] using alone,
    ?_, fun some => ?_⟩
  · obtain ⟨-, out⟩ := (free i).mp st
    rw [notMem_holders] at out
    exact ⟨empty i st, by simp only [tallyOf]; omega, by simp only [tallyOf]; omega⟩
  · have current := receives.mp ((filling i).mp st)
    exact ⟨unnamed i (outside.mpr (by omega)), by simp only [tallyOf]; omega, by simp only [tallyOf]; omega⟩
  · have none : receiversOf s i = 0 := by
      by_contra some
      have := (filling i).mpr (receives.mpr some)
      rw [show (s.slot i).state = .inUse from st] at this
      exact absurd this (by decide)
    have used : ¬ ((s.slot i).refs = 0 ∧ i ∉ holders s) := fun both => by
      have := (free i).mpr both
      rw [show (s.slot i).state = .inUse from st] at this
      exact absurd this (by decide)
    refine ⟨none, ?_, ?_⟩
    · by_cases waits : framesWaiting s i = 0
      · exact .inl waits
      · exact .inr (unnamed i (outside.mpr (by omega)))
    · rw [notMem_holders] at used
      simp only [tallyOf, List.count_nil]
      omega
  · simp only [tallyOf, recordsNaming_eq]
    exact List.nodup_iff_count_le_one.mp records i
  · obtain ⟨d, mem, eq⟩ := trackerWordsFor_ne_zero.mp some
    obtain ⟨x, hx, slot⟩ := words d mem
    exact recordsNaming_ne_zero.mpr ⟨x, hx, slot.trans eq⟩

theorem Pool.consistent (h : Pool once copiesIn [] [] s) : PoolConsistent s := by
  obtain ⟨sound, keys, copies, -⟩ := h
  have outside : ∀ i, i ∈ holders s ↔ receiversOf s i + framesWaiting s i ≠ 0 := fun i => by
    rw [← not_iff_not, notMem_holders]; simp
  refine ⟨fun i => by simpa [tallyOf] using (sound i).refs, ⟨fun i => ⟨fun st => ?_, fun ⟨zero, out⟩ => ?_⟩, fun i st => ?_, ?_,
    fun i mem => ?_, fun i => ⟨fun st => ?_, fun ⟨p, current⟩ => ?_⟩⟩, keys, ?_, fun d mem => ?_, fun x mem single => ?_⟩
  · obtain ⟨same, receiving, waiting⟩ := (sound i).free st
    simp only [tallyOf] at same receiving waiting
    exact ⟨by rw [same]; rfl, notMem_holders.mpr (by omega)⟩
  · rw [notMem_holders] at out
    cases st : (s.slot i).state with
    | free => rfl
    | filling =>
      have := ((sound i).filling st).2.2
      simp only [tallyOf, List.count_nil] at this
      omega
    | inUse =>
      have := ((sound i).inUse st).2.2
      simp only [tallyOf, List.count_nil] at this
      omega
  · exact ((sound i).free st).1
  · refine List.nodup_iff_count_le_one.mpr fun i => ?_
    rw [holders_count]
    simpa [tallyOf] using (sound i).alone
  · exact (sound i).unnamed_of_held ((outside i).mp mem)
  · have := ((sound i).filling st).2.2
    simp only [tallyOf, List.count_nil, Nat.add_zero] at this
    rw [Ne, receiversOf_eq_zero] at this
    simpa using this
  · have some : receiversOf s i ≠ 0 := by
      rw [Ne, receiversOf_eq_zero]; exact fun none => none p current
    cases st : (s.slot i).state with
    | free => exact absurd ((sound i).free st).2.1 some
    | filling => rfl
    | inUse => exact absurd ((sound i).inUse st).1 some
  · refine List.nodup_iff_count_le_one.mpr fun i => ?_
    rw [← recordsNaming_eq]
    exact (sound i).record
  · exact recordsNaming_ne_zero.mp ((sound d.slot).announced (trackerWordsFor_ne_zero.mpr ⟨d, mem, rfl⟩))
  · simpa [copiesIn] using copies x mem single

end Sys2Proof.Safety
end

section
/-! PROOFS. The operations of the Frame Store and of the transmit queues keep the books (`Pool`): slots written, claimed and let
go, departures, admissions, withdrawals and flushes. -/

namespace Sys2Proof.Safety

open Sys2Proof.Machine

variable {once : Prop} {allowed : ExchangeKey → ExchangeState → Nat} {hand owed gone : List SlotId} {s t : State}
  {p q : Port} {i j : SlotId} {x y : Exchange} {e : QueueEntry} {m : Manner}

/-! ## One tally -/

/-- A reference that was owed is released. -/
theorem Tally.Sound.release {c : Tally} (h : c.Sound) (owes : c.owed ≠ 0) :
    Tally.Sound { c with
      owed := c.owed - 1
      slot := if c.slot.refs - 1 = 0 ∧ c.receiving + c.waiting = 0 then Slot.empty
        else { c.slot with refs := c.slot.refs - 1 } } := by
  have refs := h.refs
  have used := h.not_free (by omega)
  obtain ⟨receiving, waiting, -⟩ := h.inUse used
  have alone := h.alone
  split
  · exact ⟨by simp only [Slot.empty]; omega, fun _ => ⟨rfl, receiving, by simp only; omega⟩, nofun, nofun, alone, h.record,
      h.announced⟩
  · next more =>
    exact ⟨by simp only; omega, fun st => absurd (st.symm.trans used) nofun, fun st => absurd (st.symm.trans used) nofun,
      fun _ => ⟨receiving, .inl (by simp only; omega), by simp only; omega⟩, alone, h.record, h.announced⟩

/-- A departure is announced while the slot's exchange is open. -/
theorem Tally.Sound.announce {c : Tally} (h : c.Sound) (recorded : c.records ≠ 0) (n : Nat) :
    Tally.Sound { c with announced := n } :=
  ⟨h.refs, h.free, h.filling, h.inUse, h.alone, h.record, fun _ => recorded⟩

/-- A slot in hand is let go. -/
theorem Tally.Sound.letGo {c : Tally} (h : c.Sound) (held : c.hand ≠ 0) :
    Tally.Sound { c with
      hand := c.hand - 1
      slot := if c.slot.refs = 0 ∧ c.receiving + c.waiting = 0 then Slot.empty else c.slot } := by
  have alone := h.alone
  split
  · next none =>
    have refs := h.refs
    exact ⟨by simp only [Slot.empty]; omega, fun _ => ⟨rfl, by simp only; omega, by simp only; omega⟩, nofun, nofun,
      by simp only; omega, h.record, h.announced⟩
  · next named =>
    refine ⟨h.refs, h.free, fun st => ?_, fun st => ?_, by simp only; omega, h.record, h.announced⟩
    · have := (h.filling st).1
      omega
    · obtain ⟨receiving, waiting, -⟩ := h.inUse st
      exact ⟨receiving, waiting, by simp only; omega⟩

/-- One more entry or record names a slot in use that nothing but a hand holds. -/
theorem Tally.Sound.named {c : Tally} (h : c.Sound) (used : c.slot.state = .inUse) (waiting : c.waiting = 0)
    {entries records : Nat} (more : entries + records = c.entries + c.records + 1) (record : records ≤ 1)
    (kept : c.records ≤ records) :
    Tally.Sound { c with
      entries := entries, records := records, slot := { c.slot with refs := c.slot.refs + 1 } } := by
  have refs := h.refs
  refine ⟨by simp only; omega, fun st => absurd (st.symm.trans used) nofun, fun st => absurd (st.symm.trans used) nofun,
    fun _ => ⟨(h.inUse used).1, .inl waiting, by simp only; omega⟩, h.alone, record, fun some => ?_⟩
  have := h.announced some
  simp only; omega

/-- A slot in use stays so under what is written to it. -/
theorem Tally.Sound.written {c : Tally} (h : c.Sound) {f : Slot} (used : c.slot.state ≠ .free) (refs : f.refs = c.slot.refs)
    (state : f.state = c.slot.state) : Tally.Sound { c with slot := f } := by
  refine ⟨refs.trans h.refs, fun st => absurd (state.symm.trans st) used, fun st => ?_, fun st => ?_, h.alone, h.record,
    h.announced⟩
  · simp only [refs]; exact h.filling (state.symm.trans st)
  · simp only [refs]; exact h.inUse (state.symm.trans st)

/-! ## Slots in a state -/

/-- The books of slots change in one slot. -/
theorem Pool.of_tally {hand' owed' : List SlotId} (h : Pool once allowed hand owed s)
    (others : ∀ j ≠ i, tallyOf t hand' owed' j = tallyOf s hand owed j) (here : (tallyOf t hand' owed' i).Sound)
    (keys : KeysDistinct t)
    (copies : ∀ x ∈ t.exchanges, x.responderPort ≠ .flooded →
      entriesNaming t x.slot + trackerWordsFor t x.slot + owed'.count x.slot ≤ allowed x.key x.state)
    (apart : once → ∀ p, ((t.port p).transmitter.queue.map (·.slot)).Nodup) : Pool once allowed hand' owed' t := by
  refine ⟨fun j => ?_, keys, copies, apart⟩
  by_cases eq : j = i
  · rw [eq]; exact here
  · rw [others j eq]; exact h.sound j

theorem Pool.write (h : Pool once allowed hand owed s) {f : Slot → Slot} (used : (s.slot i).state ≠ .free)
    (refs : (f (s.slot i)).refs = (s.slot i).refs) (state : (f (s.slot i)).state = (s.slot i).state) :
    Pool once allowed hand owed (s.modifySlot i f) := by
  refine h.of_tally (i := i) (fun j ne => ?_) ?_ h.keys h.copies h.apart
  · unfold tallyOf
    rw [State.slot_modifySlot_other s f ne]
    rfl
  · have tally : tallyOf (s.modifySlot i f) hand owed i = { tallyOf s hand owed i with slot := f (s.slot i) } := by
      unfold tallyOf
      rw [State.slot_modifySlot_same]
      rfl
    rw [tally]
    exact (h.sound i).written used refs state

/-- A FREE slot is claimed: it is empty but for its state, and in hand. -/
theorem Pool.claim (h : Pool once allowed hand owed s) (free : (s.slot i).state = .free) (out : i ∉ hand) {st : SlotState}
    (claimed : st ≠ .free) : Pool once allowed (i :: hand) owed (s.modifySlot i fun _ => ⟨[], 0, st⟩) := by
  refine h.of_tally (i := i) (fun j ne => ?_) ?_ h.keys h.copies h.apart
  · unfold tallyOf
    rw [State.slot_modifySlot_other s _ ne, List.count_cons_of_ne (Ne.symm ne)]
    rfl
  · have tally : tallyOf (s.modifySlot i fun _ => ⟨[], 0, st⟩) (i :: hand) owed i =
        { tallyOf s hand owed i with slot := ⟨[], 0, st⟩, hand := 1 } := by
      unfold tallyOf
      rw [State.slot_modifySlot_same, List.count_cons_self, List.count_eq_zero_of_not_mem out]
      rfl
    have sound := h.sound i
    obtain ⟨empty, receiving, waiting⟩ := sound.free free
    have refs := sound.refs
    have zero : (tallyOf s hand owed i).slot.refs = 0 := by rw [empty]; rfl
    rw [tally]
    exact ⟨by simp only; omega, fun st => absurd st claimed, fun _ => ⟨rfl, waiting, by simp⟩,
      fun _ => ⟨receiving, .inr rfl, by simp⟩, by simp only; omega, sound.record, sound.announced⟩

theorem Pool.heldOutside_hand (h : Pool once allowed (i :: hand) owed s) : receiversOf s i + framesWaiting s i = 0 := by
  have alone := (h.sound i).alone
  simp only [tallyOf, List.count_cons_self] at alone
  omega

/-- What is read from a state that differs in its slots alone. -/
theorem tallyOf_slots (only : t = { s with slots := t.slots }) (hand' owed' : List SlotId) (j : SlotId) :
    tallyOf t hand' owed' j = { tallyOf s hand' owed' j with slot := t.slot j } := by
  rw [only]; rfl

theorem Pool.letGo (h : Pool once allowed (i :: hand) owed s) : Pool once allowed hand owed (s.letGo i) := by
  have only := State.letGo_only s i
  refine h.of_tally (i := i) (fun j ne => ?_) ?_ (by rw [only]; exact h.keys) (by rw [only]; exact h.copies)
    (by rw [only]; exact h.apart)
  · rw [tallyOf_slots only, State.slot_letGo_other s ne]
    unfold tallyOf
    rw [List.count_cons_of_ne (Ne.symm ne)]
  · have sound := (h.sound i).letGo (by simp [tallyOf])
    have free : s.heldOutside i = false := heldOutside_eq_false.mpr h.heldOutside_hand
    rw [tallyOf_slots only, State.slot_letGo_same, free]
    simpa [tallyOf, h.heldOutside_hand] using sound

/-- The slot after a release of one reference on it. -/
theorem slot_releaseRef_books (s : State) (i : SlotId) : (s.releaseRef i).slot i =
    if (s.slot i).refs - 1 = 0 ∧ receiversOf s i + framesWaiting s i = 0 then Slot.empty
    else { s.slot i with refs := (s.slot i).refs - 1 } := by
  simp only [State.slot_releaseRef_same, ← heldOutside_eq_false, Bool.not_eq_true]

theorem Pool.releaseRef (h : Pool once allowed hand (i :: owed) s) : Pool once allowed hand owed (s.releaseRef i) := by
  have only := State.releaseRef_only s i
  refine h.of_tally (i := i) (fun j ne => ?_) ?_ (by rw [only]; exact h.keys) (fun x mem single => ?_)
    (by rw [only]; exact h.apart)
  · rw [tallyOf_slots only, State.slot_releaseRef_other s ne]
    unfold tallyOf
    rw [List.count_cons_of_ne (Ne.symm ne)]
  · have sound := (h.sound i).release (by simp [tallyOf])
    rw [tallyOf_slots only, slot_releaseRef_books]
    simpa [tallyOf] using sound
  · rw [only] at mem ⊢
    have bound := h.copies x mem single
    rw [List.count_cons] at bound
    exact le_trans (Nat.add_le_add_left (Nat.le_add_right ..) _) bound

/-! ## Departures -/

/-- A departure is announced to the tracker at most once, and only for an open exchange. -/
theorem announce_tracker (s : State) (p : Port) (e : QueueEntry) (m : Manner) :
    (s.announce p e m).words.tracker = s.words.tracker ∨
      (∃ d : AgedDeparture, d.slot = e.slot ∧ (s.announce p e m).words.tracker = s.words.tracker ++ [d]) ∧
        recordsNaming s e.slot ≠ 0 := by
  unfold State.announce
  split
  · split
    · next told =>
      simp only [State.exchangeNames, Bool.and_eq_true, List.any_eq_true, beq_iff_eq] at told
      exact .inr ⟨⟨_, rfl, rfl⟩, recordsNaming_ne_zero.mpr told.2⟩
    · exact .inl rfl
  · split
    · exact .inl rfl
    · split <;> exact .inl rfl

/-- The announcements for a slot after a departure. -/
theorem trackerWordsFor_announce (s : State) (p : Port) (e : QueueEntry) (m : Manner) :
    (∀ i, trackerWordsFor (s.announce p e m) i = trackerWordsFor s i) ∨
      (∀ i, trackerWordsFor (s.announce p e m) i = trackerWordsFor s i + [e.slot].count i) ∧
        recordsNaming s e.slot ≠ 0 := by
  rcases announce_tracker s p e m with same | ⟨⟨d, slot, told⟩, recorded⟩
  · exact .inl fun i => by rw [trackerWordsFor_eq, trackerWordsFor_eq, same]
  · exact .inr ⟨fun i => by rw [trackerWordsFor_eq, trackerWordsFor_eq, told, List.map_append, List.count_append,
      List.map_singleton, slot], recorded⟩

/-- What is read from a state that differs in its words alone. -/
theorem tallyOf_words (only : t = { s with words := t.words }) (hand' owed' : List SlotId) (j : SlotId) :
    tallyOf t hand' owed' j = { tallyOf s hand' owed' j with announced := trackerWordsFor t j } := by
  conv_lhs => rw [only]
  unfold tallyOf trackerWordsFor
  rw [only]
  rfl

theorem Pool.announce (h : Pool once allowed hand owed s)
    (room : ∀ x ∈ s.exchanges, x.slot = e.slot → x.responderPort ≠ .flooded →
      entriesNaming s x.slot + trackerWordsFor s x.slot + owed.count x.slot + 1 ≤ allowed x.key x.state) :
    Pool once allowed hand owed (s.announce p e m) := by
  have only := State.announce_only s p e m
  have words := trackerWordsFor_announce s p e m
  generalize s.announce p e m = t at *
  refine ⟨fun i => ?_, by rw [only]; exact h.keys, fun x mem single => ?_, by rw [only]; exact h.apart⟩
  · rw [tallyOf_words only]
    rcases words with same | ⟨told, recorded⟩
    · rw [same]; exact h.sound i
    · rw [told]
      by_cases eq : i = e.slot
      · rw [eq]; exact (h.sound e.slot).announce recorded _
      · rw [List.count_eq_zero_of_not_mem (by simpa using eq)]; exact h.sound i
  · have entries : entriesNaming t x.slot = entriesNaming s x.slot := by rw [only]; rfl
    rw [only] at mem
    rw [entries]
    rcases words with same | ⟨told, -⟩
    · rw [same]; exact h.copies x mem single
    · rw [told]
      by_cases eq : x.slot = e.slot
      · have := room x mem eq single
        rw [eq] at this ⊢
        simp only [List.count_singleton_self]
        omega
      · rw [List.count_eq_zero_of_not_mem (by simpa using eq)]; exact h.copies x mem single

/-- A departure releases the reference of an entry that has left its queue. -/
theorem Pool.depart (h : Pool once allowed hand (e.slot :: owed) s) : Pool once allowed hand owed (s.depart p m e) := by
  refine h.releaseRef.announce fun x mem slot single => ?_
  have only := State.releaseRef_only s e.slot
  rw [only] at mem ⊢
  have := h.copies x mem single
  rw [slot, List.count_cons_self] at this
  rw [slot]
  exact this

theorem Pool.departs (l : List QueueEntry) (h : Pool once allowed hand (l.map (·.slot) ++ owed) s) :
    Pool once allowed hand owed (l.foldl (fun s e => State.depart s p m e) s) := by
  induction l generalizing s with
  | nil => exact h
  | cons e l ih => exact ih (Pool.depart h)

/-! ## Queues -/

/-- A sum over the ports changes by what it changes at one. -/
theorem sum_of_port {f g : Port → Nat} (others : ∀ q ≠ p, g q = f q) :
    (allPorts.map g).sum + f p = (allPorts.map f).sum + g p := by
  unfold allPorts
  simp only [List.map_cons, List.map_nil, List.sum_cons, List.sum_nil]
  match p with
  | 0 => rw [others 1 (by decide), others 2 (by decide), others 3 (by decide)]; omega
  | 1 => rw [others 0 (by decide), others 2 (by decide), others 3 (by decide)]; omega
  | 2 => rw [others 0 (by decide), others 1 (by decide), others 3 (by decide)]; omega
  | 3 => rw [others 0 (by decide), others 1 (by decide), others 2 (by decide)]; omega

/-- The entries that name a slot, where one port has changed. -/
theorem entriesNaming_of_port (others : ∀ q ≠ p, t.port q = s.port q) (i : SlotId) :
    entriesNaming t i + s.entriesAt i p = entriesNaming s i + t.entriesAt i p :=
  sum_of_port fun q ne => by unfold State.entriesAt; rw [others q ne]

/-- The receivers of a slot, where one port has changed. -/
theorem receiversOf_of_port (others : ∀ q ≠ p, t.port q = s.port q) (i : SlotId) :
    receiversOf t i + (s.port p).receiver.currentSlot.toList.count i =
      receiversOf s i + (t.port p).receiver.currentSlot.toList.count i :=
  sum_of_port (f := fun q => (s.port q).receiver.currentSlot.toList.count i) fun q ne => by rw [others q ne]

/-- What is read from a state that differs in one port, with the same current slot. -/
theorem tallyOf_port {f : LinePort → LinePort}
    (current : (f (s.port p)).receiver.currentSlot = (s.port p).receiver.currentSlot) (hand' owed' : List SlotId)
    (j : SlotId) : tallyOf (s.modifyPort p f) hand' owed' j =
      { tallyOf s hand' owed' j with entries := entriesNaming (s.modifyPort p f) j } := by
  have receiving : receiversOf (s.modifyPort p f) j = receiversOf s j := receiversOf_congr (fun q => by
    by_cases eq : q = p
    · rw [eq, State.port_modifyPort_same, current]
    · rw [State.port_modifyPort_other s f eq]) j
  unfold tallyOf
  rw [receiving]
  rfl

/-- Entries that leave a queue are owed. -/
theorem Pool.leave (h : Pool once allowed hand owed s) {f : LinePort → LinePort}
    (current : (f (s.port p)).receiver.currentSlot = (s.port p).receiver.currentSlot)
    (queue : ((s.port p).transmitter.queue.map (·.slot)).Perm (gone ++ (f (s.port p)).transmitter.queue.map (·.slot))) :
    Pool once allowed hand (gone ++ owed) (s.modifyPort p f) := by
  have entries : ∀ i, entriesNaming s i = entriesNaming (s.modifyPort p f) i + gone.count i := fun i => by
    have sum := entriesNaming_of_port (s := s) (t := s.modifyPort p f) (p := p)
      (fun q ne => State.port_modifyPort_other s f ne) i
    rw [entriesAt_eq, entriesAt_eq, State.port_modifyPort_same, queue.count_eq, List.count_append] at sum
    omega
  refine ⟨fun i => ?_, h.keys, fun x mem single => ?_, fun o q => ?_⟩
  · have sound := h.sound i
    have refs := sound.refs
    simp only [tallyOf, entries i] at refs
    rw [tallyOf_port current]
    refine ⟨?_, sound.free, sound.filling, sound.inUse, sound.alone, sound.record, sound.announced⟩
    simp only [tallyOf, List.count_append]
    omega
  · have bound := h.copies x mem single
    rw [entries] at bound
    rw [List.count_append]
    have words : trackerWordsFor (s.modifyPort p f) x.slot = trackerWordsFor s x.slot := rfl
    omega
  · by_cases eq : q = p
    · rw [eq, State.port_modifyPort_same]
      exact (List.nodup_append.mp (queue.nodup_iff.mp (h.apart o p))).2.1
    · rw [State.port_modifyPort_other s f eq]
      exact h.apart o q

/-- A change of one port that leaves its current slot and the slots of its queue. -/
theorem Pool.port (h : Pool once allowed hand owed s) {f : LinePort → LinePort}
    (current : (f (s.port p)).receiver.currentSlot = (s.port p).receiver.currentSlot)
    (queue : (f (s.port p)).transmitter.queue.map (·.slot) = (s.port p).transmitter.queue.map (·.slot)) :
    Pool once allowed hand owed (s.modifyPort p f) := h.leave (gone := []) current (by rw [queue]; exact .refl _)

theorem Pool.transmitter (h : Pool once allowed hand owed s) {f : Transmitter → Transmitter}
    (queue : (f (s.port p).transmitter).queue.map (·.slot) = (s.port p).transmitter.queue.map (·.slot)) :
    Pool once allowed hand owed (s.modifyTransmitter p f) :=
  h.port (f := fun x => { x with transmitter := f x.transmitter }) rfl queue

theorem Pool.countPort (h : Pool once allowed hand owed s) (f : PortCounters → PortCounters) :
    Pool once allowed hand owed (s.countPort p f) := h.port (f := fun x => { x with counters := f x.counters }) rfl rfl

theorem Pool.recordOf (h : Pool once allowed hand owed s) (f : PortRecord → PortRecord) :
    Pool once allowed hand owed (s.modifyRecord p f) := h.port (f := fun x => { x with record := f x.record }) rfl rfl

/-- A slot that a new entry may name: in use, and held by no receiver, input list or input queue. -/
def Nameable (s : State) (i : SlotId) : Prop := (s.slot i).state = .inUse ∧ framesWaiting s i = 0

/-- Another copy of a request in slot `i` is allowed. -/
def CopyAllowed (allowed : ExchangeKey → ExchangeState → Nat) (owed : List SlotId) (s : State) (i : SlotId) (n : Nat) : Prop :=
  ∀ x ∈ s.exchanges, x.slot = i → x.responderPort ≠ .flooded →
    entriesNaming s i + trackerWordsFor s i + owed.count i + n ≤ allowed x.key x.state

theorem queue_joinQueue_perm (s : State) (p : Port) (e : QueueEntry) :
    ((s.joinQueue p e).port p).transmitter.queue.Perm (e :: (s.port p).transmitter.queue) := by
  rw [State.port_joinQueue_same, (wakeTransmitter_keeps ..).1]
  exact joined_perm ..

/-- The queue less its youngest ORDINARY entry. -/
theorem queue_displaced_perm {d : QueueEntry} {rest : List QueueEntry}
    (youngest : takeYoungestOrdinary (s.port p).transmitter.waiting = some (d, rest)) :
    (s.port p).transmitter.queue.Perm (d :: ((s.port p).transmitter.inTransmission ++ rest)) := by
  rw [← (s.port p).transmitter.inTransmission_append_waiting]
  exact ((takeYoungestOrdinary_perm youngest).2.append_left _).trans List.perm_middle

theorem entriesAt_le (s : State) (i : SlotId) (p : Port) : s.entriesAt i p ≤ entriesNaming s i :=
  List.single_le_sum (fun _ _ => Nat.zero_le _) _ (List.mem_map_of_mem (mem_allPorts p))

theorem Pool.joinQueue (h : Pool once allowed hand owed s) (named : Nameable s e.slot) (new : s.entriesAt e.slot p = 0)
    (room : CopyAllowed allowed owed s e.slot 1) : Pool once allowed hand owed (s.joinQueue p e) := by
  obtain ⟨used, waiting⟩ := named
  have queue := queue_joinQueue_perm s p e
  have entries : ∀ i, entriesNaming (s.joinQueue p e) i = entriesNaming s i + [e.slot].count i := fun i => by
    have sum := entriesNaming_of_port (s := s) (t := s.joinQueue p e) (p := p)
      (fun q ne => State.port_joinQueue_other s e ne) i
    rw [entriesAt_eq, entriesAt_eq, (queue.map _).count_eq, List.map_cons, List.count_cons] at sum
    rw [List.count_singleton]
    omega
  have receiving : ∀ i, receiversOf (s.joinQueue p e) i = receiversOf s i := receiversOf_congr fun q => by
    by_cases eq : q = p
    · rw [eq, State.port_joinQueue_same]
    · rw [State.port_joinQueue_other s e eq]
  have tally : ∀ i, tallyOf (s.joinQueue p e) hand owed i = { tallyOf s hand owed i with
      slot := (s.joinQueue p e).slot i, entries := entriesNaming s i + [e.slot].count i } := fun i => by
    unfold tallyOf
    rw [entries, receiving]
    rfl
  refine h.of_tally (i := e.slot) (fun j ne => ?_) ?_ h.keys (fun x mem single => ?_) fun o q => ?_
  · rw [tally, State.slot_joinQueue_other s p e ne, List.count_eq_zero_of_not_mem (by simpa using ne)]
    rfl
  · rw [tally, State.slot_joinQueue_same, List.count_singleton_self]
    have sound := h.sound e.slot
    exact sound.named used waiting (by simp only [tallyOf]; omega) sound.record le_rfl
  · have words : trackerWordsFor (s.joinQueue p e) x.slot = trackerWordsFor s x.slot := rfl
    rw [entries, words]
    by_cases eq : x.slot = e.slot
    · have := room x mem eq single
      rw [eq, List.count_singleton_self]
      omega
    · rw [List.count_eq_zero_of_not_mem (by simpa using eq)]
      exact h.copies x mem single
  · by_cases eq : q = p
    · rw [eq]
      refine (queue.map _).nodup_iff.mpr (List.nodup_cons.mpr ⟨?_, h.apart o p⟩)
      rw [entriesAt_eq] at new
      exact List.count_eq_zero.mp new
    · rw [State.port_joinQueue_other s e eq]
      exact h.apart o q

theorem Pool.displace (h : Pool once allowed hand owed s) {d : QueueEntry} {rest : List QueueEntry}
    (youngest : takeYoungestOrdinary (s.port p).transmitter.waiting = some (d, rest)) :
    Pool once allowed hand owed (s.displace p d rest) := by
  exact Pool.depart (Pool.countPort (h.leave (p := p) (gone := [d.slot]) (f := fun x => { x with
    transmitter := { x.transmitter with queue := x.transmitter.inTransmission ++ rest } }) rfl ((queue_displaced_perm youngest).map _)) _)

end Sys2Proof.Safety
end

section
/-! PROOFS. Admissions, withdrawals and flushes of transmit queues keep the books (`Pool`). -/

namespace Sys2Proof.Safety

open Sys2Proof.Machine

variable {once : Prop} {allowed : ExchangeKey → ExchangeState → Nat} {hand owed : List SlotId} {s t : State}
  {p q : Port} {i j : SlotId} {d e : QueueEntry} {rest : List QueueEntry} {l : List Port} {frame : List Character}

/-! ## Admissions (R32, R33) -/

theorem exchanges_of_traffic (traffic : SameButTraffic s t) : t.exchanges = s.exchanges := by
  obtain ⟨-, -, -, -, -, exchanges, -⟩ := traffic.fields
  exact exchanges

theorem management_of_traffic (traffic : SameButTraffic s t) : t.management = s.management := by
  obtain ⟨-, -, -, -, -, -, -, -, management, -⟩ := traffic.fields
  exact management

/-- A slot may be offered to the ports `l`: it is nameable, stands in none of their queues, and as many copies are allowed. -/
structure Offerable (allowed : ExchangeKey → ExchangeState → Nat) (owed : List SlotId) (s : State) (i : SlotId)
    (l : List Port) : Prop where
  distinct : l.Nodup
  nameable : Nameable s i
  new : ∀ p ∈ l, s.entriesAt i p = 0
  room : CopyAllowed allowed owed s i l.length

/-- With fewer ports to come, where the slot and its copies are as they were. -/
theorem Offerable.congr {l' : List Port} (h : Offerable allowed owed s i l) (sub : l'.Sublist l)
    (state : (t.slot i).state = (s.slot i).state) (traffic : SameButTraffic s t)
    (entries : ∀ q ∈ l', t.entriesAt i q = s.entriesAt i q)
    (copies : entriesNaming t i + trackerWordsFor t i + l'.length ≤ entriesNaming s i + trackerWordsFor s i + l.length) :
    Offerable allowed owed t i l' := by
  obtain ⟨-, -, -, relay, -, exchanges, -, -, management, -⟩ := traffic.fields
  obtain ⟨used, waiting⟩ := h.nameable
  refine ⟨h.distinct.sublist sub, ⟨state.trans used, ?_⟩, fun q mem => (entries q mem).trans (h.new q (sub.subset mem)),
    fun x mem slot single => ?_⟩
  · unfold framesWaiting
    rw [relay, management]
    exact waiting
  · have := h.room x (exchanges ▸ mem) slot single
    omega

theorem Offerable.skip (h : Offerable allowed owed s i (p :: l)) : Offerable allowed owed s i l :=
  h.congr (List.sublist_cons_self p l) rfl (.refl s) (fun _ _ => rfl)
    (Nat.add_le_add_left (Nat.le_succ _) _)

theorem entriesAt_congr (queue : (t.port p).transmitter.queue = (s.port p).transmitter.queue) (i : SlotId) :
    t.entriesAt i p = s.entriesAt i p := by
  unfold State.entriesAt; rw [queue]

theorem Offerable.joinQueue (h : Offerable allowed owed s e.slot (p :: l)) :
    Offerable allowed owed (s.joinQueue p e) e.slot l := by
  obtain ⟨new, -⟩ := List.nodup_cons.mp h.distinct
  refine h.congr (List.sublist_cons_self p l) (by rw [State.slot_joinQueue_same]) (State.joinQueue_traffic ..)
    (fun q mem => ?_) ?_
  · rw [entriesAt_congr]
    rw [State.port_joinQueue_other s e fun eq : q = p => new (eq ▸ mem)]
  · have sum := entriesNaming_of_port (s := s) (t := s.joinQueue p e) (p := p)
      (fun q ne => State.port_joinQueue_other s e ne) e.slot
    rw [entriesAt_eq, entriesAt_eq, ((queue_joinQueue_perm s p e).map _).count_eq, List.map_cons, List.count_cons_self] at sum
    have words : trackerWordsFor (s.joinQueue p e) e.slot = trackerWordsFor s e.slot := rfl
    rw [List.length_cons]
    omega

theorem Offerable.refuseAtFull (h : Offerable allowed owed s i (p :: l)) :
    Offerable allowed owed (s.refuseAtFull q) i l := by
  have same : ∀ k, ((s.refuseAtFull q).port k).transmitter = (s.port k).transmitter := fun k => by
    unfold State.refuseAtFull
    by_cases eq : k = q
    · rw [eq, State.port_countPort_same]
    · rw [State.port_countPort_other s _ eq]
  have entries : ∀ k, (s.refuseAtFull q).entriesAt i k = s.entriesAt i k := fun k => entriesAt_congr (by rw [same k]) i
  have naming : entriesNaming (s.refuseAtFull q) i = entriesNaming s i := by
    unfold entriesNaming
    rw [funext entries]
  have words : trackerWordsFor (s.refuseAtFull q) i = trackerWordsFor s i := rfl
  refine h.skip.congr (.refl l) rfl rfl (fun k _ => entries k) ?_
  rw [naming, words]

/-- A displacement of an entry beside slot `i`. -/
theorem Offerable.displace (h : Offerable allowed owed s i l)
    (youngest : takeYoungestOrdinary (s.port p).transmitter.waiting = some (d, rest)) (ne : i ≠ d.slot) :
    Offerable allowed owed (s.displace p d rest) i l := by
  have entries : ∀ q, (s.displace p d rest).entriesAt i q = s.entriesAt i q := fun q => by
    by_cases eq : q = p
    · rw [eq, entriesAt_eq, entriesAt_eq, port_displace, if_pos rfl, ((queue_displaced_perm youngest).map _).count_eq,
        List.map_cons, List.count_cons_of_ne (Ne.symm ne)]
    · rw [entriesAt_congr]
      rw [port_displace, if_neg eq]
  have naming : entriesNaming (s.displace p d rest) i = entriesNaming s i := by
    unfold entriesNaming
    rw [funext entries]
  have words : trackerWordsFor (s.displace p d rest) i = trackerWordsFor s i := by
    unfold State.displace State.depart
    rcases trackerWordsFor_announce (((s.modifyTransmitter p fun t => { t with
        queue := t.inTransmission ++ rest }).countPort p fun c =>
        { c with displacements := stoppingSucc c.displacements }).releaseRef d.slot) p d .displaced with same | ⟨told, -⟩
    · rw [same, State.releaseRef_only]
      rfl
    · rw [told, List.count_eq_zero_of_not_mem (by simpa using ne), State.releaseRef_only]
      rfl
  refine h.congr (.refl l) ?_ (State.displace_traffic ..) (fun q _ => entries q) (by rw [naming, words])
  unfold State.displace
  rw [State.slot_depart, State.slot_releaseRef_other _ ne]
  rfl

/-- The youngest ORDINARY entry stands in the queue. -/
theorem entriesAt_youngest (youngest : takeYoungestOrdinary (s.port p).transmitter.waiting = some (d, rest)) :
    s.entriesAt d.slot p ≠ 0 := by
  have mem : d ∈ (s.port p).transmitter.queue := (queue_displaced_perm youngest).mem_iff.mpr List.mem_cons_self
  rw [entriesAt_eq]
  exact (List.count_pos_iff.mpr (List.mem_map_of_mem mem)).ne'

theorem Pool.refuseAtFull (h : Pool once allowed hand owed s) : Pool once allowed hand owed (s.refuseAtFull p) :=
  h.countPort _

theorem Pool.join (h : Pool once allowed hand owed s) (o : Offerable allowed owed s e.slot (p :: l)) :
    Pool once allowed hand owed (s.joinQueue p e) := by
  refine h.joinQueue o.nameable (o.new p List.mem_cons_self) fun x mem slot single => ?_
  have := o.room x mem slot single
  rw [List.length_cons] at this
  omega

theorem Pool.offer (h : Pool once allowed hand owed s) (o : Offerable allowed owed s e.slot (p :: l)) :
    Pool once allowed hand owed (s.offer p e).1 ∧ Offerable allowed owed (s.offer p e).1 e.slot l := by
  rcases Statements.offer_cases s p e with eq | eq | eq | ⟨d, kept, youngest, eq⟩ <;> rw [eq]
  · exact ⟨h, o.skip⟩
  · exact ⟨h.join o, o.joinQueue⟩
  · exact ⟨h.refuseAtFull, o.refuseAtFull⟩
  · have ne : e.slot ≠ d.slot := fun eq => entriesAt_youngest youngest (eq ▸ o.new p List.mem_cons_self)
    have displaced := o.displace youngest ne
    exact ⟨(h.displace youngest).join displaced, displaced.joinQueue⟩

theorem Pool.offerAll (h : Pool once allowed hand owed s) (o : Offerable allowed owed s e.slot l) :
    Pool once allowed hand owed (s.offerAll e l).1 := by
  induction l generalizing s with
  | nil => exact h
  | cons p l ih =>
    obtain ⟨kept, rest⟩ := h.offer o
    exact ih kept rest

/-- What a slot that nothing names may be offered to: any ports. -/
theorem Pool.offerable (h : Pool once allowed (i :: hand) owed s) (used : (s.slot i).state = .inUse)
    (unnamed : (s.slot i).refs = 0) (distinct : l.Nodup) : Offerable allowed owed s i l := by
  have refs := (h.sound i).refs
  simp only [tallyOf, unnamed] at refs
  have held := h.heldOutside_hand
  refine ⟨distinct, ⟨used, by omega⟩, fun p _ => ?_, fun x mem slot _ => ?_⟩
  · have sum := entriesAt_le s i p
    omega
  · exact absurd (recordsNaming_ne_zero.mpr ⟨x, mem, slot⟩) (by omega)

/-- A frame built in a claimed slot and offered keeps the books. -/
theorem Pool.sendGenerated (h : Pool once allowed (i :: hand) owed s) (used : (s.slot i).state = .inUse)
    (unnamed : (s.slot i).refs = 0) (distinct : l.Nodup) :
    Pool once allowed hand owed (s.sendGenerated i frame l).1 := by
  have built : Pool once allowed (i :: hand) owed (s.modifySlot i fun f => { f with chars := frame }) :=
    h.write (by rw [used]; exact nofun) rfl rfl
  have o : Offerable allowed owed (s.modifySlot i fun f => { f with chars := frame }) i l :=
    built.offerable (by rw [State.slot_modifySlot_same]; exact used) (by rw [State.slot_modifySlot_same]; exact unnamed)
      distinct
  exact (built.offerAll (e := { band := .priority, collisions := 0, origin := .generated, slot := i }) o).letGo

/-- A generator's claim and the frame it builds there. -/
theorem Pool.claimAndSend (h : Pool once allowed [] owed s) (free : s.lowestFree = some i) (distinct : l.Nodup) :
    Pool once allowed [] owed ((s.modifySlot i fun _ => ⟨[], 0, .inUse⟩).sendGenerated i frame l).1 :=
  (h.claim (s.lowestFree_free free) (by simp) (st := .inUse) nofun).sendGenerated (by rw [State.slot_modifySlot_same])
    (by rw [State.slot_modifySlot_same]) distinct

/-! ## Withdrawals and flushes (R35, R36) -/

theorem Pool.withdrawAt (h : Pool once allowed hand owed s) : Pool once allowed hand owed (s.withdrawAt i p) := by
  refine Pool.departs _ ?_
  refine h.leave (f := fun x => { x with transmitter := restTransmitter { x.transmitter with
    queue := x.transmitter.inTransmission ++ x.transmitter.waiting.filter (·.slot != i) } }) rfl ?_
  dsimp only
  rw [(restTransmitter_keeps _).1, ← List.map_append]
  refine List.Perm.map _ ?_
  have parts : (s.port p).transmitter.waiting.Perm ((s.port p).transmitter.waiting.filter (·.slot == i) ++
      (s.port p).transmitter.waiting.filter (·.slot != i)) :=
    (List.filter_append_perm (fun e : QueueEntry => e.slot == i) _).symm
  have perm := (parts.append_left (s.port p).transmitter.inTransmission).trans
    (List.perm_append_comm_assoc (s.port p).transmitter.inTransmission ..)
  rwa [Transmitter.inTransmission_append_waiting] at perm

theorem Pool.withdraw (h : Pool once allowed hand owed s) : Pool once allowed hand owed (s.withdraw i) := by
  unfold State.withdraw
  induction allPorts generalizing s with
  | nil => exact h
  | cons p l ih => exact ih h.withdrawAt

theorem Pool.flushQueue (h : Pool once allowed hand owed s) : Pool once allowed hand owed (s.flushQueue p) := by
  refine Pool.departs _ ?_
  exact h.leave (f := fun x => { x with transmitter := { x.transmitter with queue := [] } }) rfl (by simp)

end Sys2Proof.Safety
end

section
/-! PROOFS. The events of receivers and transmitters keep the books (`Pool`). -/

namespace Sys2Proof.Safety

open Sys2Proof.Machine

variable {once : Prop} {allowed : ExchangeKey → ExchangeState → Nat} {hand owed : List SlotId} {s t : State}
  {p q : Port} {i j : SlotId} {e : QueueEntry} {rest : List QueueEntry} {st : ReceiverState} {c : Delivered}

/-! ## Slots in hand -/

/-- A receiver's slot passes into a hand. -/
theorem Tally.Sound.givenUp {c : Tally} (h : c.Sound) (held : c.receiving ≠ 0) :
    Tally.Sound { c with receiving := c.receiving - 1, hand := c.hand + 1 } := by
  have alone := h.alone
  refine ⟨h.refs, fun st => absurd (h.free st).2.1 held, fun st => ?_, fun st => absurd (h.inUse st).1 held,
    by simp only; omega, h.record, h.announced⟩
  obtain ⟨refs, waiting, -⟩ := h.filling st
  exact ⟨refs, waiting, by simp⟩

/-- A slot in hand that is FILLING becomes a receiver's. -/
theorem Tally.Sound.takenUp {c : Tally} (h : c.Sound) (held : c.hand ≠ 0) (filling : c.slot.state = .filling) :
    Tally.Sound { c with receiving := c.receiving + 1, hand := c.hand - 1 } := by
  have alone := h.alone
  obtain ⟨refs, waiting, -⟩ := h.filling filling
  exact ⟨h.refs, fun st => absurd (st.symm.trans filling) nofun, fun _ => ⟨refs, waiting, by simp⟩,
    fun st => absurd (st.symm.trans filling) nofun, by simp only; omega, h.record, h.announced⟩

/-- A slot in hand that nothing names comes into use. -/
theorem Tally.Sound.filled {c : Tally} (h : c.Sound) (held : c.hand ≠ 0) :
    Tally.Sound { c with slot := { c.slot with state := .inUse } } := by
  have alone := h.alone
  exact ⟨h.refs, nofun, nofun, fun _ => ⟨by simp only; omega, .inl (by simp only; omega), by simp only; omega⟩, h.alone,
    h.record, h.announced⟩

/-- A slot in hand that nothing names joins the input list or the input queue. -/
theorem Tally.Sound.waits {c : Tally} (h : c.Sound) (held : c.hand ≠ 0) (used : c.slot.state = .inUse)
    (unnamed : c.slot.refs = 0) : Tally.Sound { c with waiting := c.waiting + 1, hand := c.hand - 1 } := by
  have alone := h.alone
  exact ⟨h.refs, fun st => absurd (st.symm.trans used) nofun, fun st => absurd (st.symm.trans used) nofun,
    fun _ => ⟨(h.inUse used).1, .inr unnamed, by simp only; omega⟩, by simp only; omega, h.record, h.announced⟩

/-- A slot of the input list or the input queue is taken in hand. -/
theorem Tally.Sound.taken {c : Tally} (h : c.Sound) (waits : c.waiting ≠ 0) :
    Tally.Sound { c with waiting := c.waiting - 1, hand := c.hand + 1 } := by
  have alone := h.alone
  refine ⟨h.refs, fun st => absurd (h.free st).2.2 waits, fun st => absurd (h.filling st).2.1 waits, fun st => ?_,
    by simp only; omega, h.record, h.announced⟩
  obtain ⟨receiving, unnamed, -⟩ := h.inUse st
  exact ⟨receiving, by simp only; omega, by simp⟩

/-- Where one port changes and its queue does not. -/
theorem entriesNaming_of_queue {f : LinePort → LinePort}
    (queue : (f (s.port p)).transmitter.queue = (s.port p).transmitter.queue) (j : SlotId) :
    entriesNaming (s.modifyPort p f) j = entriesNaming s j :=
  entriesNaming_congr (fun q => by
    by_cases eq : q = p
    · rw [eq, State.port_modifyPort_same, queue]
    · rw [State.port_modifyPort_other s f eq]) j

/-- Where one port changes, its queue as it was, and the current slot of its receiver with it. -/
theorem tallyOf_receiver {f : LinePort → LinePort}
    (queue : (f (s.port p)).transmitter.queue = (s.port p).transmitter.queue) (hand' owed' : List SlotId) (j : SlotId) :
    tallyOf (s.modifyPort p f) hand' owed' j =
      { tallyOf s hand' owed' j with receiving := receiversOf (s.modifyPort p f) j } := by
  unfold tallyOf
  rw [entriesNaming_of_queue queue]
  rfl

theorem nodup_of_queue {f : LinePort → LinePort}
    (queue : (f (s.port p)).transmitter.queue = (s.port p).transmitter.queue) (h : Pool once allowed hand owed s) (o : once)
    (q : Port) : (((s.modifyPort p f).port q).transmitter.queue.map (·.slot)).Nodup := by
  by_cases eq : q = p
  · rw [eq, State.port_modifyPort_same, queue]; exact h.apart o p
  · rw [State.port_modifyPort_other s f eq]; exact h.apart o q

theorem Pool.giveUp (h : Pool once allowed hand owed s) {f : LinePort → LinePort}
    (had : (s.port p).receiver.currentSlot = some i) (none : (f (s.port p)).receiver.currentSlot = none)
    (queue : (f (s.port p)).transmitter.queue = (s.port p).transmitter.queue) :
    Pool once allowed (i :: hand) owed (s.modifyPort p f) := by
  have receivers : ∀ j, receiversOf (s.modifyPort p f) j + [i].count j = receiversOf s j := fun j => by
    have sum := receiversOf_of_port (s := s) (t := s.modifyPort p f) (p := p)
      (fun q ne => State.port_modifyPort_other s f ne) j
    rw [State.port_modifyPort_same, had, none] at sum
    exact sum
  refine h.of_tally (i := i) (fun j ne => ?_) ?_ h.keys (fun x mem single => ?_) (nodup_of_queue queue h)
  · have same := receivers j
    rw [List.count_eq_zero_of_not_mem (by simpa using ne), Nat.add_zero] at same
    rw [tallyOf_receiver queue, same]
    unfold tallyOf
    rw [List.count_cons_of_ne (Ne.symm ne)]
  · have less := receivers i
    rw [List.count_singleton_self] at less
    have sound := (h.sound i).givenUp (by simp only [tallyOf]; omega)
    have fewer : receiversOf (s.modifyPort p f) i = receiversOf s i - 1 := by omega
    rw [tallyOf_receiver queue, fewer]
    simpa [tallyOf] using sound
  · rw [entriesNaming_of_queue queue]
    exact h.copies x mem single

theorem Pool.takeUp (h : Pool once allowed (i :: hand) owed s) {f : LinePort → LinePort}
    (had : (s.port p).receiver.currentSlot = none) (some : (f (s.port p)).receiver.currentSlot = some i)
    (queue : (f (s.port p)).transmitter.queue = (s.port p).transmitter.queue) (filling : (s.slot i).state = .filling) :
    Pool once allowed hand owed (s.modifyPort p f) := by
  have receivers : ∀ j, receiversOf (s.modifyPort p f) j = receiversOf s j + [i].count j := fun j => by
    have sum := receiversOf_of_port (s := s) (t := s.modifyPort p f) (p := p)
      (fun q ne => State.port_modifyPort_other s f ne) j
    rw [State.port_modifyPort_same, had, some] at sum
    exact sum
  refine h.of_tally (i := i) (fun j ne => ?_) ?_ h.keys (fun x mem single => ?_) (nodup_of_queue queue h)
  · rw [tallyOf_receiver queue, receivers, List.count_eq_zero_of_not_mem (by simpa using ne)]
    unfold tallyOf
    rw [List.count_cons_of_ne (Ne.symm ne)]
    rfl
  · have sound := (h.sound i).takenUp (by simp [tallyOf]) filling
    rw [tallyOf_receiver queue, receivers, List.count_singleton_self]
    simpa [tallyOf] using sound
  · rw [entriesNaming_of_queue queue]
    exact h.copies x mem single

theorem Pool.fill (h : Pool once allowed (i :: hand) owed s) :
    Pool once allowed (i :: hand) owed (s.modifySlot i fun f => { f with state := .inUse }) := by
  refine h.of_tally (i := i) (fun j ne => ?_) ?_ h.keys h.copies h.apart
  · unfold tallyOf
    rw [State.slot_modifySlot_other s _ ne]
    rfl
  · have tally : tallyOf (s.modifySlot i fun f => { f with state := .inUse }) (i :: hand) owed i =
        { tallyOf s (i :: hand) owed i with slot := { s.slot i with state := .inUse } } := by
      unfold tallyOf
      rw [State.slot_modifySlot_same]
      rfl
    rw [tally]
    exact (h.sound i).filled (by simp [tallyOf])

/-- A state that differs in the frames of the input list and of the input queue alone. -/
def SameButWaiting (s t : State) : Prop :=
  t = { s with
    relay := { s.relay with input := t.relay.input }, management := { s.management with queue := t.management.queue } }

theorem tallyOf_waiting (only : SameButWaiting s t) (hand' owed' : List SlotId) (j : SlotId) :
    tallyOf t hand' owed' j = { tallyOf s hand' owed' j with waiting := framesWaiting t j } := by
  rw [show framesWaiting t j = framesWaiting { s with
    relay := { s.relay with input := t.relay.input }
    management := { s.management with queue := t.management.queue } } j from rfl]
  conv_lhs => rw [only]
  rfl

/-- The frame of a slot in hand joins the input list or the input queue. -/
theorem Pool.wait (h : Pool once allowed (i :: hand) owed s) (only : SameButWaiting s t)
    (more : ∀ j, framesWaiting t j = framesWaiting s j + [i].count j) (used : (s.slot i).state = .inUse)
    (unnamed : (s.slot i).refs = 0) : Pool once allowed hand owed t := by
  refine h.of_tally (i := i) (fun j ne => ?_) ?_ (by rw [only]; exact h.keys) (by rw [only]; exact h.copies)
    (by rw [only]; exact h.apart)
  · rw [tallyOf_waiting only, more, List.count_eq_zero_of_not_mem (by simpa using ne)]
    unfold tallyOf
    rw [List.count_cons_of_ne (Ne.symm ne)]
    rfl
  · have sound := (h.sound i).waits (by simp [tallyOf]) used unnamed
    rw [tallyOf_waiting only, more, List.count_singleton_self]
    simpa [tallyOf] using sound

/-- A frame of the input list or of the input queue is taken in hand. -/
theorem Pool.takeWaiting (h : Pool once allowed hand owed s) (only : SameButWaiting s t)
    (fewer : ∀ j, framesWaiting s j = framesWaiting t j + [i].count j) : Pool once allowed (i :: hand) owed t := by
  refine h.of_tally (i := i) (fun j ne => ?_) ?_ (by rw [only]; exact h.keys) (by rw [only]; exact h.copies)
    (by rw [only]; exact h.apart)
  · have same := fewer j
    rw [List.count_eq_zero_of_not_mem (by simpa using ne), Nat.add_zero] at same
    rw [tallyOf_waiting only, ← same]
    unfold tallyOf
    rw [List.count_cons_of_ne (Ne.symm ne)]
  · have less := fewer i
    rw [List.count_singleton_self] at less
    have sound := (h.sound i).taken (by simp only [tallyOf]; omega)
    have rest : framesWaiting t i = framesWaiting s i - 1 := by omega
    rw [tallyOf_waiting only, rest]
    simpa [tallyOf] using sound

/-! ## Receivers (R25, R38 to R54) -/

theorem currentSlot_of_resting {r : Receiver} (h : SlotInProgress r) (rests : r.state.frameInProgress = false) :
    r.currentSlot = none := by
  cases current : r.currentSlot with
  | none => rfl
  | some i =>
    have := h (by rw [current]; rfl)
    rw [rests] at this
    cases this

/-- A change of the receiver that leaves its current slot. -/
theorem Pool.receiver (h : Pool once allowed hand owed s) {f : Receiver → Receiver}
    (current : (f (s.port p).receiver).currentSlot = (s.port p).receiver.currentSlot) :
    Pool once allowed hand owed (s.modifyReceiver p f) :=
  h.port (f := fun x => { x with receiver := f x.receiver }) current rfl

theorem Pool.abandonFrame (h : Pool once allowed hand owed s) : Pool once allowed hand owed (s.abandonFrame p st) := by
  unfold State.abandonFrame
  dsimp only
  split
  · next i had => exact (h.giveUp (f := fun x => { x with receiver := x.receiver.withoutFrame st }) had rfl rfl).letGo
  · next none => exact h.receiver none.symm

theorem Pool.abortFrame (h : Pool once allowed hand owed s) {counter : PortCounters → PortCounters} :
    Pool once allowed hand owed (s.abortFrame p st counter) := by
  unfold State.abortFrame
  split
  · exact (h.countPort counter).abandonFrame
  · exact h.abandonFrame

/-- A frame begins in the receiver's own slot. -/
theorem Pool.beginAgain (h : Pool once allowed hand owed s) (had : (s.port p).receiver.currentSlot = some i) :
    Pool once allowed hand owed (s.beginStored p i c) := by
  have held : receiversOf s i ≠ 0 := by
    rw [Ne, receiversOf_eq_zero]; exact fun none => none p had
  have written : Pool once allowed hand owed (s.modifySlot i fun f => { f with chars := [c.character] }) :=
    h.write (fun free => held ((h.sound i).free free).2.1) rfl rfl
  exact written.receiver had.symm

/-- A frame begins in a slot claimed for it. -/
theorem Pool.beginClaimed (h : Pool once allowed (i :: hand) owed s) (none : (s.port p).receiver.currentSlot = none)
    (filling : (s.slot i).state = .filling) : Pool once allowed hand owed (s.beginStored p i c) := by
  have written : Pool once allowed (i :: hand) owed (s.modifySlot i fun f => { f with chars := [c.character] }) :=
    h.write (by rw [filling]; exact nofun) rfl rfl
  exact written.takeUp (f := fun x => { x with receiver := { x.receiver with
    checkRegister := checkTake 0xFFFF c.value, currentSlot := some i, gap := 0, length := .none, noiseSeen := c.noise
    position := 1, shedding := false, state := .header } }) none rfl rfl (by rw [State.slot_modifySlot_same]; exact filling)

theorem Pool.beginFrame (h : Pool once allowed [] owed s) (none : (s.port p).receiver.currentSlot = none) :
    Pool once allowed [] owed (s.beginFrame p c) := by
  unfold State.beginFrame
  split
  · next i u claimed =>
    unfold State.claimForReceiver at claimed
    split at claimed
    · obtain ⟨k, free, eq⟩ := Option.map_eq_some_iff.mp claimed
      cases eq
      exact (h.claim (s.lowestFree_free free) (by simp) (st := .filling) nofun).beginClaimed none
        (by rw [State.slot_modifySlot_same])
    · cases claimed
  · exact (h.countPort _).receiver (by rw [State.port_countPort_same]; exact none.symm)

theorem Pool.huntCharacter (h : Pool once allowed [] owed s) (none : (s.port p).receiver.currentSlot = none) :
    Pool once allowed [] owed (s.huntCharacter p c) := by
  unfold State.huntCharacter
  split
  · exact h.countPort _
  · exact h.beginFrame none

theorem Pool.completeFrame (h : Pool once allowed hand owed s) (had : (s.port p).receiver.currentSlot = some i) :
    Pool once allowed hand owed (s.completeFrame p i) := by
  have held : receiversOf s i ≠ 0 := by
    rw [Ne, receiversOf_eq_zero]; exact fun none => none p had
  have unnamed : (s.slot i).refs = 0 := (h.sound i).unnamed_of_held (by simp only [tallyOf]; omega)
  have counted := h.countPort (p := p) fun k =>
    { k with
      goodFrames := stoppingSucc k.goodFrames
      noisyAccepted := if (s.port p).receiver.noiseSeen then stoppingSucc k.noisyAccepted else k.noisyAccepted }
  have filled := (counted.giveUp (p := p) (i := i) (f := fun x => { x with receiver := x.receiver.withoutFrame .hunt })
    (by rw [State.port_countPort_same]; exact had) rfl rfl).fill
  refine filled.wait rfl (fun j => ?_) ?_ ?_
  · show (((s.relay.input ++ [_]).map fun h : HeldFrame => h.slot).count j) + _ = _
    rw [List.map_append, List.count_append]
    show _ + [i].count j + (s.management.queue.map (·.slot)).count j = _
    exact Nat.add_right_comm ..
  · rw [State.slot_modifySlot_same]
  · rw [State.slot_modifySlot_same]
    exact unnamed

theorem Pool.endFrame (h : Pool once allowed hand owed s) : Pool once allowed hand owed (s.endFrame p) := by
  unfold State.endFrame
  split
  · next had =>
    split
    · exact h.completeFrame had
    · exact (h.countPort _).abandonFrame
  · exact h.abandonFrame

theorem Pool.storeCharacter (h : Pool once allowed hand owed s) : Pool once allowed hand owed (s.storeCharacter p c) := by
  unfold State.storeCharacter
  dsimp only
  split
  · next i had =>
    have held : receiversOf s i ≠ 0 := by
      rw [Ne, receiversOf_eq_zero]; exact fun none => none p had
    have written : Pool once allowed hand owed (s.modifySlot i fun f => { f with chars := f.chars ++ [c.character] }) :=
      h.write (fun free => held ((h.sound i).free free).2.1) rfl rfl
    exact written.receiver rfl
  · exact h.receiver rfl

theorem Pool.afterCharacter {n : Nat} (h : Pool once allowed hand owed s) :
    Pool once allowed hand owed (s.afterCharacter p n c) := by
  unfold State.afterCharacter
  dsimp only
  split
  · split
    · exact h
    · split
      · exact h.abortFrame
      · exact h.receiver rfl
  · split
    · exact h
    · exact h.receiver rfl
  · split
    · exact h
    · exact h.endFrame
  all_goals exact h

theorem Pool.frameCharacter (h : Pool once allowed [] owed s) : Pool once allowed [] owed (s.frameCharacter p c) := by
  unfold State.frameCharacter
  split
  · refine Pool.huntCharacter h.abortFrame ?_
    unfold State.abortAtGap
    rw [receiver_abortFrame]
    rfl
  · split
    · exact h.abortFrame
    · split
      · split
        · next had => exact (h.countPort _).beginAgain (by rw [State.port_countPort_same]; exact had)
        · next none => exact h.beginFrame none
      · exact h.storeCharacter.afterCharacter

/-! ## Transmitters (R59 to R76) -/

theorem collided_slots (t : Transmitter) : t.collided.queue.map (·.slot) = t.queue.map (·.slot) := by
  unfold Transmitter.collided
  split
  · next head =>
    split <;> simp [head]
  · rfl

theorem Pool.collide (h : Pool once allowed hand owed s) : Pool once allowed hand owed (s.collide p) :=
  (h.countPort _).transmitter (collided_slots _)

/-- The head leaves the queue of a port whose receiver has no slot. -/
theorem Pool.headLeaves {m : Manner} (h : Pool once allowed hand owed s) {f : LinePort → LinePort}
    (before : (s.port p).receiver.currentSlot = none) (after : (f (s.port p)).receiver.currentSlot = none)
    (head : (s.port p).transmitter.queue = e :: rest) (queue : (f (s.port p)).transmitter.queue = rest) :
    Pool once allowed hand owed ((s.modifyPort p f).depart p m e) :=
  Pool.depart (h.leave (gone := [e.slot]) (after.trans before.symm) (by rw [head, queue]; exact .refl _))

theorem Pool.completeSending (h : Pool once allowed hand owed s) (none : (s.port p).receiver.currentSlot = none)
    (head : (s.port p).transmitter.queue = e :: rest) : Pool once allowed hand owed (s.completeSending p e rest) := by
  refine (h.countPort _).headLeaves ?_ rfl (rest := rest) ?_ rfl <;> rw [State.port_countPort_same]
  · exact none
  · exact head

theorem Pool.echoCharacter (h : Pool once allowed hand owed s) (none : (s.port p).receiver.currentSlot = none) :
    Pool once allowed hand owed (s.echoCharacter p c) := by
  unfold State.echoCharacter
  dsimp only
  split
  · split
    · exact h.collide
    · split
      · split
        · unfold State.goodEcho
          dsimp only
          split
          · next head =>
            split
            · exact h.completeSending none head
            · exact h.transmitter rfl
          · exact h.transmitter rfl
        · exact h.collide
      · exact h.collide
  · exact h

theorem Pool.receive (h : Pool once allowed [] owed s) (slot : SlotInProgress (s.port p).receiver) :
    Pool once allowed [] owed (s.receive p c) := by
  unfold State.receive
  split
  · exact h
  · exact h
  · next hunt => exact h.huntCharacter (currentSlot_of_resting slot (by rw [hunt]; rfl))
  · exact h.frameCharacter
  · exact h.frameCharacter
  · exact h.frameCharacter
  · next echo => exact h.echoCharacter (currentSlot_of_resting slot (by rw [echo]; rfl))

theorem Pool.deliverCharacter (h : Pool once allowed [] owed s) (slot : SlotInProgress (s.port p).receiver) :
    Pool once allowed [] owed (deliverCharacter p s) := by
  unfold Machine.deliverCharacter
  split
  · refine Pool.receive ?_ (by rw [State.port_modifyFramer_same]; exact slot)
    exact h.port (f := fun x => { x with framer := { x.framer with assembling := false } }) rfl rfl
  · exact h

theorem Pool.judgeLevel (h : Pool once allowed hand owed s) : Pool once allowed hand owed (judgeLevel p s) := by
  have same : ∀ x : LinePort, ∀ l, (x.levelChanged l).receiver.currentSlot = x.receiver.currentSlot ∧
      (x.levelChanged l).transmitter.queue = x.transmitter.queue := fun x l => by
    cases l <;> exact ⟨rfl, rfl⟩
  refine h.port ?_ ?_
  · split
    · rfl
    · exact (same ..).1
  · split
    · rfl
    · rw [(same ..).2]

theorem Pool.abortByGap (h : Pool once allowed hand owed s) : Pool once allowed hand owed (abortByGap p s) := by
  unfold Machine.abortByGap
  split
  · exact h.abortFrame
  · exact h

theorem Pool.leaveResync (h : Pool once allowed hand owed s) (slot : SlotInProgress (s.port p).receiver) :
    Pool once allowed hand owed (leaveResync p s) := by
  unfold Machine.leaveResync
  dsimp only
  split
  · next resync => exact h.receiver (currentSlot_of_resting slot (by rw [resync.1]; rfl)).symm
  · exact h

theorem Pool.raiseStuck (h : Pool once allowed hand owed s) : Pool once allowed hand owed (raiseStuck p s) := by
  unfold Machine.raiseStuck
  dsimp only
  split
  · exact ((h.countPort (p := p) _).receiver (p := p) (f := fun r => { r with stuckRaised := true }) rfl).congr rfl
  · exact h

theorem Pool.startSending (h : Pool once allowed hand owed s) (slot : SlotInProgress (s.port p).receiver) :
    Pool once allowed hand owed (startSending p s) := by
  unfold Machine.startSending
  split
  · next may =>
    simp only [State.maySend, Bool.and_eq_true, beq_iff_eq] at may
    obtain ⟨⟨-, hunts⟩, -⟩ := may
    split
    · refine h.port (currentSlot_of_resting slot (by rw [hunts]; rfl)).symm ?_
      dsimp only
      rw [(sendNext_keeps ..).2.1]
    · exact h
  · exact h

theorem Pool.finishCharacter (h : Pool once allowed hand owed s) : Pool once allowed hand owed (finishCharacter p s) := by
  unfold Machine.finishCharacter
  dsimp only
  split
  · split
    · exact h.collide
    · split
      · refine h.transmitter ?_
        rw [(sendNext_keeps ..).2.1]
      · exact h
  · exact h

theorem Pool.missEcho (h : Pool once allowed hand owed s) : Pool once allowed hand owed (missEcho p s) := by
  unfold Machine.missEcho
  dsimp only
  split
  · exact h.collide
  · exact h

/-- The queue after a jam, and the receiver's slot. -/
theorem jamEnded_keeps (x : LinePort) (queue : List QueueEntry) :
    (x.jamEnded queue).transmitter.queue = queue ∧ (x.jamEnded queue).receiver.currentSlot = none := by
  unfold LinePort.jamEnded
  exact ⟨by rw [(afterJam_keeps ..).1], rfl⟩

theorem Pool.endJam (h : Pool once allowed hand owed s) (halves : HalvesAgree s.phase (s.port p)) :
    Pool once allowed hand owed (endJam p s) := by
  unfold Machine.endJam
  dsimp only
  split
  · next jam =>
    have echo := halves.echo.mp (.inr jam.1)
    have none := currentSlot_of_resting halves.slot (by rw [echo]; rfl)
    split
    · next e rest _ head =>
      refine (h.countPort _).headLeaves ?_ (jamEnded_keeps ..).2 (rest := rest) ?_ (jamEnded_keeps ..).1 <;>
        rw [State.port_countPort_same]
      · exact none
      · exact head
    · refine h.leave (gone := []) ((jamEnded_keeps ..).2.trans none.symm) ?_
      rw [(jamEnded_keeps ..).1]
      exact (replacedHead_perm _).symm.map _
  · exact h

theorem Pool.endBackoff (h : Pool once allowed hand owed s) : Pool once allowed hand owed (endBackoff p s) := by
  unfold Machine.endBackoff
  split
  · split
    · exact h.port rfl rfl
    · exact h
  · exact h

end Sys2Proof.Safety
end

section
/-! PROOFS. Port Control and restarts keep the books (`Pool`). -/

namespace Sys2Proof.Safety

open Sys2Proof.Machine

variable {once : Prop} {allowed : ExchangeKey → ExchangeState → Nat} {hand owed : List SlotId} {s t : State}
  {p q : Port} {i j : SlotId} {e : QueueEntry} {st : ReceiverState} {a : AdminState} {c : RateCode}

/-- Notices, counters and reports asked for are nothing to the books. -/
theorem Pool.raise (h : Pool once allowed hand owed s) (kind : NoticeKind) (subject detail : Byte) :
    Pool once allowed hand owed (s.raise kind subject detail) := h.congr rfl

theorem Pool.count (h : Pool once allowed hand owed s) (f : RelayCounters → RelayCounters) :
    Pool once allowed hand owed (s.count f) := h.congr rfl

theorem Pool.askReport (h : Pool once allowed hand owed s) (reason : ReportReason) (key : ExchangeKey) (p : Port) :
    Pool once allowed hand owed (s.askReport reason key p) := h.congr rfl

/-! ## Going down and coming up (R128, R129) -/

theorem Pool.stopReceiver (h : Pool once allowed hand owed s) : Pool once allowed hand owed (s.stopReceiver p) :=
  h.abandonFrame.receiver (by rw [receiver_abandonFrame]; rfl)

theorem Pool.goDown (h : Pool once allowed hand owed s) : Pool once allowed hand owed (s.goDown p a) := by
  have stopped : Pool once allowed hand owed (s.modifyPort p fun x =>
      { x with record := { x.record with admin := a }, transmitter := x.transmitter.stopped }) := h.port rfl rfl
  exact (Pool.flushQueue (p := p) (stopped.stopReceiver (p := p))).congr rfl

theorem currentSlot_of_off {phase : Phase} {x : LinePort} (h : HalvesAgree phase x)
    (off : x.record.admin.isDown = true ∨ phase ≠ .inService) : x.receiver.currentSlot = none :=
  currentSlot_of_resting h.slot (by rw [h.both.mpr (h.off.mpr off)]; rfl)

theorem Pool.comeUp (h : Pool once allowed hand owed s) (halves : HalvesAgree s.phase (s.port p))
    (down : (s.admin p).isDown = true) : Pool once allowed hand owed (s.comeUp p a) :=
  h.port (currentSlot_of_off halves (.inl down)).symm rfl

theorem Pool.setPortState (h : Pool once allowed hand owed s) (halves : HalvesAgree s.phase (s.port p)) :
    Pool once allowed hand owed (s.setPortState p a) := by
  have up : ∀ b b', s.admin p = b → b.isDown = true → Pool once allowed hand owed (s.comeUp p b') :=
    fun b b' admin down => h.comeUp halves (by rw [admin]; exact down)
  unfold State.setPortState
  split
  · exact h.port rfl (by rw [(held_keeps _).1])
  · exact h.port rfl (by rw [(wakeTransmitter_keeps ..).1])
  · exact h.goDown
  · exact h.goDown
  · next admin => exact up _ _ admin rfl
  · next admin => exact up _ _ admin rfl
  · next admin => exact up _ _ admin rfl
  · next admin => exact up _ _ admin rfl
  · exact h.recordOf _
  all_goals exact h

theorem Pool.takeStuckLine (h : Pool once allowed hand owed s) : Pool once allowed hand owed (takeStuckLine p s) := by
  unfold Machine.takeStuckLine
  split
  · have taken : Pool once allowed hand owed (s.modifyWords fun w => { w with stuckLine := w.stuckLine.erase p }) :=
      h.congr rfl
    dsimp only
    split
    · exact taken
    · exact (Pool.recordOf (taken.goDown (p := p) (a := .isolated)) _).raise ..
  · exact h

theorem Pool.recoverPort (h : Pool once allowed hand owed s) (halves : HalvesAgree s.phase (s.port p)) :
    Pool once allowed hand owed (recoverPort p s) := by
  unfold Machine.recoverPort
  split
  · next isolated _ =>
    split
    · exact (h.comeUp halves (by rw [isolated]; rfl)).congr rfl
    · exact h
  · exact h

/-! ## Rates (R134 to R138) -/

theorem Pool.rateAtReceiver (h : Pool once allowed hand owed s) (slot : SlotInProgress (s.port p).receiver) :
    Pool once allowed hand owed (s.rateAtReceiver p) := by
  have resync : (s.port p).receiver.state.frameInProgress = false → Pool once allowed hand owed
      (s.modifyReceiver p fun r => { r.withoutFrame .resync with spaceInterval := 0 }) :=
    fun rests => h.receiver (currentSlot_of_resting slot rests).symm
  unfold State.rateAtReceiver
  split
  · exact h
  · exact h.receiver rfl
  · next hunt => exact resync (by rw [hunt]; rfl)
  · next state => exact resync (by rw [state]; rfl)
  all_goals exact h.abortFrame.receiver rfl

theorem Pool.rateAtTransmitter (h : Pool once allowed hand owed s) : Pool once allowed hand owed (s.rateAtTransmitter p) := by
  unfold State.rateAtTransmitter
  split
  · exact h
  · exact h.transmitter rfl
  · exact h.transmitter rfl
  · exact h.collide.transmitter rfl
  · exact h.transmitter rfl
  · exact h.transmitter rfl

theorem Pool.applyRate (h : Pool once allowed hand owed s) (slot : SlotInProgress (s.port p).receiver) :
    Pool once allowed hand owed (s.applyRate p c) := by
  have framed : Pool once allowed hand owed (s.modifyPort p fun x =>
      { x with framer := x.framer.atRate, record := { x.record with currentRate := c } }) := h.port rfl rfl
  have clocks : Pool once allowed hand owed (clocked s p c) := framed.congr rfl
  rw [applyRate_eq]
  exact (clocks.rateAtReceiver (by rw [port_clocked, if_pos rfl]; exact slot)).rateAtTransmitter

theorem Pool.openWindow {seconds : Nat} (h : Pool once allowed hand owed s) (slot : SlotInProgress (s.port p).receiver) :
    Pool once allowed hand owed (s.openWindow p c seconds) := (h.applyRate slot).recordOf _

theorem Pool.takeRateReply (h : Pool once allowed hand owed s) (slot : SlotInProgress (s.port p).receiver) :
    Pool once allowed hand owed (takeRateReply p s) := by
  unfold Machine.takeRateReply
  dsimp only
  split
  · have taken : Pool once allowed hand owed (s.modifyWords fun w => { w with rateReplies := w.rateReplies.erase p }) :=
      h.congr rfl
    split
    · exact taken.openWindow slot
    · exact taken
    · exact taken
  · exact h

theorem Pool.expireWindow (h : Pool once allowed hand owed s) (slot : SlotInProgress (s.port p).receiver) :
    Pool once allowed hand owed (expireWindow p s) := by
  unfold Machine.expireWindow
  split
  · exact ((h.applyRate slot).recordOf _).raise ..
  all_goals exact h

/-! ## Restarts and service (R161 to R165) -/

/-- A state in which nothing names or holds a slot, and every slot is empty, has agreeing books. -/
theorem Pool.cleared (slots : ∀ i, s.slot i = Slot.empty) (queues : ∀ p, (s.port p).transmitter.queue = [])
    (currents : ∀ p, (s.port p).receiver.currentSlot = none) (input : s.relay.input = [])
    (requests : s.management.queue = []) (exchanges : s.exchanges = []) (announced : s.words.tracker = []) :
    Pool once allowed [] [] s := by
  have entries : ∀ i, entriesNaming s i = 0 := fun i => by
    simp only [entriesNaming, funext fun p => entriesAt_eq s i p, queues]
    rfl
  have receivers : ∀ i, receiversOf s i = 0 := fun i => by simp [receiversOf, currents]
  refine ⟨fun i => ?_, by simp [KeysDistinct, exchanges], by simp [exchanges], by simp [queues]⟩
  have tally : tallyOf s [] [] i = ⟨Slot.empty, 0, 0, 0, 0, 0, 0, 0⟩ := by
    simp [tallyOf, slots, entries, receivers, recordsNaming, framesWaiting, trackerWordsFor, input, requests, exchanges,
      announced]
  rw [tally]
  exact ⟨rfl, fun _ => ⟨rfl, rfl, rfl⟩, nofun, nofun, Nat.zero_le 1, Nat.zero_le 1, fun some => absurd rfl some⟩

theorem slot_replicate (i : SlotId) : (Vector.replicate 48 Slot.empty)[i] = Slot.empty := by simp

theorem pool_coldStarted (causes : ResetCauses) (resetHigh : Bool) :
    Pool once allowed [] [] (s.coldStarted causes resetHigh) := by
  have port : ∀ p, (s.coldStarted causes resetHigh).port p = .reset (backoffSeeds.get p) := fun p => Four.get_map ..
  exact .cleared (fun i => slot_replicate i) (fun p => by rw [port]; rfl) (fun p => by rw [port]; rfl) rfl rfl rfl rfl

theorem pool_beginFlush : Pool once allowed [] [] (beginFlush s) := by
  have port : ∀ p, (beginFlush s).port p = (s.port p).flushed (backoffSeeds.get p) := fun p => Four.get_zipWith ..
  exact .cleared (fun i => slot_replicate i) (fun p => by rw [port]; rfl) (fun p => by rw [port]; rfl) rfl rfl rfl rfl

theorem Pool.takeRestart (h : Pool once allowed [] [] s) : Pool once allowed [] [] s.takeRestart := by
  unfold State.takeRestart
  split
  · split
    · exact pool_beginFlush
    · exact pool_coldStarted ..
  · exact h

theorem Pool.expireRestart (h : Pool once allowed [] [] s) : Pool once allowed [] [] (expireRestart s) := by
  unfold Machine.expireRestart
  split
  · split
    · exact h.takeRestart
    · exact h
  · exact h

/-- Ports come up with receivers that have no slot. -/
theorem Pool.enterService (h : Pool once allowed hand owed s) (empty : ∀ p, (s.port p).receiver.currentSlot = none) :
    Pool once allowed hand owed s.enterService := by
  have port : ∀ p, s.enterService.port p = (s.port p).enterService := fun p => Four.get_map ..
  have keeps : ∀ x : LinePort, x.receiver.currentSlot = none →
      x.enterService.transmitter.queue = x.transmitter.queue ∧ x.enterService.receiver.currentSlot = none := fun x none => by
    unfold LinePort.enterService
    split
    · exact ⟨rfl, none⟩
    · exact ⟨rfl, rfl⟩
  refine h.congr ?_
  have queues : (fun p => (s.enterService.port p).transmitter.queue.map (·.slot)) =
      fun p => (s.port p).transmitter.queue.map (·.slot) := funext fun p => by rw [port, (keeps _ (empty p)).1]
  have currents : (fun p => (s.enterService.port p).receiver.currentSlot) = fun p => (s.port p).receiver.currentSlot :=
    funext fun p => by rw [port, (keeps _ (empty p)).2, empty]
  unfold books
  rw [queues, currents]
  rfl

theorem Pool.endFlush (h : Pool once allowed hand owed s) (halves : PortsCoherent s) :
    Pool once allowed hand owed (endFlush s) := by
  unfold Machine.endFlush
  split
  · next flushed =>
    exact h.enterService fun p => currentSlot_of_off ((portsCoherent_iff s).mp halves p) (.inr (by rw [flushed]; exact nofun))
  · exact h

theorem Pool.endOfStartUp (h : Pool once allowed hand owed s) (empty : ∀ p, (s.port p).receiver.currentSlot = none) :
    Pool once allowed hand owed s.endOfStartUp := by
  unfold State.endOfStartUp
  split
  · exact h.enterService empty
  · exact (h.enterService empty).congr rfl

theorem Pool.endLoad (h : Pool once allowed hand owed s) (empty : ∀ p, (s.port p).receiver.currentSlot = none)
    (status : ImageStatus) : Pool once allowed hand owed (s.endLoad status) := by
  have ended : Pool once allowed hand owed
      (({ s.endPass with pins := { s.endPass.pins with sclkRuns := false } }).modifyLoader fun l =>
        { l with status := status, state := .done }) := h.congr rfl
  exact ended.endOfStartUp empty

theorem Pool.releaseReset (h : Pool once allowed hand owed s) (halves : PortsCoherent s) (cfgen : Bool) :
    Pool once allowed hand owed (releaseReset cfgen s) := by
  unfold Machine.releaseReset
  split
  · next reset =>
    dsimp only
    split
    · exact h.congr rfl
    · have released : Pool once allowed hand owed
          { s with pins := { s.pins with resetHigh := true, cfgen := cfgen } } := h.congr rfl
      exact released.endOfStartUp fun p =>
        currentSlot_of_off ((portsCoherent_iff s).mp halves p) (.inr (by rw [reset]; exact nofun))
  · exact h

/-! ## One REFCLK cycle -/

theorem Pool.advance (h : Pool once allowed hand owed s) : Pool once allowed hand owed s.advance := by
  refine h.congr ?_
  have queues : (fun p => (s.advance.port p).transmitter.queue.map (·.slot)) =
      fun p => (s.port p).transmitter.queue.map (·.slot) := funext fun p => by rw [port_advance]; rfl
  have currents : (fun p => (s.advance.port p).receiver.currentSlot) = fun p => (s.port p).receiver.currentSlot :=
    funext fun p => by rw [port_advance]; rfl
  have records : s.advance.exchanges.map bookedRecord = s.exchanges.map bookedRecord :=
    (List.map_map ..).trans rfl
  have words : s.advance.words.tracker.map (·.slot) = s.words.tracker.map (·.slot) := (List.map_map ..).trans rfl
  unfold books
  rw [queues, currents, records, words]
  rfl

theorem Pool.tick (h : Pool once allowed hand owed s) : Pool once allowed hand owed (tick s) := by
  unfold Machine.tick
  split
  · exact h
  · exact h.advance

end Sys2Proof.Safety
end

section
/-! PROOFS. The Exchange Tracker keeps the books (`Pool`): closures, announcements taken, expiries and the port-down word. -/

namespace Sys2Proof.Safety

open Sys2Proof.Machine

variable {once : Prop} {allowed allowed' : ExchangeKey → ExchangeState → Nat} {hand owed : List SlotId} {s t : State}
  {p q : Port} {i j : SlotId} {e : QueueEntry} {x y : Exchange} {c : Closure} {k : ExchangeKey} {m : Manner} {n : Nat}
  {d : AgedDeparture}

/-! ## Records of the table -/

theorem Pool.records_nodup (h : Pool once allowed hand owed s) : (s.exchanges.map (·.slot)).Nodup :=
  List.nodup_iff_count_le_one.mpr fun i => by rw [← recordsNaming_eq]; exact (h.sound i).record

/-- A slot is named by one record. -/
theorem Pool.record_unique (h : Pool once allowed hand owed s) (hx : x ∈ s.exchanges) (hy : y ∈ s.exchanges)
    (slot : y.slot = x.slot) : y = x := List.inj_on_of_nodup_map h.records_nodup hy hx slot

theorem Pool.key_unique (h : Pool once allowed hand owed s) (hx : x ∈ s.exchanges) (hy : y ∈ s.exchanges)
    (key : y.key = x.key) : y = x :=
  List.inj_on_of_nodup_map (List.pairwise_map.mpr h.keys : (s.exchanges.map (·.key)).Nodup) hy hx key

/-- The slot of an open exchange may be named by further entries. -/
theorem Pool.nameable_of_record (h : Pool once allowed hand owed s) (hx : x ∈ s.exchanges) : Nameable s x.slot := by
  have sound := h.sound x.slot
  have refs := sound.refs
  have recorded : recordsNaming s x.slot ≠ 0 := recordsNaming_ne_zero.mpr ⟨x, hx, rfl⟩
  simp only [tallyOf] at refs
  have used := sound.not_free (by simp only [tallyOf]; omega)
  refine ⟨used, ((sound.inUse used).2.1).resolve_right ?_⟩
  simp only [tallyOf]
  omega

/-- More copies may be allowed. -/
theorem Pool.allow (h : Pool once allowed hand owed s) (more : ∀ k st, allowed k st ≤ allowed' k st) :
    Pool once allowed' hand owed s :=
  ⟨h.sound, h.keys, fun x mem single => (h.copies x mem single).trans (more ..), h.apart⟩

/-- What is read from a state that differs in its exchanges and its words alone. -/
theorem tallyOf_exchanges (only : t = { s with exchanges := t.exchanges, words := t.words }) (hand' owed' : List SlotId)
    (j : SlotId) : tallyOf t hand' owed' j =
      { tallyOf s hand' owed' j with records := recordsNaming t j, announced := trackerWordsFor t j } := by
  conv_lhs => rw [only]
  unfold tallyOf recordsNaming trackerWordsFor
  rw [only]
  rfl

/-! ## Closures (R114) -/

/-- A record that leaves the table owes its reference, and its announcements go with it. -/
theorem Tally.Sound.closed {c : Tally} (h : c.Sound) (recorded : c.records ≠ 0) :
    Tally.Sound { c with records := c.records - 1, owed := c.owed + 1, announced := 0 } := by
  have refs := h.refs
  have one := h.record
  exact ⟨by simp only; omega, h.free, h.filling, h.inUse, h.alone, by simp only; omega, fun some => absurd rfl some⟩

theorem Pool.drop (h : Pool once allowed hand owed s) (hx : x ∈ s.exchanges) :
    Pool once allowed hand (x.slot :: owed) ((s.dropRecord x).modifyWords (c.words x)) := by
  obtain ⟨pre, post, place⟩ := List.append_of_mem hx
  have keys := h.keys
  unfold KeysDistinct at keys
  rw [place] at keys
  have left : ((s.dropRecord x).modifyWords (c.words x)).exchanges = pre ++ post := by
    show s.exchanges.eraseP _ = _
    rw [place, Statements.eraseP_of_distinct keys]
  have fewer : ∀ i, recordsNaming s i = recordsNaming ((s.dropRecord x).modifyWords (c.words x)) i + [x.slot].count i := by
    intro i
    rw [recordsNaming_eq, recordsNaming_eq, left, place, List.map_append, List.map_append, List.map_cons,
      List.count_append, List.count_append, List.count_cons, List.count_singleton]
    omega
  have words : ∀ i, trackerWordsFor ((s.dropRecord x).modifyWords (c.words x)) i =
      if i = x.slot then 0 else trackerWordsFor s i := fun i => by
    show (s.words.tracker.filter (·.slot != x.slot)).countP (·.slot == i) = _
    rw [List.countP_filter]
    by_cases eq : i = x.slot
    · rw [if_pos eq, List.countP_eq_zero]
      intro d _
      simp [eq]
    · rw [if_neg eq]
      refine List.countP_congr fun d _ => ?_
      simp only [Bool.and_eq_true, beq_iff_eq, bne_iff_ne]
      exact ⟨And.left, fun slot => ⟨slot, slot ▸ eq⟩⟩
  have recorded : recordsNaming s x.slot ≠ 0 := recordsNaming_ne_zero.mpr ⟨x, hx, rfl⟩
  refine h.of_tally (i := x.slot) (fun j ne => ?_) ?_ ?_ (fun y mem single => ?_) h.apart
  · have same := fewer j
    rw [List.count_eq_zero_of_not_mem (by simpa using ne), Nat.add_zero] at same
    rw [tallyOf_exchanges (s := s) rfl, words, if_neg ne, ← same]
    unfold tallyOf
    rw [List.count_cons_of_ne (Ne.symm ne)]
  · have less := fewer x.slot
    rw [List.count_singleton_self] at less
    have gone : recordsNaming ((s.dropRecord x).modifyWords (c.words x)) x.slot = recordsNaming s x.slot - 1 := by omega
    have sound := (h.sound x.slot).closed recorded
    rw [tallyOf_exchanges (s := s) rfl, words, if_pos rfl, gone]
    simpa [tallyOf] using sound
  · unfold KeysDistinct
    rw [left]
    exact keys.sublist ((List.sublist_cons_self x post).append_left pre)
  · have before : y ∈ s.exchanges := List.mem_of_mem_eraseP mem
    have ne : y.slot ≠ x.slot := fun slot => by
      have gone := fewer x.slot
      have one := (h.sound x.slot).record
      simp only [tallyOf] at one
      rw [List.count_singleton_self] at gone
      exact absurd (recordsNaming_ne_zero.mpr ⟨y, mem, slot⟩) (by omega)
    rw [words, if_neg ne, List.count_cons_of_ne (Ne.symm ne)]
    exact h.copies y before single

theorem Pool.closeExchange (h : Pool once allowed hand owed s) (hx : x ∈ s.exchanges) :
    Pool once allowed hand owed (s.closeExchange x c) := by
  have released : Pool once allowed hand owed
      (((((s.dropRecord x).modifyWords (c.words x)).withdraw x.slot).releaseRef x.slot).count c.count) :=
    (Pool.releaseRef (Pool.withdraw (i := x.slot) (h.drop (c := c) hx))).count _
  unfold State.closeExchange
  dsimp only
  split
  · exact released.askReport ..
  · exact released

/-! ## Records changed -/

/-- A change of the records of one key that leaves their key and slot. -/
theorem Pool.modifyExchange (h : Pool once allowed hand owed s) {f : Exchange → Exchange} (key : ∀ y, (f y).key = y.key)
    (slot : ∀ y, (f y).slot = y.slot)
    (others : ∀ y ∈ s.exchanges, y.key ≠ k → allowed y.key y.state ≤ allowed' y.key y.state)
    (here : ∀ y ∈ s.exchanges, y.key = k → (f y).responderPort ≠ .flooded →
      entriesNaming s y.slot + trackerWordsFor s y.slot + owed.count y.slot ≤ allowed' y.key (f y).state) :
    Pool once allowed' hand owed (s.modifyExchange k f) := by
  have keys : ∀ y : Exchange, (if y.key = k then f y else y).key = y.key := fun y => by split <;> simp [key]
  have slots : ∀ y : Exchange, (if y.key = k then f y else y).slot = y.slot := fun y => by split <;> simp [slot]
  have naming : ∀ i, recordsNaming (s.modifyExchange k f) i = recordsNaming s i := fun i => by
    rw [recordsNaming_eq, recordsNaming_eq]
    show ((s.exchanges.map fun y => if y.key = k then f y else y).map (·.slot)).count i = _
    rw [List.map_map]
    congr 2
    exact funext slots
  refine ⟨fun i => ?_, List.pairwise_map.mpr (h.keys.imp fun apart => by rwa [keys, keys]), fun z mem single => ?_,
    h.apart⟩
  · rw [tallyOf_exchanges rfl, naming]
    exact h.sound i
  · obtain ⟨y, hy, rfl⟩ := List.mem_map.mp mem
    rw [slots, keys]
    by_cases eq : y.key = k
    · rw [if_pos eq] at single ⊢
      exact here y hy eq single
    · rw [if_neg eq] at single ⊢
      exact (h.copies y hy single).trans (others y hy eq)

/-! ## Announcements taken (R115, R120, R121) -/

theorem trackerWordsFor_erase (mem : d ∈ s.words.tracker) (i : SlotId) : trackerWordsFor s i =
    trackerWordsFor (s.modifyWords fun w => { w with tracker := w.tracker.erase d }) i + [d.slot].count i := by
  rw [trackerWordsFor_eq, trackerWordsFor_eq, ((List.perm_cons_erase mem).map _).count_eq, List.map_cons, List.count_cons,
    List.count_singleton]
  rfl

theorem Pool.takeWord (h : Pool once allowed hand owed s) (mem : d ∈ s.words.tracker) :
    Pool once allowed hand owed (s.modifyWords fun w => { w with tracker := w.tracker.erase d }) := by
  have fewer := trackerWordsFor_erase mem
  refine ⟨fun i => ?_, h.keys, fun y hy single => ?_, h.apart⟩
  · have sound := h.sound i
    rw [tallyOf_words rfl]
    refine ⟨sound.refs, sound.free, sound.filling, sound.inUse, sound.alone, sound.record, fun some => sound.announced ?_⟩
    have := fewer i
    simp only [tallyOf] at some ⊢
    omega
  · have bound := h.copies y hy single
    have := fewer y.slot
    have entries : entriesNaming (s.modifyWords fun w => { w with tracker := w.tracker.erase d }) y.slot =
      entriesNaming s y.slot := rfl
    omega

/-- What the tracker has taken: the oldest word for the slot, and the slot's record. -/
theorem Pool.takeTrackerWord (h : Pool once allowed hand owed s) (taken : s.takeTrackerWord i m = some (x, n, t)) :
    Pool once allowed hand owed t ∧ x ∈ t.exchanges ∧
      (x.responderPort ≠ .flooded →
        entriesNaming t x.slot + trackerWordsFor t x.slot + owed.count x.slot + 1 ≤ allowed x.key x.state) := by
  obtain ⟨d, found, -, -, record, rfl⟩ := s.takeTrackerWord_some taken
  have mem : d ∈ s.words.tracker := List.mem_of_find?_eq_some found
  have hx : x ∈ s.exchanges := List.mem_of_find?_eq_some record
  have slot : d.slot = x.slot := by
    have at_d := List.find?_some found
    have at_x := List.find?_some record
    simp only [beq_iff_eq] at at_d at_x
    rw [at_d, at_x]
  refine ⟨h.takeWord mem, hx, fun single => ?_⟩
  have bound := h.copies x hx single
  have fewer := trackerWordsFor_erase mem x.slot
  rw [slot, List.count_singleton_self] at fewer
  have entries : entriesNaming (s.modifyWords fun w => { w with tracker := w.tracker.erase d }) x.slot =
    entriesNaming s x.slot := rfl
  omega

theorem copiesIn_le_one (k : ExchangeKey) (st : ExchangeState) : copiesIn k st ≤ 1 := by
  unfold copiesIn
  split <;> omega

theorem Pool.takeCompleted (h : Pool once copiesIn [] [] s) : Pool once copiesIn [] [] (takeCompleted i s) := by
  unfold Machine.takeCompleted
  split
  · next x n t taken =>
    obtain ⟨kept, hx, fewer⟩ := h.takeTrackerWord taken
    have none : x.responderPort ≠ .flooded →
        entriesNaming t x.slot + trackerWordsFor t x.slot + ([] : List SlotId).count x.slot = 0 := fun single => by
        have := fewer single
        have := copiesIn_le_one x.key x.state
        omega
    have awaits : ∀ f : Exchange → Exchange, (∀ y, f y = { y with deadline := (f y).deadline, state := (f y).state }) →
        Pool once copiesIn [] [] (t.modifyExchange x.key f) := fun f only => by
      refine kept.modifyExchange (fun y => by rw [only]) (fun y => by rw [only]) (fun _ _ _ => le_rfl)
        fun y hy key single => ?_
      rw [only] at single
      rw [kept.key_unique hx hy key] at single ⊢
      rw [none single]
      exact Nat.zero_le _
    split
    · exact awaits _ fun _ => rfl
    · exact awaits _ fun _ => rfl
    · exact kept
    · exact kept
  · exact h

theorem Pool.loseCopy (h : Pool once allowed hand owed s) (hx : x ∈ s.exchanges) :
    Pool once allowed hand owed (s.loseCopy x c) := by
  unfold State.loseCopy
  split
  · split
    · exact h
    · exact h.closeExchange hx
  · exact h.closeExchange hx
  · exact h
  · exact h

theorem Pool.takeDiscarded (h : Pool once allowed hand owed s) : Pool once allowed hand owed (takeDiscarded i s) := by
  unfold Machine.takeDiscarded
  split
  · next taken =>
    obtain ⟨kept, hx, -⟩ := h.takeTrackerWord taken
    exact kept.loseCopy hx
  · exact h

theorem Pool.takeDisplaced (h : Pool once allowed hand owed s) : Pool once allowed hand owed (takeDisplaced i s) := by
  unfold Machine.takeDisplaced
  split
  · next taken =>
    obtain ⟨kept, hx, -⟩ := h.takeTrackerWord taken
    exact kept.loseCopy hx
  · exact h

/-! ## Expiries (R116, R117) -/

/-- The copies allowed while the request of key `k` is queued once more. -/
def copiesWith (k : ExchangeKey) (k' : ExchangeKey) (st : ExchangeState) : Nat := if k' = k then 1 else copiesIn k' st

theorem copiesIn_le_copiesWith (k k' : ExchangeKey) (st : ExchangeState) : copiesIn k' st ≤ copiesWith k k' st := by
  unfold copiesWith
  split
  · exact copiesIn_le_one ..
  · exact le_rfl

/-- A request that awaits its reply may be offered to one more port. -/
theorem Pool.offerable_again (h : Pool once copiesIn [] [] s) (hx : x ∈ s.exchanges) (single : x.responderPort ≠ .flooded)
    (awaits : x.state = .awaitReply) : Offerable (copiesWith x.key) [] s x.slot [p] := by
  have none := h.copies x hx single
  simp only [copiesIn, awaits, true_or, if_true, List.count_nil] at none
  refine ⟨List.nodup_singleton p, h.nameable_of_record hx, fun q _ => ?_, fun y hy slot _ => ?_⟩
  · have sum := entriesAt_le s x.slot q
    omega
  · rw [h.record_unique hx hy slot]
    simp only [copiesWith, if_true, List.count_nil, List.length_singleton]
    omega

theorem Pool.retryExchange (h : Pool once copiesIn [] [] s) (hx : x ∈ s.exchanges) (single : x.responderPort ≠ .flooded)
    (awaits : x.state = .awaitReply) : Pool once copiesIn [] [] (s.retryExchange x p) := by
  have raised : Pool once (copiesWith x.key) [] [] s := h.allow fun _ _ => copiesIn_le_copiesWith ..
  obtain ⟨offered, -⟩ := raised.offer (p := p) (e := ⟨.ordinary, 0, .relayed, x.slot⟩) (h.offerable_again hx single awaits)
  have exchanges := exchanges_of_traffic (State.offer_traffic s p ⟨.ordinary, 0, .relayed, x.slot⟩)
  unfold State.retryExchange
  split
  · next u eq =>
    rw [eq] at offered exchanges
    have retried : Pool once copiesIn [] [] (u.modifyExchange x.key fun x =>
        { x with attempt := 2, deadline := none, responderPort := .port p, state := .retryPending }) := by
      refine offered.modifyExchange (fun _ => rfl) (fun _ => rfl) (fun y _ other => ?_) fun y hy key _ => ?_
      · rw [copiesWith, if_neg other]
      · have hx' : x ∈ u.exchanges := exchanges ▸ hx
        rw [offered.key_unique hx' hy key]
        have bound := offered.copies x hx' single
        rwa [copiesWith, if_pos rfl] at bound
    exact retried.congr rfl
  · next u eq =>
    have kept : Pool once copiesIn [] [] u := by
      rcases Statements.offer_cases s p ⟨.ordinary, 0, .relayed, x.slot⟩ with same | same | same | ⟨d, l, -, same⟩ <;>
        rw [same] at eq <;> cases eq
      · exact h
      · exact h.refuseAtFull
    rw [eq] at exchanges
    exact kept.closeExchange (exchanges ▸ hx)

theorem Pool.expireFirst (h : Pool once copiesIn [] [] s) : Pool once copiesIn [] [] (expireFirst k s) := by
  unfold Machine.expireFirst
  split
  · next x found =>
    have hx : x ∈ s.exchanges := List.mem_of_find?_eq_some found
    split
    · next expired =>
      split
      · next port _ =>
        exact h.retryExchange hx (by rw [port]; exact nofun) ((x.expiredIn_iff .awaitReply).mp expired).1
      · exact h.closeExchange hx
    · exact h
  · exact h

theorem Pool.expireSecond (h : Pool once allowed hand owed s) : Pool once allowed hand owed (expireSecond k s) := by
  unfold Machine.expireSecond
  split
  · next x found =>
    split
    · exact h.closeExchange (List.mem_of_find?_eq_some found)
    · exact h
  · exact h

/-! ## The port-down word (R122) -/

/-- The records judged are closed one after another, each while it stands in the table. -/
theorem Pool.judged {l : List Exchange} (h : Pool once allowed hand owed s) (stand : ∀ x ∈ l, x ∈ s.exchanges)
    (distinct : l.Pairwise fun x y => x.key ≠ y.key) :
    Pool once allowed hand owed (l.foldl (State.judgePortDown p) s) := by
  induction l generalizing s with
  | nil => exact h
  | cons x l ih =>
    obtain ⟨apart, distinct⟩ := List.pairwise_cons.mp distinct
    have hx := stand x List.mem_cons_self
    have rest : ∀ y ∈ l, y ∈ s.exchanges := fun y mem => stand y (List.mem_cons_of_mem _ mem)
    rw [List.foldl_cons]
    unfold State.judgePortDown
    split
    · refine ih (h.closeExchange hx) (fun y mem => ?_) distinct
      rw [State.closeExchange_exchanges]
      exact (List.mem_eraseP_of_neg (by simpa using Ne.symm (apart y mem))).mpr (rest y mem)
    · exact ih h rest distinct

theorem Pool.takePortDown (h : Pool once allowed hand owed s) : Pool once allowed hand owed (takePortDown p s) := by
  unfold Machine.takePortDown
  split
  · have taken : Pool once allowed hand owed (s.modifyWords fun w => { w with portDown := w.portDown.erase p }) :=
      h.congr rfl
    exact taken.judged (fun _ mem => mem) h.keys
  · exact h

/-! ## The Station Map's word and the Report Generator (R87, R124) -/

theorem Pool.takeTimeoutWord {a : Byte} (h : Pool once allowed hand owed s) :
    Pool once allowed hand owed (takeTimeoutWord a s) := by
  unfold Machine.takeTimeoutWord
  dsimp only
  split
  · split
    · split
      · exact h.congr rfl
      · split
        · exact h.congr rfl
        · exact h.congr rfl
    · exact h.congr rfl
  · exact h

theorem Pool.takeReport (h : Pool once allowed [] owed s) : Pool once allowed [] owed (takeReport s) := by
  unfold Machine.takeReport
  split
  · exact h
  · next r rest _ =>
    have taken : Pool once allowed [] owed { s with reports := rest } := h.congr rfl
    dsimp only
    split
    · exact taken.congr rfl
    · next i claimed claim =>
      obtain ⟨k, free, eq⟩ := Option.map_eq_some_iff.mp claim
      cases eq
      have sent := taken.claimAndSend (frame := reportFrame s.management.ownAddress r) free (List.nodup_singleton r.port)
      split
      · next eq =>
        rw [eq] at sent
        exact sent.count _
      · next eq =>
        rw [eq] at sent
        exact sent

end Sys2Proof.Safety
end

section
/-! PROOFS. Relay decisions and notices keep the books (`Pool`). -/

namespace Sys2Proof.Safety

open Sys2Proof.Machine

variable {once : Prop} {allowed : ExchangeKey → ExchangeState → Nat} {hand owed : List SlotId} {s t : State}
  {p q : Port} {i j : SlotId} {x y : Exchange} {h : HeldFrame} {f : Slot} {output start : List Port} {route : Route}

/-! ## Frames carried (R106 to R108) -/

/-- Slot `i` is in use and nothing names it: a frame that a decision or a generator has in hand. -/
def Unnamed (s : State) (i : SlotId) : Prop := (s.slot i).state = .inUse ∧ (s.slot i).refs = 0

theorem Pool.nothing_names (k : Pool once allowed hand owed s) (unnamed : (s.slot i).refs = 0) :
    entriesNaming s i = 0 ∧ recordsNaming s i = 0 ∧ trackerWordsFor s i = 0 ∧ owed.count i = 0 := by
  have sound := k.sound i
  have refs := sound.refs
  have announced := sound.announced
  simp only [tallyOf, unnamed] at refs announced
  refine ⟨by omega, by omega, ?_, by omega⟩
  by_contra some
  exact announced some (by omega)

theorem outputSet_nodup (s : State) (h : HeldFrame) (starts : s.startingSet h f route = some start) :
    (s.outputSet h start).Nodup := by
  refine List.Nodup.filter _ ?_
  have four : allPorts.Nodup := by decide
  unfold State.startingSet at starts
  split at starts
  · cases starts; exact List.nodup_singleton _
  · split at starts
    · cases starts; exact four
    · split at starts
      · cases starts; exact List.nodup_singleton _
      · split at starts <;> cases starts
        exact four

theorem Offerable.raiseHop (o : Offerable allowed owed s i output) :
    Offerable allowed owed (s.modifySlot i Slot.raiseHop) i output :=
  o.congr (.refl _) (by rw [State.slot_modifySlot_same]; rfl) rfl (fun _ _ => rfl) le_rfl

theorem Pool.carry (k : Pool once allowed hand owed s) (o : Offerable allowed owed s h.slot output) :
    Pool once allowed hand owed (s.carry h f output).1 := by
  have raised : Pool once allowed hand owed (s.modifySlot h.slot Slot.raiseHop) :=
    k.write (by rw [o.nameable.1]; exact nofun) rfl rfl
  exact raised.offerAll (e := { band := f.kind.band, collisions := 0, origin := .relayed, slot := h.slot }) o.raiseHop

/-- An exchange opens on a slot in hand that nothing names (R113). -/
theorem Pool.openExchange (k : Pool once allowed (x.slot :: hand) owed s) (unnamed : Unnamed s x.slot)
    (fresh : ∀ y ∈ s.exchanges, y.key ≠ x.key) : Pool once allowed (x.slot :: hand) owed (s.openExchange x) := by
  obtain ⟨used, refs⟩ := unnamed
  obtain ⟨entries, records, words, owes⟩ := k.nothing_names refs
  have naming : ∀ i, recordsNaming (s.openExchange x) i = recordsNaming s i + [x.slot].count i := fun i => by
    rw [recordsNaming_eq, recordsNaming_eq, ← List.count_append, ← List.map_singleton (f := Exchange.slot), ← List.map_append]
    rfl
  have tally : ∀ i, tallyOf (s.openExchange x) (x.slot :: hand) owed i = { tallyOf s (x.slot :: hand) owed i with
      slot := (s.openExchange x).slot i, records := recordsNaming s i + [x.slot].count i } := fun i => by
    unfold tallyOf
    rw [naming]
    rfl
  refine k.of_tally (i := x.slot) (fun j ne => ?_) ?_ ?_ (fun y mem single => ?_) k.apart
  · rw [tally, List.count_eq_zero_of_not_mem (by simpa using ne), State.openExchange, State.slot_addRef_other _ ne]
    rfl
  · rw [tally, List.count_singleton_self, State.openExchange, State.slot_addRef_same]
    have sound := k.sound x.slot
    have waiting := k.heldOutside_hand
    exact sound.named used (by simp only [tallyOf]; omega) (by simp only [tallyOf]; omega) (by omega)
      (by simp only [tallyOf]; omega)
  · exact List.pairwise_append.mpr ⟨k.keys, List.pairwise_singleton .., fun y mem z hz => by
      rw [List.mem_singleton.mp hz]; exact fresh y mem⟩
  · show entriesNaming s y.slot + trackerWordsFor s y.slot + _ ≤ _
    rcases List.mem_append.mp mem with mem | new
    · exact k.copies y mem single
    · obtain rfl := List.mem_singleton.mp new
      omega

/-- A new exchange's frame may be offered to the ports of its output set. -/
theorem Pool.offerable_opened (k : Pool once copiesIn (h.slot :: hand) owed s) (unnamed : Unnamed s h.slot)
    (fresh : ∀ y ∈ s.exchanges, y.key ≠ f.requestKey) (distinct : output.Nodup) :
    Offerable copiesIn owed (s.openExchange (s.newExchange h f output)) h.slot output := by
  have opened := k.openExchange (x := s.newExchange h f output) unnamed fresh
  obtain ⟨entries, -, words, owes⟩ := k.nothing_names unnamed.2
  have waiting := k.heldOutside_hand
  have used : ((s.openExchange (s.newExchange h f output)).slot h.slot).state = .inUse := by
    rw [State.openExchange, show h.slot = (s.newExchange h f output).slot from rfl, State.slot_addRef_same]
    exact unnamed.1
  refine ⟨distinct, ⟨used, ?_⟩, fun q _ => ?_, fun y mem slot single => ?_⟩
  · show framesWaiting s h.slot = 0
    omega
  · have sum := entriesAt_le s h.slot q
    show s.entriesAt h.slot q = 0
    omega
  · have new : s.newExchange h f output ∈ (s.openExchange (s.newExchange h f output)).exchanges :=
      List.mem_append_right _ List.mem_cons_self
    obtain rfl := opened.record_unique new mem slot
    have one : output.length = 1 := by
      change responderPortOf output ≠ .flooded at single
      unfold responderPortOf at single
      split at single
      · rfl
      · exact absurd rfl single
    show entriesNaming s h.slot + trackerWordsFor s h.slot + owed.count h.slot + output.length ≤
      copiesIn f.requestKey .sendPending
    rw [entries, words, owes, one]
    exact le_rfl

theorem Pool.carryRequest (k : Pool once copiesIn (h.slot :: hand) owed s) (unnamed : Unnamed s h.slot)
    (fresh : s.findExchange f.requestKey = none) (distinct : output.Nodup) :
    Pool once copiesIn (h.slot :: hand) owed (s.carryRequest h f output) := by
  have new : ∀ y ∈ s.exchanges, y.key ≠ f.requestKey := by simpa [State.findExchange] using fresh
  have opened := k.openExchange (x := s.newExchange h f output) unnamed new
  have carried := opened.carry (h := h) (f := f) (k.offerable_opened unnamed new distinct)
  have exchanges : ((s.openExchange (s.newExchange h f output)).carry h f output).1.exchanges =
      s.exchanges ++ [s.newExchange h f output] :=
    exchanges_of_traffic (State.offerAll_traffic ((s.openExchange (s.newExchange h f output)).modifySlot h.slot Slot.raiseHop)
      { band := f.kind.band, collisions := 0, origin := .relayed, slot := h.slot } output)
  unfold State.carryRequest
  dsimp only
  split
  · next u eq =>
    rw [eq] at carried exchanges
    refine carried.closeExchange ?_
    rw [exchanges]
    exact List.mem_append_right _ List.mem_cons_self
  · next eq => rw [eq] at carried; exact carried

theorem Pool.openAndCarry (k : Pool once copiesIn (h.slot :: hand) owed s) (unnamed : Unnamed s h.slot)
    (distinct : output.Nodup) : Pool once copiesIn (h.slot :: hand) owed (s.openAndCarry h f output) := by
  unfold State.openAndCarry
  split
  · split
    · exact k.count _
    · next fresh =>
      split
      · exact k.carryRequest unnamed (by simpa using fresh) distinct
      · exact (k.count _).askReport ..
  · exact k.carry (k.offerable unnamed.1 unnamed.2 distinct)

/-! ## The steps of a decision (R96 to R105) -/

theorem Pool.routeFrame (k : Pool once copiesIn (h.slot :: hand) owed s) (unnamed : Unnamed s h.slot) :
    Pool once copiesIn (h.slot :: hand) owed (s.routeFrame h f route) := by
  unfold State.routeFrame
  split
  · exact k.count _
  · split
    · exact k.count _
    · next starts =>
      split
      · exact k.count _
      · exact k.openAndCarry unnamed (outputSet_nodup s h starts)

theorem Pool.applyRules (k : Pool once copiesIn (h.slot :: hand) owed s) (unnamed : Unnamed s h.slot) :
    Pool once copiesIn (h.slot :: hand) owed (s.applyRules h f) := by
  unfold State.applyRules
  split
  · next r rules _ =>
    have hit : Pool once copiesIn (h.slot :: hand) owed { s with relay := { s.relay with rules := rules } } := k.congr rfl
    dsimp only
    split
    · exact hit.routeFrame unnamed
    · exact hit.count _
    · exact hit.routeFrame unnamed
  · split
    · exact k.routeFrame unnamed
    · exact k.count _

theorem Pool.matchReply (k : Pool once copiesIn (h.slot :: hand) owed s) (unnamed : Unnamed s h.slot) :
    Pool once copiesIn (h.slot :: hand) owed (s.matchReply h f) := by
  unfold State.matchReply
  split
  · split
    · next x found =>
      have mem : x ∈ s.exchanges := List.mem_of_find?_eq_some found
      have ne : h.slot ≠ x.slot := fun slot =>
        absurd (k.nothing_names unnamed.2).2.1 (recordsNaming_ne_zero.mpr ⟨x, mem, slot.symm⟩)
      refine (k.closeExchange mem).applyRules ?_
      unfold Unnamed
      rw [State.slot_closeExchange_other s x .byReply ne]
      exact unnamed
    · split
      · exact k.count _
      · exact k.applyRules unnamed
  · exact k.applyRules unnamed

/-- A slot that waits in the input queue is not let go. -/
theorem letGo_of_waiting (waits : framesWaiting s i ≠ 0) : s.letGo i = s := by
  refine State.letGo_of_held s ?_
  rw [← Bool.not_eq_false, heldOutside_eq_false]
  omega

/-- A frame for the relay joins the input queue, or is let go (R98, R148). -/
theorem Pool.handOver (k : Pool once allowed (h.slot :: hand) owed s) (unnamed : Unnamed s h.slot) :
    Pool once allowed hand owed ((s.handOver h f).letGo h.slot) := by
  unfold State.handOver
  split
  · split
    · have more : ∀ j, framesWaiting { s with management := { s.management with queue := s.management.queue ++ [h] } } j =
          framesWaiting s j + [h.slot].count j := fun j => by
        unfold framesWaiting
        rw [List.map_append, List.count_append, Nat.add_assoc]
        rfl
      rw [letGo_of_waiting (by rw [more, List.count_singleton_self]; omega)]
      exact k.wait rfl more unnamed.1 unnamed.2
    · exact (k.count _).letGo
  · exact (k.count _).letGo

theorem books_updateMap (s : State) (a : Byte) (p : Port) : books (s.updateMap a p).1 = books s := by
  unfold State.updateMap
  split
  · split
    · rfl
    · unfold State.learnNew
      split
      · split <;> rfl
      · rfl
  · split
    · rfl
    · split
      · rfl
      · split
        · rfl
        · unfold State.moveStation
          split <;> rfl

theorem Pool.judgeFrame (k : Pool once copiesIn (h.slot :: hand) owed s) (unnamed : Unnamed s h.slot) :
    Pool once copiesIn hand owed ((s.judgeFrame h f).letGo h.slot) := by
  unfold State.judgeFrame
  split
  · exact (k.count _).letGo
  · split
    · exact ((k.count _).raise ..).letGo
    · have updated := k.congr (books_updateMap s f.source h.ingress)
      have same : (s.updateMap f.source h.ingress).1.slots = s.slots := by rw [Statements.updateMap_only]
      split
      · next u eq =>
        rw [eq] at updated same
        have still : Unnamed u h.slot := by
          unfold Unnamed
          rw [State.slot_congr same]
          exact unnamed
        unfold State.judgeDestination
        split
        · exact (updated.count _).letGo
        · split
          · exact updated.handOver still
          · exact (updated.matchReply still).letGo
      · next eq => rw [eq] at updated; exact updated.letGo

theorem Pool.takeDecision (k : Pool once copiesIn [] [] s) : Pool once copiesIn [] [] (takeDecision s) := by
  unfold Machine.takeDecision
  split
  · exact k
  · next h rest input =>
    have fewer : ∀ j, framesWaiting s j =
        framesWaiting { s with relay := { s.relay with input := rest } } j + [h.slot].count j := fun j => by
      show (s.relay.input.map (·.slot)).count j + _ =
        (rest.map (·.slot)).count j + (s.management.queue.map (·.slot)).count j + _
      rw [input, List.map_cons, List.count_cons, List.count_singleton]
      omega
    have waits : framesWaiting s h.slot ≠ 0 := by
      rw [fewer, List.count_singleton_self]; omega
    have sound := k.sound h.slot
    have unnamed : Unnamed s h.slot := by
      refine ⟨?_, sound.unnamed_of_held (by simp only [tallyOf]; omega)⟩
      cases state : (s.slot h.slot).state with
      | free => exact absurd (sound.free state).2.2 waits
      | filling => exact absurd (sound.filling state).2.1 waits
      | inUse => rfl
    have taken : Pool once copiesIn [h.slot] [] { s with relay := { s.relay with input := rest } } :=
      k.takeWaiting rfl fewer
    exact taken.judgeFrame unnamed

/-! ## Notices (R140 to R147) -/

theorem Pool.notices (k : Pool once allowed hand owed s) (u : NoticeUnit → NoticeUnit) :
    Pool once allowed hand owed (s.modifyNotices u) := k.congr rfl

theorem Pool.takeRaised {n : RaisedNotice} (k : Pool once allowed hand owed s) :
    Pool once allowed hand owed (takeRaised n s) := by
  rcases takeRaised_cases n s with eq | ⟨-, eq⟩ <;> rw [eq]
  · exact k
  · exact k.congr rfl

theorem noticePorts_nodup (s : State) (target : Byte) : (s.noticePorts target).Nodup := by
  unfold State.noticePorts
  split
  · exact List.nodup_singleton _
  · exact List.Nodup.filter _ (by decide)

theorem Pool.offerNotice {n : Notice} {target : Byte} (k : Pool once allowed [i] owed s) (unnamed : Unnamed s i) :
    Pool once allowed [] owed (s.offerNotice i n target) := by
  have sent := Pool.sendGenerated (frame := noticeFrame target s.management.ownAddress s.notices.lost n)
    (k.notices fun u => { u with slotWait := false }) unnamed.1 unnamed.2 (noticePorts_nodup s target)
  unfold State.offerNotice
  dsimp only
  split
  · next eq => rw [eq] at sent; exact sent.notices _
  · next eq => rw [eq] at sent; exact sent.notices _

theorem Pool.sendNotice (k : Pool once allowed [] owed s) : Pool once allowed [] owed (sendNotice s) := by
  unfold Machine.sendNotice
  split
  · split
    · next claim =>
      obtain ⟨i, found, eq⟩ := Option.map_eq_some_iff.mp claim
      cases eq
      refine Pool.offerNotice (k.claim (s.lowestFree_free found) (by simp) (st := .inUse) nofun) ?_
      unfold Unnamed
      rw [State.slot_modifySlot_same]
      exact ⟨rfl, rfl⟩
    · exact k.notices _
  · exact k

theorem Pool.takeNoticeCopy (k : Pool once allowed hand owed s) : Pool once allowed hand owed (takeNoticeCopy s) := by
  unfold Machine.takeNoticeCopy
  split
  · next d rest f _ _ =>
    have taken : Pool once allowed hand owed (s.modifyWords fun w => { w with noticeCopies := rest }) := k.congr rfl
    exact taken.notices _
  · exact k

theorem Pool.expireNoticeInterval (k : Pool once allowed hand owed s) :
    Pool once allowed hand owed (expireNoticeInterval s) := by
  unfold Machine.expireNoticeInterval
  split
  · exact k.notices _
  · exact k

theorem Pool.expireAging (k : Pool once allowed hand owed s) : Pool once allowed hand owed (expireAging s) := by
  unfold Machine.expireAging
  split
  · exact k.congr rfl
  · exact k

theorem Pool.takeWatchedReply (k : Pool once allowed [] [] s) : Pool once allowed [] [] (takeWatchedReply i s) := by
  unfold Machine.takeWatchedReply
  split
  · next d w _ _ =>
    have taken : Pool once allowed [] [] ((s.modifyWords fun x =>
        { x with watchedReplies := x.watchedReplies.erase d }).modifyManagement fun m =>
        { m with watch := m.watch.erase w }) := k.congr rfl
    unfold State.takeWatched
    split
    · exact taken.congr rfl
    · exact taken.takeRestart
  · exact k

end Sys2Proof.Safety
end

section
/-! PROOFS. Requests and the Image Loader keep the books (`Pool`). -/

namespace Sys2Proof.Safety

open Sys2Proof.Machine

variable {once : Prop} {allowed : ExchangeKey → ExchangeState → Nat} {hand owed : List SlotId} {s t : State}
  {p q : Port} {i j : SlotId} {h : HeldFrame} {command : Command} {e : QueueEntry}

/-! ## Commands that leave the books -/

/-- A command that leaves what the books are read from. -/
def LeavesBooks (command : Command) : Prop :=
  ∀ (ingress : Port) (args : List Byte) (s : State), books (command ingress args s).state = books s

theorem books_modifyPort (s : State) (p : Port) {f : LinePort → LinePort}
    (current : (f (s.port p)).receiver.currentSlot = (s.port p).receiver.currentSlot)
    (queue : (f (s.port p)).transmitter.queue = (s.port p).transmitter.queue) : books (s.modifyPort p f) = books s := by
  have queues : (fun q => ((s.modifyPort p f).port q).transmitter.queue.map (·.slot)) =
      fun q => (s.port q).transmitter.queue.map (·.slot) := funext fun q => by
    by_cases eq : q = p
    · rw [eq, State.port_modifyPort_same, queue]
    · rw [State.port_modifyPort_other s f eq]
  have currents : (fun q => ((s.modifyPort p f).port q).receiver.currentSlot) = fun q => (s.port q).receiver.currentSlot :=
    funext fun q => by
      by_cases eq : q = p
      · rw [eq, State.port_modifyPort_same, current]
      · rw [State.port_modifyPort_other s f eq]
  unfold books
  rw [queues, currents]
  rfl

theorem books_modifyRecord (s : State) (p : Port) (f : PortRecord → PortRecord) : books (s.modifyRecord p f) = books s :=
  books_modifyPort s p (f := fun x => { x with record := f x.record }) rfl rfl

theorem books_countPort (s : State) (p : Port) (f : PortCounters → PortCounters) : books (s.countPort p f) = books s :=
  books_modifyPort s p (f := fun x => { x with counters := f x.counters }) rfl rfl

theorem leavesBooks_readStatus : LeavesBooks readStatus := fun ingress args s => by
  unfold readStatus
  split
  · split <;> rfl
  · rfl

theorem books_clearCounters (s : State) (sel : Selection) (start n : Nat) :
    books (s.clearCounters sel start n) = books s := by
  unfold State.clearCounters
  split
  · exact books_countPort ..
  · rfl

theorem leavesBooks_readCounters : LeavesBooks readCounters := fun ingress args s => by
  unfold readCounters
  split
  · split
    · split
      · dsimp only
        split
        · exact books_clearCounters ..
        · rfl
      · rfl
    · rfl
  · rfl

theorem leavesBooks_readStation : LeavesBooks readStation := fun ingress args s => by
  unfold readStation
  split
  · split <;> rfl
  · rfl

theorem books_writeStatic {e : StationEntry} (written : s.writeStatic e = some t) : books t = books s := by
  unfold State.writeStatic at written
  split at written
  · cases written; rfl
  · split at written
    · cases written; rfl
    · obtain ⟨x, -, rfl⟩ := Option.map_eq_some_iff.mp written
      rfl

theorem leavesBooks_writeStation : LeavesBooks writeStation := fun ingress args s => by
  unfold writeStation
  split
  · split
    · split
      · split
        · next written => exact books_writeStatic written
        · rfl
      · rfl
    · rfl
  · rfl

theorem leavesBooks_removeStation : LeavesBooks removeStation := fun ingress args s => by
  unfold removeStation
  split
  · split <;> rfl
  · rfl

theorem leavesBooks_listStations : LeavesBooks listStations := fun ingress args s => by
  unfold listStations
  split <;> rfl

theorem leavesBooks_flushLearned : LeavesBooks flushLearned := fun ingress args s => by
  unfold flushLearned
  split
  · split <;> rfl
  · rfl

theorem leavesBooks_readRule : LeavesBooks readRule := fun ingress args s => by
  unfold readRule
  split
  · split <;> rfl
  · rfl

theorem leavesBooks_insertRule : LeavesBooks insertRule := fun ingress args s => by
  unfold insertRule
  split
  · split
    · split
      · split <;> rfl
      · rfl
    · rfl
  · rfl

theorem leavesBooks_deleteRule : LeavesBooks deleteRule := fun ingress args s => by
  unfold deleteRule
  split
  · split <;> rfl
  · rfl

theorem leavesBooks_replaceRule : LeavesBooks replaceRule := fun ingress args s => by
  unfold replaceRule
  split
  · split
    · split <;> rfl
    · rfl
  · rfl

theorem leavesBooks_setRuleDefaults : LeavesBooks setRuleDefaults := fun ingress args s => by
  unfold setRuleDefaults
  split
  · split <;> rfl
  · rfl

theorem leavesBooks_readPort : LeavesBooks readPort := fun ingress args s => by
  unfold readPort
  split
  · split <;> rfl
  · rfl

theorem leavesBooks_confirmRate : LeavesBooks confirmRate := fun ingress args s => by
  unfold confirmRate
  split
  · split
    · split
      · exact books_modifyRecord ..
      · rfl
      · rfl
    · rfl
  · rfl

theorem leavesBooks_setPortOptions : LeavesBooks setPortOptions := fun ingress args s => by
  unfold setPortOptions
  split
  · split
    · split
      · exact books_modifyRecord ..
      · rfl
    · rfl
  · rfl

theorem leavesBooks_readExchanges : LeavesBooks readExchanges := fun ingress args s => by
  unfold readExchanges
  split
  · split <;> rfl
  · rfl

theorem leavesBooks_setTimeouts : LeavesBooks setTimeouts := fun ingress args s => by
  unfold setTimeouts
  split
  · split <;> rfl
  · rfl

theorem leavesBooks_setAging : LeavesBooks setAging := fun ingress args s => by
  unfold setAging
  split
  · split <;> rfl
  · rfl

theorem leavesBooks_setManagers : LeavesBooks setManagers := fun ingress args s => by
  unfold setManagers
  split
  · split
    · rfl
    · split
      · rfl
      · split <;> rfl
  · rfl

theorem leavesBooks_setAddress : LeavesBooks setAddress := fun ingress args s => by
  unfold setAddress
  split
  · split
    · split <;> rfl
    · rfl
  · rfl

theorem books_retestSlotWait (s : State) : books s.retestSlotWait = books s := by
  rw [State.retestSlotWait_only]; rfl

theorem leavesBooks_setNoticeTarget : LeavesBooks setNoticeTarget := fun ingress args s => by
  unfold setNoticeTarget
  split
  · split
    · rfl
    · exact books_retestSlotWait _
  · rfl

theorem leavesBooks_ackNotice : LeavesBooks ackNotice := fun ingress args s => by
  unfold ackNotice
  split
  · split
    · next acknowledged =>
      obtain ⟨_, _, -, -, eq⟩ := State.acknowledge_some acknowledged
      show books _ = books s
      rw [eq]
      rfl
    · rfl
  · rfl

theorem leavesBooks_restart : LeavesBooks restart := fun ingress args s => by
  unfold restart
  split
  · split
    · split <;> rfl
    · rfl
  · rfl

theorem leavesBooks_loadPortState : LeavesBooks loadPortState := fun ingress args s => by
  unfold loadPortState
  split
  · split
    · exact books_modifyRecord ..
    · rfl
  · rfl

theorem leavesBooks_loadAging : LeavesBooks loadAging := fun ingress args s => by
  unfold loadAging
  split
  · split <;> rfl
  · rfl

theorem books_changeOwnAddress (s : State) (a : Byte) : books (s.changeOwnAddress a) = books s := by
  unfold State.changeOwnAddress
  rw [books_retestSlotWait]
  rfl

theorem leavesBooks_loadAddress : LeavesBooks loadAddress := fun ingress args s => by
  unfold loadAddress
  split
  · split
    · split
      · rfl
      · exact books_changeOwnAddress ..
    · rfl
  · rfl

/-! ## Commands that touch slots -/

/-- The books are kept, the input queue has the slots it had, and a slot that no entry names and no receiver has is as it was. -/
structure BooksKept (once : Prop) (allowed : ExchangeKey → ExchangeState → Nat) (s t : State) : Prop where
  pool : ∀ hand, Pool once allowed hand [] s → Pool once allowed hand [] t
  requests : t.management.queue.map (·.slot) = s.management.queue.map (·.slot)
  slot : ∀ j, entriesNaming s j = 0 → receiversOf s j = 0 → t.slot j = s.slot j

theorem BooksKept.of_books (same : books t = books s) : BooksKept once allowed s t where
  pool _ k := k.congr same
  requests := congrArg Books.requests same
  slot j _ _ := State.slot_congr (congrArg Books.slots same) j

/-- A command that keeps the books in a state with coherent ports. -/
def KeepsBooks (once : Prop) (allowed : ExchangeKey → ExchangeState → Nat) (command : Command) : Prop :=
  ∀ (ingress : Port) (args : List Byte) (s : State), PortsCoherent s →
    BooksKept once allowed s (command ingress args s).state

theorem LeavesBooks.keepsBooks (h : LeavesBooks command) : KeepsBooks once allowed command :=
  fun ingress args s _ => .of_books (h ingress args s)

/-- A receiver gives up no slot but its own. -/
theorem slot_abandonFrame_other {st : ReceiverState} (away : (s.port p).receiver.currentSlot ≠ some j) :
    (s.abandonFrame p st).slot j = s.slot j := by
  unfold State.abandonFrame
  dsimp only
  split
  · next i had =>
    rw [State.slot_letGo_other _ fun eq => away (by rw [had, eq])]
    rfl
  · rfl

theorem slot_abortFrame_other {st : ReceiverState} {counter : PortCounters → PortCounters}
    (away : (s.port p).receiver.currentSlot ≠ some j) : (s.abortFrame p st counter).slot j = s.slot j := by
  unfold State.abortFrame
  split
  · exact slot_abandonFrame_other (s := s.countPort p counter) (by rw [State.port_countPort_same]; exact away)
  · exact slot_abandonFrame_other away

theorem slot_departs_other {m : Manner} (l : List QueueEntry) (s : State) (away : ∀ e ∈ l, j ≠ e.slot) :
    (l.foldl (fun s e => State.depart s p m e) s).slot j = s.slot j := by
  induction l generalizing s with
  | nil => rfl
  | cons e l ih =>
    rw [List.foldl_cons, ih _ fun x mem => away x (List.mem_cons_of_mem _ mem), State.slot_depart,
      State.slot_releaseRef_other _ (away e List.mem_cons_self)]

theorem slot_flushQueue_other (away : s.entriesAt j p = 0) : (s.flushQueue p).slot j = s.slot j := by
  unfold State.flushQueue
  refine slot_departs_other _ _ fun e mem eq => ?_
  rw [entriesAt_eq, List.count_eq_zero] at away
  exact away (eq ▸ List.mem_map_of_mem mem)

/-- Nothing of a port names or has the slot. -/
theorem away_of_zero (entries : entriesNaming s j = 0) (receivers : receiversOf s j = 0) (p : Port) :
    s.entriesAt j p = 0 ∧ (s.port p).receiver.currentSlot ≠ some j := by
  have sum := entriesAt_le s j p
  exact ⟨by omega, receiversOf_eq_zero.mp receivers p⟩

theorem slot_goDown_other {a : AdminState} (entries : s.entriesAt j p = 0)
    (current : (s.port p).receiver.currentSlot ≠ some j) : (s.goDown p a).slot j = s.slot j := by
  have stopped : ((s.modifyPort p fun x =>
      { x with record := { x.record with admin := a }, transmitter := x.transmitter.stopped }).stopReceiver p).slot j =
      s.slot j := slot_abandonFrame_other (s := s.modifyPort p fun x =>
      { x with record := { x.record with admin := a }, transmitter := x.transmitter.stopped })
      (by rw [State.port_modifyPort_same]; exact current)
  refine Eq.trans (slot_flushQueue_other ?_) stopped
  rw [entriesAt_eq, port_stopReceiver, if_pos rfl, State.port_modifyPort_same]
  rw [entriesAt_eq] at entries
  exact entries

theorem booksKept_goDown (a : AdminState) : BooksKept once allowed s (s.goDown p a) where
  pool _ k := k.goDown
  requests := by
    show (((s.modifyPort p fun x => { x with record := { x.record with admin := a }
                                             transmitter := x.transmitter.stopped }).stopReceiver p).flushQueue
      p).management.queue.map _ = _
    rw [management_of_traffic (State.flushQueue_traffic ..), stopReceiver_only]
    rfl
  slot j entries receivers :=
    have away := away_of_zero entries receivers p
    slot_goDown_other away.1 away.2

theorem booksKept_setPortState (a : AdminState) (coherent : PortsCoherent s) :
    BooksKept once allowed s (s.setPortState p a) := by
  have port : ∀ f : LinePort → LinePort, (f (s.port p)).receiver.currentSlot = (s.port p).receiver.currentSlot →
      (f (s.port p)).transmitter.queue = (s.port p).transmitter.queue → BooksKept once allowed s (s.modifyPort p f) :=
    fun f current queue => .of_books (books_modifyPort s p current queue)
  have up : ∀ b b', s.admin p = b → b.isDown = true → BooksKept once allowed s (s.comeUp p b') := fun b b' admin down =>
    port _ (currentSlot_of_off ((portsCoherent_iff s).mp coherent p) (.inl (by
      rw [show (s.port p).record.admin = b from admin]; exact down))).symm rfl
  unfold State.setPortState
  split
  · exact port _ rfl (held_keeps _).1
  · exact port _ rfl (wakeTransmitter_keeps ..).1
  · exact booksKept_goDown _
  · exact booksKept_goDown _
  · next admin => exact up _ _ admin rfl
  · next admin => exact up _ _ admin rfl
  · next admin => exact up _ _ admin rfl
  · next admin => exact up _ _ admin rfl
  · exact .of_books (books_modifyRecord ..)
  all_goals exact .of_books rfl

theorem BooksKept.done (kept : BooksKept once allowed s t) : BooksKept once allowed s t.done.state := kept

theorem keepsBooks_setPortState : KeepsBooks once allowed setPortState := fun ingress args s coherent => by
  unfold setPortState
  split
  · split
    · exact (booksKept_setPortState _ coherent).done
    · exact .of_books rfl
  · exact .of_books rfl

theorem slot_applyRate_other {c : RateCode} (current : (s.port p).receiver.currentSlot ≠ some j) :
    (s.applyRate p c).slot j = s.slot j := by
  have away : ((clocked s p c).port p).receiver.currentSlot ≠ some j := by rw [port_clocked, if_pos rfl]; exact current
  have receives : ((clocked s p c).rateAtReceiver p).slot j = s.slot j := by
    unfold State.rateAtReceiver
    split
    case h_5 | h_6 | h_7 => exact slot_abortFrame_other away
    all_goals rfl
  rw [applyRate_eq, rateAtTransmitter_only]
  exact receives

/-- A rate applied, and the rate phase changed with it. -/
theorem booksKept_applyRate {c : RateCode} (f : PortRecord → PortRecord) (coherent : PortsCoherent s) :
    BooksKept once allowed s ((s.applyRate p c).modifyRecord p f) where
  pool _ k := (k.applyRate ((portsCoherent_iff s).mp coherent p).slot).recordOf f
  requests := by
    show (s.applyRate p c).management.queue.map _ = _
    rw [applyRate_only]
  slot j entries receivers := slot_applyRate_other (away_of_zero entries receivers p).2

theorem keepsBooks_setRate : KeepsBooks once allowed setRate := fun ingress args s coherent => by
  unfold setRate
  split
  · split
    · split
      · split
        · exact .of_books (books_modifyRecord ..)
        · exact BooksKept.done (booksKept_applyRate _ coherent)
      · exact .of_books rfl
    · exact .of_books rfl
  · exact .of_books rfl

theorem keepsBooks_loadRate : KeepsBooks once allowed loadRate := fun ingress args s coherent => by
  unfold loadRate
  split
  · split
    · exact BooksKept.done (booksKept_applyRate _ coherent)
    · exact .of_books rfl
  · exact .of_books rfl

/-! ## Requests (R149) -/

theorem Pool.finishRequest {rest : List HeldFrame} (k : Pool once allowed hand owed s)
    (head : s.management.queue.map (·.slot) = h.slot :: rest.map (·.slot)) :
    Pool once allowed hand owed (s.finishRequest h) := by
  have fewer : ∀ j, framesWaiting s j =
      framesWaiting (s.modifyManagement fun m => { m with queue := m.queue.drop 1 }) j + [h.slot].count j := fun j => by
    show _ + (s.management.queue.map (·.slot)).count j =
      _ + ((s.management.queue.drop 1).map (·.slot)).count j + _
    rw [List.map_drop, head, List.drop_one, List.tail_cons, List.count_cons, List.count_singleton, Nat.add_assoc]
    rfl
  exact (k.takeWaiting (t := s.modifyManagement fun m => { m with queue := m.queue.drop 1 }) rfl fewer).letGo

theorem Pool.settle {w : Waiting} {admitted : Bool} (k : Pool once allowed [] [] s) :
    Pool once allowed [] [] (s.settle w i admitted) := by
  unfold State.settle
  split
  · exact k
  · exact k.congr (books_changeOwnAddress ..)
  · split
    · exact k.congr rfl
    · exact k.congr rfl
  · split
    · exact k.congr rfl
    · exact k.takeRestart

theorem Pool.executeRequest {rest : List HeldFrame} (k : Pool once allowed [i] [] s) (unnamed : Unnamed s i)
    (coherent : PortsCoherent s) (keeps : KeepsBooks once allowed command)
    (head : s.management.queue = h :: rest) : Pool once allowed [] [] (s.executeRequest h i command) := by
  have performed : BooksKept once allowed s (s.perform h (s.slot h.slot) command).state := by
    unfold State.perform
    split
    · exact keeps _ _ s coherent
    · exact .of_books rfl
  unfold State.executeRequest
  dsimp only
  generalize s.perform h (s.slot h.slot) command = done at performed ⊢
  have same : done.state.slot i = s.slot i := performed.slot i (k.nothing_names unnamed.2).1 (by
    have := k.heldOutside_hand
    omega)
  have sent : ∀ frame, Pool once allowed [] [] (done.state.sendGenerated i frame [h.ingress]).1 := fun frame =>
    (performed.pool [i] k).sendGenerated (by rw [same]; exact unnamed.1) (by rw [same]; exact unnamed.2)
      (List.nodup_singleton _)
  have queue : ∀ frame, (done.state.sendGenerated i frame [h.ingress]).1.management.queue.map (·.slot) =
      h.slot :: rest.map (·.slot) := fun frame => by
    rw [management_of_traffic (State.sendGenerated_traffic ..), performed.requests, head, List.map_cons]
  exact ((sent _).finishRequest (rest := rest) (queue _)).settle

theorem Pool.runRequest {selects : List Byte → Bool} (k : Pool once allowed [] [] s) (coherent : PortsCoherent s)
    (keeps : KeepsBooks once allowed command) : Pool once allowed [] [] (runRequest selects command s) := by
  unfold Machine.runRequest
  split
  · exact k
  · next h rest head =>
    split
    · split
      · next claim =>
        obtain ⟨i, found, eq⟩ := Option.map_eq_some_iff.mp claim
        cases eq
        refine Pool.executeRequest (rest := rest) (k.claim (s.lowestFree_free found) (by simp) (st := .inUse) nofun) ?_
          coherent keeps head
        unfold Unnamed
        rw [State.slot_modifySlot_same]
        exact ⟨rfl, rfl⟩
      · exact k
    · exact k

theorem Pool.runUnknown (k : Pool once allowed [] [] s) (coherent : PortsCoherent s) :
    Pool once allowed [] [] (runUnknown s) := by
  unfold Machine.runUnknown
  split
  · exact k
  · refine k.runRequest coherent (LeavesBooks.keepsBooks fun ingress args s => ?_)
    split <;> rfl

/-! ## The Image Loader -/

theorem keepsBooks_recordCommand {code : Byte} (row : recordCommand code = some command) :
    KeepsBooks once allowed command := by
  unfold recordCommand at row
  have next : ∀ {b : Prop} [Decidable b] {c : Command} {o : Option Command}, (if b then some c else o) = some command →
      KeepsBooks once allowed c → (o = some command → KeepsBooks once allowed command) →
      KeepsBooks once allowed command := by
    intro b _ c o row here rest
    split at row
    · cases row; exact here
    · exact rest row
  refine next row leavesBooks_writeStation.keepsBooks fun row => next row leavesBooks_insertRule.keepsBooks fun row =>
    next row leavesBooks_setRuleDefaults.keepsBooks fun row => next row leavesBooks_loadPortState.keepsBooks fun row =>
    next row keepsBooks_loadRate fun row => next row leavesBooks_setPortOptions.keepsBooks fun row =>
    next row leavesBooks_setTimeouts.keepsBooks fun row => next row leavesBooks_loadAging.keepsBooks fun row =>
    next row leavesBooks_setManagers.keepsBooks fun row => next row leavesBooks_loadAddress.keepsBooks fun row =>
    next row leavesBooks_setNoticeTarget.keepsBooks fun row => by cases row

theorem Pool.modifyLoader (k : Pool once allowed hand owed s) (f : ImageLoader → ImageLoader) :
    Pool once allowed hand owed (s.modifyLoader f) := k.congr rfl

theorem Pool.readRecord (m : SerialMemory) (k : Pool once allowed [] [] s) (coherent : PortsCoherent s) :
    Pool once allowed [] [] (readRecord m s) := by
  unfold Machine.readRecord
  split
  · split
    · next payload pos running _ =>
      have read := k.modifyLoader fun l =>
        { l with position := pos, recordsRead := l.recordsRead + 1, runningCheck := running }
      unfold State.applyRecord
      split
      · exact read.modifyLoader _
      · split
        · next row =>
          dsimp only
          split
          · exact (keepsBooks_recordCommand row 0 _ (s.modifyLoader _) coherent).pool [] read
          · exact read.modifyLoader _
        · exact read.modifyLoader _
    · exact k
  · exact k

/-- While an image is loaded every receiver is OFF, with no slot. -/
theorem currentSlot_of_loading (coherent : PortsCoherent s) (loads : s.phase = .loading) (p : Port) :
    (s.port p).receiver.currentSlot = none :=
  currentSlot_of_off ((portsCoherent_iff s).mp coherent p) (.inr (by rw [loads]; exact nofun))

theorem Pool.finishPass1 (m : SerialMemory) (k : Pool once allowed hand owed s) (coherent : PortsCoherent s) :
    Pool once allowed hand owed (finishPass1 m s) := by
  unfold Machine.finishPass1
  split
  · next loads =>
    have empty := currentSlot_of_loading coherent loads.1
    split
    · exact (k.modifyLoader _).endLoad empty _
    · exact k.congr rfl
  · exact k

theorem Pool.finishPass2 (m : SerialMemory) (k : Pool once allowed hand owed s) (coherent : PortsCoherent s) :
    Pool once allowed hand owed (finishPass2 m s) := by
  unfold Machine.finishPass2
  split
  · next loads =>
    have empty := currentSlot_of_loading coherent loads.1
    split
    exact (k.modifyLoader _).endLoad empty _
  · exact k

end Sys2Proof.Safety
end

section
/-! PROOFS. Every step keeps the Frame Store consistent (R20, R21) and the transmit queues in order (R30, R31). -/

namespace Sys2Proof.Safety

open Sys2Proof.Machine

variable {once : Prop} {s t : State} {c : Instr} {p : Port} {coming : List Bool}

theorem Pool.whenInService {f : State → State} (k : Pool once copiesIn [] [] s) (e : s.whenInService f = .next t)
    (h : Pool once copiesIn [] [] (f s)) : Pool once copiesIn [] [] t := by
  unfold State.whenInService at e
  split at e <;> cases e
  · exact h
  · exact k

theorem Pool.whenFramersRun {f : State → State} (k : Pool once copiesIn [] [] s)
    (e : (s.lineBrings p coming).whenFramersRun f = .next t)
    (h : Pool once copiesIn [] [] (s.lineBrings p coming) → Pool once copiesIn [] [] (f (s.lineBrings p coming))) :
    Pool once copiesIn [] [] t := by
  have brought : Pool once copiesIn [] [] (s.lineBrings p coming) := k.congr rfl
  unfold State.whenFramersRun at e
  split at e <;> cases e
  · exact brought
  · exact h brought

/-- Every command keeps the books in a state with coherent ports. -/
theorem Pool.exec (k : Pool once copiesIn [] [] s) (coherent : PortsCoherent s) (e : exec c s = .next t) :
    Pool once copiesIn [] [] t := by
  have halves := (portsCoherent_iff s).mp coherent
  have requests : ∀ {command : Command} {selects : List Byte → Bool}, KeepsBooks once copiesIn command →
      s.whenInService (Machine.runRequest selects command) = .next t → Pool once copiesIn [] [] t :=
    fun keeps e => k.whenInService e (k.runRequest coherent keeps)
  cases c with
  | powerOn => cases e; exact pool_coldStarted ..
  | pinReset => cases e; exact pool_coldStarted ..
  | coldStart cfgen => cases e; exact k.releaseReset coherent cfgen
  | pass1End m => cases e; exact k.finishPass1 m coherent
  | imageRecord m => cases e; exact k.readRecord m coherent
  | pass2End m => cases e; exact k.finishPass2 m coherent
  | flushEnd => cases e; exact k.endFlush coherent
  | characterDelivered p coming => exact k.whenFramersRun e fun k => k.deliverCharacter (halves p).slot
  | judgedLineLevelChange p coming => exact k.whenFramersRun e fun k => k.judgeLevel
  | missingEcho p => exact k.whenInService e k.missEcho
  | abortGap p => exact k.whenInService e k.abortByGap
  | endOfResync p => exact k.whenInService e (k.leaveResync (halves p).slot)
  | lineStuck p => exact k.whenInService e k.raiseStuck
  | stuckLineEvent p => exact k.whenInService e k.takeStuckLine
  | beginSending p => exact k.whenInService e (k.startSending (halves p).slot)
  | jamEnd p => exact k.whenInService e (k.endJam (halves p))
  | backoffEnd p => exact k.whenInService e k.endBackoff
  | characterSent p => exact k.whenInService e k.finishCharacter
  | relayDecision => exact k.whenInService e k.takeDecision
  | exchangeCompleted i => exact k.whenInService e k.takeCompleted
  | exchangeDiscarded i => exact k.whenInService e k.takeDiscarded
  | exchangeDisplaced i => exact k.whenInService e k.takeDisplaced
  | portDownWord p => exact k.whenInService e k.takePortDown
  | firstExpiry key => exact k.whenInService e k.expireFirst
  | secondExpiry key => exact k.whenInService e k.expireSecond
  | timeoutWord a => exact k.whenInService e k.takeTimeoutWord
  | pathReport => exact k.whenInService e k.takeReport
  | agingExpiry => exact k.whenInService e k.expireAging
  | recoveryExpiry p => exact k.whenInService e (k.recoverPort (halves p))
  | rateReplyDeparted p => exact k.whenInService e (k.takeRateReply (halves p).slot)
  | windowExpiry p => exact k.whenInService e (k.expireWindow (halves p).slot)
  | noticeRaise n => exact k.whenInService e k.takeRaised
  | noticeSend => exact k.whenInService e k.sendNotice
  | noticeCopyDeparture => exact k.whenInService e k.takeNoticeCopy
  | noticeIntervalExpiry => exact k.whenInService e k.expireNoticeInterval
  | watchedReplyDeparture i => exact k.whenInService e k.takeWatchedReply
  | restartTimerExpiry => exact k.whenInService e k.expireRestart
  | unknownCommand => exact k.whenInService e (k.runUnknown coherent)
  | readStatus => exact requests leavesBooks_readStatus.keepsBooks e
  | readCounters => exact requests leavesBooks_readCounters.keepsBooks e
  | readStation => exact requests leavesBooks_readStation.keepsBooks e
  | writeStation => exact requests leavesBooks_writeStation.keepsBooks e
  | removeStation => exact requests leavesBooks_removeStation.keepsBooks e
  | listStations => exact requests leavesBooks_listStations.keepsBooks e
  | flushLearned => exact requests leavesBooks_flushLearned.keepsBooks e
  | readRule => exact requests leavesBooks_readRule.keepsBooks e
  | insertRule => exact requests leavesBooks_insertRule.keepsBooks e
  | deleteRule => exact requests leavesBooks_deleteRule.keepsBooks e
  | replaceRule => exact requests leavesBooks_replaceRule.keepsBooks e
  | setRuleDefaults => exact requests leavesBooks_setRuleDefaults.keepsBooks e
  | readPort => exact requests leavesBooks_readPort.keepsBooks e
  | setPortState => exact requests keepsBooks_setPortState e
  | setRate => exact requests keepsBooks_setRate e
  | confirmRate => exact requests leavesBooks_confirmRate.keepsBooks e
  | setPortOptions => exact requests leavesBooks_setPortOptions.keepsBooks e
  | readExchanges => exact requests leavesBooks_readExchanges.keepsBooks e
  | setTimeouts => exact requests leavesBooks_setTimeouts.keepsBooks e
  | setAging => exact requests leavesBooks_setAging.keepsBooks e
  | setManagers => exact requests leavesBooks_setManagers.keepsBooks e
  | setAddress => exact requests leavesBooks_setAddress.keepsBooks e
  | setNoticeTarget => exact requests leavesBooks_setNoticeTarget.keepsBooks e
  | ackNotice => exact requests leavesBooks_ackNotice.keepsBooks e
  | restart => exact requests leavesBooks_restart.keepsBooks e

/-- Every step keeps the books in a state with coherent ports. -/
theorem Pool.step (k : Pool once copiesIn [] [] s) (coherent : PortsCoherent s) (e : step s = .next t) :
    Pool once copiesIn [] [] t := by
  unfold Machine.step at e
  split at e
  · cases e
    exact k.tick
  · next c rest _ =>
    have waiting : Pool once copiesIn [] [] { s with pending := rest } := k.congr rfl
    exact waiting.exec coherent e

/-- Settles O59: the books of every slot are kept by each event (`Pool.step`), and between events they are what R20 and R21
ask. -/
theorem poolConsistencyIsKept : Obligations.PoolConsistencyIsKept := fun _ _ coherent pool e =>
  (Pool.step (once := False) (pool_of_consistent pool nofun) coherent e).consistent

/-- Settles O58: lengths, bands and the fields of entries by the moves of a port (`queuesRule`), and no slot twice in a queue by
the books, since an entry joins only where its slot does not stand. -/
theorem queueOrderIsKept : Obligations.QueueOrderIsKept := by
  intro s t coherent pool queues e p
  have books := Pool.step (once := True) (pool_of_consistent pool fun _ p => (queues p).2.1) coherent e
  have order := queuesRule.step (s := s) (t := t) (fun p => by
    obtain ⟨room, -, bands, entries⟩ := queues p
    exact ⟨(portsCoherent_iff s).mp coherent p, room, bands, entries⟩) e p
  obtain ⟨-, room, bands, entries⟩ := order
  exact ⟨room, books.apart trivial p, bands, entries⟩

end Sys2Proof.Safety
end
